-- ==== Sys2Proof/Word.lean ====
section
/-! DEFINITION. The words of the DB-240 that the manual treats as bits. -/
namespace Sys2Proof

/-- A byte of a frame, of a request or of the configuration memory. -/
abbrev Byte := BitVec 8

/-- A 10-bit converter code of the machine monitor, 0 to 1,023 (00_scope.md, Units). -/
abbrev Code := BitVec 10

/-- A value of the free-running millisecond counter, which READ_STATUS part 0 reports in 4 bytes that wrap at 2^32. -/
abbrev Millis := BitVec 32

end Sys2Proof
end

