-- ==== Sys2Proof/Syntax.lean ====
section
/-! DEFINITION. The commands of the DB-240: one constructor per row of spec/opcode_table.json. -/
namespace Sys2Proof

/-- The two drilling and bolting arms. -/
inductive Boom where
  | left | right
  deriving DecidableEq, Repr

/-- The three master ports; also the owners of a pump demand (R106). -/
inductive Port where
  | left | right | machine
  deriving DecidableEq, Repr

/-- "Its port" means that boom's master port (00_scope.md, Names). -/
def Boom.port : Boom → Port
  | .left => .left
  | .right => .right

/-- The strap pins read once in the pin pass (R183). `fast` is HEAD_RATE at 2 Mbit/s. -/
structure Straps where
  leftEnabled : Bool
  rightEnabled : Bool
  fast : Bool
  deriving DecidableEq, Repr

/-- The commands. Three kinds of row stand side by side in the table:
what the outside does (power, RESET_N, bits on a head link, a transfer on a port, a converter code),
a timer or a count reaching its threshold,
and the processing of the request that a port holds (R172).
An operand is what the outside supplies at that step; the operands of a request stand in the frame that its port holds. -/
inductive Instr where
  | powerOn
  | resetNAssert
  | resetNRelease
  /-- The outcome of the memory and the logic test, and the strap pins that the pin pass reads. -/
  | startUpSelfTestComplete (memoryPass logicPass : Bool) (pins : Straps)
  | opening
  /-- The line bits received since those of the command before it, up to the last bit of the closing flag. -/
  | frameClose (b : Boom) (bits : List Bool)
  /-- The line bits received since those of the command before it, up to the seventh consecutive 1. -/
  | frameAbort (b : Boom) (bits : List Bool)
  | fifoTake (b : Boom)
  | encoderReferenceDrop (b : Boom)
  | block (b : Boom)
  | stall (b : Boom)
  | mixTargetReached (b : Boom)
  | torqueAchieved (b : Boom)
  | slipped (b : Boom)
  | pollExpiry (b : Boom)
  | linkUp (b : Boom)
  | linkLost (b : Boom)
  | qualityBlockEnd (b : Boom)
  | noContact (b : Boom)
  | holdTimeElapsed (b : Boom)
  | torqueTimeout (b : Boom)
  | spinLate (b : Boom)
  | mixIncomplete (b : Boom)
  | torqueMissed (b : Boom)
  | waitTimeout (b : Boom)
  /-- The code that the converter gives for the channel being converted. -/
  | conversionEnd (code : Code)
  | roundStart
  | breachChange (code : Code)
  | monitorFault (code : Code)
  | monitorFaultClear (code : Code)
  | warmupEnd (code : Code)
  | transferBegin (p : Port)
  /-- The bits taken from data-in while select was asserted, in their order. -/
  | transferEnd (p : Port) (received : List Bool)
  | frameError (p : Port)
  | unknownKind (p : Port)
  | nop (p : Port)
  | clearCause (p : Port)
  | readStatus (p : Port)
  | readLive (p : Port)
  | readHole (p : Port)
  | readRow (p : Port)
  | readFault (p : Port)
  | readAttributes (p : Port)
  | readMonitor (p : Port)
  | readLink (p : Port)
  | beginHole (b : Boom)
  | collar (b : Boom)
  | drill (b : Boom)
  | retract (b : Boom)
  | insert (b : Boom)
  | spin (b : Boom)
  | torque (b : Boom)
  | stop (b : Boom)
  | abandon (b : Boom)
  | resume (b : Boom)
  | bitChanged (b : Boom)
  | supportSet
  | supportReleased
  | rowAdvance
  | tramDone
  | waive
  | clearOverflow
  | setPlan
  | flowTram
  | flowSupport
  | flowRelease
  | writeZone
  | loadZone
  | saveWear
  | pageWriteComplete
  | loadComplete
  | saveComplete
  | selfCheck
  /-- The code read at the end of the step. -/
  | checkStepEnd (code : Code)
  /-- The strap pins that the pin pass of this reset reads. -/
  | reset (pins : Straps)
  /-- The line bits received since those of the command before it, up to the last bit of the flag. -/
  | flagSeen (b : Boom) (bits : List Bool)
  /-- The line bits received since those of the command before it, up to the eighth bit of a first byte. -/
  | frameStart (b : Boom) (bits : List Bool)
  /-- The line bits received since those of the command before it, up to the seventh consecutive 1. -/
  | syncLostToHunt (b : Boom) (bits : List Bool)
  | powerOff
  deriving DecidableEq, Repr

end Sys2Proof
end

