-- ==== Sys2Proof/Machine/Types.lean ====
section
/-! DEFINITION. The records that the blocks of the DB-240 hold, each with its reset value, chapter by chapter. -/
namespace Sys2Proof.Machine

/-! ## Configuration values (chapter 11, zones 0 to 6) -/

/-- Zone 1: the classifier constants (section 3.1). -/
structure ClassifierConsts where
  seFull : Nat
  tVoid : Nat
  tSoft : Nat
  tHard : Nat
  hyst : Nat
  lMin : Nat
  wearRate : Nat
  deriving DecidableEq, Repr

/-- Zone 1: the five thresholds of the wear tables (R155). -/
structure Thresholds where
  bitWear : Nat
  feedZero : Nat
  linkQuality : Nat
  torqueSlip : Nat
  mixShort : Nat
  deriving DecidableEq, Repr

/-- Zone 1 as loaded. -/
structure Zone1 where
  consts : ClassifierConsts
  thresholds : Thresholds
  deriving DecidableEq, Repr

/-- Zones 2 and 3: a boom's calibration (R184). -/
structure Calib where
  m : Nat
  n : Nat
  kf : Nat
  kt : Nat
  aHole : Nat
  headAddress : Nat
  deriving DecidableEq, Repr

/-- Zone 4: the fields of one monitor channel (R138). -/
structure ChannelLimits where
  enabled : Bool
  hi : Nat
  lo : Nat
  hyst : Nat
  deriving DecidableEq, Repr

/-- Zone 4 as loaded (R138). -/
structure Zone4 where
  channels : List ChannelLimits
  refExp : Nat
  refTol : Nat
  sleep : Nat
  deriving DecidableEq, Repr

/-- A demand and its floor, in 0.1 L/min (R104). -/
structure Flow where
  demand : Nat
  floor : Nat
  deriving DecidableEq, Repr

/-- Zone 5: the plan and flow table, less its row plan (R58, R104, R123, R126, R184). -/
structure Zone5 where
  qPump : Nat
  collar : Flow
  drill : Flow
  retract : Flow
  insert : Flow
  spin : Nat
  hold : Nat
  torque : Nat
  tram : Flow
  support : Nat
  bReq : Nat
  pMin : Nat
  aAnn : Nat
  aVoid : Nat
  vC : Nat
  cMax : Nat
  rBase : Nat
  rStep : Nat
  tTarget : Nat
  rTq : Nat
  collarDepth : Nat
  clearDistance : Nat
  stallPressure : Nat
  blockPressure : Nat
  holdTime : Nat
  insertToSpin : Nat
  gelDeadline : Nat
  torqueWindow : Nat
  betweenCode : Nat
  separation : Nat
  longBolt : Nat
  deriving DecidableEq, Repr

/-- One slot of a row plan (R119). -/
structure PlanSlot where
  position : Nat
  depth : Nat
  deriving DecidableEq, Repr

/-- Defaults of zone 1 (section 3.1, section 9.1). -/
def Zone1.builtIn : Zone1 :=
  { consts := { seFull := 8000, tVoid := 12, tSoft := 50, tHard := 120, hyst := 6, lMin := 3, wearRate := 40 }
    thresholds := { bitWear := 40, feedZero := 60, linkQuality := 100, torqueSlip := 150, mixShort := 150 } }

/-- Defaults of zones 2 and 3 (R184). -/
def Calib.builtIn : Boom → Calib
  | .left => { m := 12, n := 4, kf := 800, kt := 25, aHole := 573, headAddress := 0x31 }
  | .right => { m := 12, n := 4, kf := 800, kt := 25, aHole := 573, headAddress := 0x32 }

/-- Defaults of zone 4 (R138). -/
def Zone4.builtIn : Zone4 :=
  { channels :=
      [ { enabled := true, hi := 205, lo := 20, hyst := 10 },
        { enabled := true, hi := 1023, lo := 160, hyst := 20 },
        { enabled := true, hi := 780, lo := 0, hyst := 25 },
        { enabled := true, hi := 1023, lo := 300, hyst := 20 },
        { enabled := true, hi := 1023, lo := 240, hyst := 15 },
        { enabled := true, hi := 1023, lo := 640, hyst := 12 } ]
    refExp := 655
    refTol := 12
    sleep := 50 }

/-- Defaults of zone 5 (R58, R104, R123, R126, R184; R_tq from R89). -/
def Zone5.builtIn : Zone5 :=
  { qPump := 1200
    collar := { demand := 200, floor := 100 }
    drill := { demand := 600, floor := 300 }
    retract := { demand := 400, floor := 150 }
    insert := { demand := 300, floor := 150 }
    spin := 600
    hold := 100
    torque := 450
    tram := { demand := 900, floor := 500 }
    support := 300
    bReq := 600, pMin := 75, aAnn := 258, aVoid := 1150, vC := 180956, cMax := 4
    rBase := 30, rStep := 10, tTarget := 200, rTq := 6
    collarDepth := 50, clearDistance := 50, stallPressure := 9000, blockPressure := 12000
    holdTime := 5000, insertToSpin := 6000, gelDeadline := 15000, torqueWindow := 30000
    betweenCode := 24, separation := 2, longBolt := 600 }

/-- The built-in row plan: six slots at positions 0 to 5, each 1,800 mm deep (R120). -/
def builtInPlan : List PlanSlot :=
  (List.range 6).map fun i => { position := i, depth := 1800 }

/-- The live configuration values that are not held in a block's own record. -/
structure Params where
  machineNumber : Nat
  classifier : ClassifierConsts
  calibLeft : Calib
  calibRight : Calib
  plan : Zone5
  deriving DecidableEq, Repr

/-- The live values before the first zone pass: the built-in defaults. -/
def Params.builtIn : Params :=
  { machineNumber := 0
    classifier := Zone1.builtIn.consts
    calibLeft := Calib.builtIn .left
    calibRight := Calib.builtIn .right
    plan := Zone5.builtIn }

/-! ## Head link (chapter 1) -/

/-- Receiver states (section 1.2). -/
inductive ReceiverState where
  | hunt | sync | frame
  deriving DecidableEq, Repr

/-- Link states (section 1.5). -/
inductive LinkState where
  | down | up | lost
  deriving DecidableEq, Repr

/-- The status of a received frame (R5). -/
inductive FrameStatus where
  | good | checkError | residue | long
  deriving DecidableEq, Repr

/-- One entry of the receive FIFO (section 1.3). `answer` is the answer mark: true for ANSWER, false for NONE. -/
structure FifoEntry where
  status : FrameStatus
  kind : Option Byte
  payload : Option (List Byte)
  answer : Bool
  deriving DecidableEq, Repr

/-- The eight counters of R15. -/
structure LinkStats where
  good : Nat
  checkErrors : Nat
  residue : Nat
  long : Nat
  abort : Nat
  mismatch : Nat
  overrun : Nat
  glitch : Nat
  deriving DecidableEq, Repr

/-- One head link. `line` holds the bits received since the flag that opened the frame being collected;
`answered` says that a sample has answered the outstanding poll (R10);
`sent` is the setpoint frame last sent, from the address to the check bytes (R1, R8). -/
structure HeadLink where
  running : Bool
  receiver : ReceiverState
  line : List Bool
  fifo : List FifoEntry
  holdOff : Bool
  stopLatch : Bool
  pollSeq : Byte
  outstanding : Option Byte
  answered : Bool
  answeredRun : Nat
  missedRun : Nat
  state : LinkState
  headFault : Nat
  stats : LinkStats
  blockPolls : Nat
  blockErrors : Nat
  lastBlockErrors : Nat
  pollTimer : Nat
  sent : Option (List Byte)
  deriving DecidableEq, Repr

/-- The reset column of chapter 1. -/
def HeadLink.reset : HeadLink :=
  { running := false, receiver := .hunt, line := [], fifo := [], holdOff := false, stopLatch := true
    pollSeq := 0, outstanding := none, answered := false, answeredRun := 0, missedRun := 0, state := .down
    headFault := 0
    stats := { good := 0, checkErrors := 0, residue := 0, long := 0, abort := 0, mismatch := 0, overrun := 0, glitch := 0 }
    blockPolls := 0, blockErrors := 0, lastBlockErrors := 0, pollTimer := 0, sent := none }

/-! ## Depth tracker (chapter 2) -/

/-- The open slice (section 2.4); depths in units of 1.25 µm. -/
structure OpenSlice where
  start : Nat
  top : Nat
  sf : Nat
  sr : Nat
  n : Nat
  nSpan : Nat
  saturated : Bool
  deriving DecidableEq, Repr

/-- A slice handed to the classifier (section 2.4). -/
structure ClosedSlice where
  top : Nat
  bottom : Nat
  sf : Nat
  sr : Nat
  n : Nat
  nSpan : Nat
  saturated : Bool
  deriving DecidableEq, Repr

/-- What READ_LIVE shows of the last processed sample (R34). -/
structure SampleView where
  atFace : Bool
  feed : Nat
  rotation : Nat
  speed : Nat
  collar : Bool
  plate : Bool
  atStop : Bool
  deriving DecidableEq, Repr

/-- One depth tracker. The window sum is the sum of `window`. -/
structure DepthTracker where
  encoderRef : Option (BitVec 16)
  glitchRun : Nat
  depth : Int
  maxDepth : Nat
  contactSeen : Bool
  window : List Nat
  z : Nat
  slice : Option OpenSlice
  handedBottom : Option Nat
  stallCount : Nat
  stallBase : Nat
  blockRun : Nat
  latestCartridge : Option Nat
  cartridgeBase : Option Nat
  lastSample : SampleView
  deriving DecidableEq, Repr

/-- The reset column of chapter 2. -/
def DepthTracker.reset : DepthTracker :=
  { encoderRef := none, glitchRun := 0, depth := 0, maxDepth := 0, contactSeen := false, window := [], z := 0
    slice := none, handedBottom := none, stallCount := 0, stallBase := 0, blockRun := 0
    latestCartridge := none, cartridgeBase := none
    lastSample := { atFace := false, feed := 0, rotation := 0, speed := 0, collar := false, plate := false, atStop := false } }

/-! ## Strata classifier (chapter 3) -/

/-- Classes of slices and layers (section 3.4). -/
inductive Ground where
  | void | soft | firm | hard | unmeasured
  deriving DecidableEq, Repr

/-- A layer of the layer list (R49). -/
structure Layer where
  top : Nat
  bottom : Nat
  ground : Ground
  slices : Nat
  measured : Nat
  sumH : Nat
  isPartial : Bool
  saturated : Bool
  deriving DecidableEq, Repr

/-- How a slice was placed (READ_LIVE part 10). -/
inductive Placement where
  | extended | opened | absorbed | merged | forced
  deriving DecidableEq, Repr

/-- What the classifier works out of a measured slice (R38). -/
structure Measure where
  ef : Nat
  er : Nat
  se10 : Nat
  w : Nat
  sec : Nat
  h : Nat
  raw : Ground
  deriving DecidableEq, Repr

/-- The last slice result (R38); `measure` is absent for an UNMEASURED slice. -/
structure SliceResult where
  top : Nat
  bottom : Nat
  n : Nat
  nSpan : Nat
  isPartial : Bool
  saturated : Bool
  measure : Option Measure
  given : Ground
  placement : Placement
  deriving DecidableEq, Repr

/-- One classifier. -/
structure Classifier where
  layers : List Layer
  last : Option SliceResult
  cr : Nat
  deriving DecidableEq, Repr

/-- Cr = Kt × 899,536 (R36). -/
def crOf (kt : Nat) : Nat := kt * 899536

/-- The reset column of chapter 3, with the Cr of the built-in Kt until a calibration zone is loaded. -/
def Classifier.reset : Classifier :=
  { layers := [], last := none, cr := crOf 25 }

/-! ## Anchorage planner (chapter 4) -/

/-- Verdicts (R63). -/
inductive Verdict where
  | good | extraResin | poor
  deriving DecidableEq, Repr

/-- The end reason of a drilling stage, in the order of R59. -/
inductive EndReason where
  | depthReached | stall | depthLimit | stop | linkLost | headFault | supply | abandon
  deriving DecidableEq, Repr

/-- The anchorage result (R59). -/
structure Anchorage where
  evaluations : Nat
  reason : EndReason
  d : Nat
  bondTop : Nat
  lb : Nat
  competent : Nat
  voidLen : Nat
  softLen : Nat
  unmeasuredLen : Nat
  verdict : Verdict
  vNeed : Nat
  unclamped : Nat
  cartridges : Nat
  resinCapped : Bool
  rMix : Nat
  mixTarget : Nat
  pTq : Nat
  deriving DecidableEq, Repr

/-! ## Bolt-cycle controller (chapter 5) -/

/-- The fourteen boom states, in the order of their codes (section 10.8). -/
inductive BoomState where
  | idle | holeOpen | collared | drilled | retracted | inserted | set
  | collaring | drilling | retracting | inserting | spinning | holding | torquing
  deriving DecidableEq, Repr

/-- Run conditions (R74). -/
inductive RunCondition where
  | waitFlow | running | paused | suspended
  deriving DecidableEq, Repr

/-- Grades of a closed hole (R101). -/
inductive Grade where
  | a | b | c | f | x
  deriving DecidableEq, Repr

/-- Torque results (R89, R90, R92). -/
inductive TorqueResult where
  | achieved | slipped | torqueTimeout | torqueMissed
  deriving DecidableEq, Repr

/-- Fault codes, in the order of their codes 1 to 18 (section 10.8). -/
inductive FaultCode where
  | noContact | stall | depthLimit | insertBlocked | mixIncomplete | spinLate | slipped | torqueTimeout | torqueMissed
  | waitTimeout | supply | linkLost | headFault | resetAbort | configZoneBad | postFail | monitorFault | checkFail
  deriving DecidableEq, Repr

/-- The interlock set (section 8.4). -/
structure Interlocks where
  gas : Bool
  pumpLow : Bool
  oilHot : Bool
  supportLost : Bool
  dustLow : Bool
  supplyLow : Bool
  monitorFault : Bool
  monitorWarmup : Bool
  tramming : Bool
  deriving DecidableEq, Repr

/-- The empty interlock set. -/
def Interlocks.empty : Interlocks :=
  { gas := false, pumpLow := false, oilHot := false, supportLost := false, dustLow := false, supplyLow := false
    monitorFault := false, monitorWarmup := false, tramming := false }

/-- A layer as a hole record keeps it (R57, R135). -/
structure LayerView where
  topMm : Nat
  bottomMm : Nat
  ground : Ground
  slices : Nat
  meanH : Option Nat
  isPartial : Bool
  saturated : Bool
  deriving DecidableEq, Repr

/-- A hole record, current or archived (R76, R135). -/
structure HoleRecord where
  row : Nat
  slot : Nat
  boom : Boom
  closeTime : Option Millis
  planDepth : Nat
  drilled : Nat
  z : Option Nat
  w : Option Nat
  layers : List LayerView
  verdict : Option Verdict
  cartridgesPlanned : Option Nat
  cartridgesCounted : Option Nat
  rMix : Option Nat
  revolutions : Nat
  peak : Option Nat
  torque : Option TorqueResult
  grade : Option Grade
  wornBit : Bool
  sensorSuspect : Bool
  layerOverflow : Bool
  resinShort : Bool
  resinCapped : Bool
  fault : Option FaultCode
  deriving DecidableEq, Repr

/-- The record as BEGIN_HOLE starts it (R76). -/
def HoleRecord.start (row slot : Nat) (b : Boom) (planDepth : Nat) : HoleRecord :=
  { row, slot, boom := b, closeTime := none, planDepth, drilled := 0, z := none, w := none, layers := []
    verdict := none, cartridgesPlanned := none, cartridgesCounted := none, rMix := none, revolutions := 0
    peak := none, torque := none, grade := none, wornBit := false, sensorSuspect := false, layerOverflow := false
    resinShort := false, resinCapped := false, fault := none }

/-- One bolt-cycle controller. A timer that is stopped is absent (section 5.6). The peak is the first of the five torque counts (R88);
the hole record holds it too, from TORQUE on (R76). -/
structure Controller where
  state : BoomState
  run : Option RunCondition
  firstRun : Bool
  suspending : Interlocks
  collarTimer : Option Nat
  torqueTime : Option Nat
  holdTimer : Option Nat
  insertToSpin : Option Nat
  gelDeadline : Option Nat
  torqueWindow : Option Nat
  betweenStage : Option Nat
  mix : Nat
  peak : Nat
  torqueAcc : Nat
  holdRun : Nat
  slipRun : Nat
  reachMark : Bool
  hole : Option HoleRecord
  deriving DecidableEq, Repr

/-- The reset column of R103. -/
def Controller.reset : Controller :=
  { state := .idle, run := none, firstRun := false, suspending := Interlocks.empty
    collarTimer := none, torqueTime := none, holdTimer := none, insertToSpin := none, gelDeadline := none
    torqueWindow := none, betweenStage := none
    mix := 0, peak := 0, torqueAcc := 0, holdRun := 0, slipRun := 0, reachMark := false, hole := none }

/-! ## Pump flow arbiter (chapter 6) -/

/-- Kinds of demand, in the order of their codes (R106). -/
inductive DemandKind where
  | collar | drill | retract | insert | spin | hold | torque | tram | support
  deriving DecidableEq, Repr

/-- Classes of demand, in the order R106 names them. -/
inductive DemandClass where
  | normal | critical | machine
  deriving DecidableEq, Repr

/-- The class of a kind (R106). -/
def DemandKind.cls : DemandKind → DemandClass
  | .collar => .normal
  | .drill => .normal
  | .retract => .normal
  | .insert => .normal
  | .spin => .critical
  | .hold => .critical
  | .torque => .critical
  | .tram => .machine
  | .support => .machine

/-- An entry of the demand list (R106). -/
structure Demand where
  owner : Port
  kind : DemandKind
  demand : Nat
  floor : Nat
  grant : Nat
  deriving DecidableEq, Repr

/-- The arbiter: Q_avail and the demand list, oldest first. Q_pump is the live value of zone 5. -/
structure Arbiter where
  qAvail : Nat
  demands : List Demand
  deriving DecidableEq, Repr

/-! ## Row map and hole log (chapter 7) -/

/-- The state of a slot, with the boom or the grade it names (R119). -/
inductive SlotState where
  | isOpen
  | claimed (b : Boom)
  | bolted (g : Grade)
  | waived
  deriving DecidableEq, Repr

/-- A slot of the row (R119). -/
structure Slot where
  number : Nat
  position : Nat
  depth : Nat
  parent : Option Nat
  state : SlotState
  deriving DecidableEq, Repr

/-- The row map (section 7.1). -/
structure RowMap where
  rowNumber : Nat
  planned : List Slot
  supplementary : List Slot
  pendingPlan : Option (List PlanSlot)
  overflow : Bool
  tramPermitted : Bool
  supportSet : Bool
  deriving DecidableEq, Repr

/-- The planned slots of a row opened from a plan: numbered upward from `k`, every one OPEN (R119, R121). -/
def openSlots : Nat → List PlanSlot → List Slot
  | _, [] => []
  | k, p :: ps => { number := k, position := p.position, depth := p.depth, parent := none, state := .isOpen } :: openSlots (k + 1) ps

/-- Row 0 opened from a plan, as power-on and RESET_N open it (R120). -/
def RowMap.rowZero (plan : List PlanSlot) : RowMap :=
  { rowNumber := 0, planned := openSlots 0 plan, supplementary := [], pendingPlan := none, overflow := false
    tramPermitted := false, supportSet := false }

/-- The hole log: place k is `places[k - 1]` (section 7.7). -/
structure HoleLog where
  places : List (Option HoleRecord)
  pointer : Nat
  count : Nat
  deriving DecidableEq, Repr

/-- The hole log after power-on. -/
def HoleLog.empty : HoleLog := { places := List.replicate 32 none, pointer := 0, count := 0 }

/-! ## Machine monitor (chapter 8) -/

/-- Breach states (R139). -/
inductive Breach where
  | inside | hi | lo
  deriving DecidableEq, Repr

/-- The record of one of channels 0 to 5 (R139). A pending debounce has a count of 1. -/
structure Channel where
  limits : ChannelLimits
  last : Option Nat
  breach : Breach
  debounce : Option Breach
  deriving DecidableEq, Repr

/-- A channel at reset, with its zone 4 fields. -/
def Channel.reset (l : ChannelLimits) : Channel :=
  { limits := l, last := none, breach := .inside, debounce := none }

/-- The round state (R140). -/
inductive RoundState where
  | stopped
  | converting (channel : Nat)
  | sleeping
  deriving DecidableEq, Repr

/-- The machine monitor. `roundTimer` counts the milliseconds of the conversion or the sleep in progress,
and `sleepLimit` is the round sleep with which the sleep in progress began (R145).
Of the interlock set only the two members that no other state gives are kept; the others are worked out (R148). -/
structure Monitor where
  channels : List Channel
  refExp : Nat
  refTol : Nat
  sleep : Nat
  refLast : Option Nat
  passRun : Nat
  failRun : Nat
  round : RoundState
  roundTimer : Nat
  sleepLimit : Nat
  warmup : Nat
  fault : Bool
  warming : Bool
  deriving DecidableEq, Repr

/-- The reset column of chapter 8 and R147, with the zone 4 fields given. -/
def Monitor.reset (z : Zone4) : Monitor :=
  { channels := z.channels.map Channel.reset, refExp := z.refExp, refTol := z.refTol, sleep := z.sleep
    refLast := none, passRun := 0, failRun := 0, round := .stopped, roundTimer := 0, sleepLimit := 0
    warmup := 0, fault := false, warming := true }

/-! ## Wear tables and fault log (chapter 9) -/

/-- An attribute (R154); its type is fixed by its name. -/
structure Attr where
  raw : Nat
  norm : Nat
  worst : Nat
  threshold : Nat
  crossed : Bool
  deriving DecidableEq, Repr

/-- An entry of the recent-outcome list (R160). -/
structure HoleOutcome where
  grade : Grade
  fault : Option FaultCode
  deriving DecidableEq, Repr

/-- One wear table (chapter 9). -/
structure WearTable where
  bitWear : Attr
  feedZero : Attr
  linkQuality : Attr
  torqueSlip : Attr
  mixShort : Attr
  cmDrilled : Nat
  remainder : Nat
  w : Nat
  outcomes : List HoleOutcome
  deriving DecidableEq, Repr

/-- An attribute at its best value. -/
def Attr.best (raw threshold : Nat) : Attr :=
  { raw, norm := 253, worst := 253, threshold, crossed := decide (253 ≤ threshold) }

/-- A wear table as it starts with a new bit (R163 with cm_drilled 0). -/
def WearTable.fresh (t : Thresholds) : WearTable :=
  { bitWear := Attr.best 256 t.bitWear, feedZero := Attr.best 0 t.feedZero, linkQuality := Attr.best 0 t.linkQuality
    torqueSlip := Attr.best 0 t.torqueSlip, mixShort := Attr.best 0 t.mixShort
    cmDrilled := 0, remainder := 0, w := 256, outcomes := [] }

/-- Fault sources (R165). -/
inductive FaultSource where
  | left | right | machine | device
  deriving DecidableEq, Repr

/-- Reply codes (section 10.8). -/
inductive ReplyCode where
  | accepted | acceptedClamped | data | wrongState | interlock | slotTaken | slotResolved | separation | rowOpen | busy
  | config | range | checksumBad | boomAbsent | frameError | unknownKind | notReady | noReply
  deriving DecidableEq, Repr

/-- An entry of a recent-request list (R176): the first 4 payload bytes as received. -/
structure RecentEntry where
  kind : Byte
  payload : List Byte
  code : ReplyCode
  time : Millis
  deriving DecidableEq, Repr

/-- A fault record (R165). The pair of a boom that the record does not show is absent. -/
structure FaultRecord where
  time : Millis
  source : FaultSource
  code : FaultCode
  detail : Option Nat
  left : Option (BoomState × Option RunCondition)
  right : Option (BoomState × Option RunCondition)
  depth : Option Int
  interlocks : Interlocks
  recent : List RecentEntry
  deriving DecidableEq, Repr

/-- The fault log: place k is `places[k - 1]` (section 9.6). -/
structure FaultLog where
  places : List (Option FaultRecord)
  pointer : Nat
  count : Nat
  deriving DecidableEq, Repr

/-- The fault log after power-on. -/
def FaultLog.empty : FaultLog := { places := List.replicate 8 none, pointer := 0, count := 0 }

/-! ## Master ports (chapter 10) -/

/-- The seven cause flags of a port, by code (R177). -/
structure Causes where
  c1 : Bool
  c2 : Bool
  c3 : Bool
  c4 : Bool
  c5 : Bool
  c6 : Bool
  c7 : Bool
  deriving DecidableEq, Repr

/-- All seven flags clear. -/
def Causes.clear : Causes := { c1 := false, c2 := false, c3 := false, c4 := false, c5 := false, c6 := false, c7 := false }

/-- A reply: its code and its payload. The status byte is built when a transfer drives it out (R170). -/
structure Reply where
  code : ReplyCode
  payload : List Byte
  deriving DecidableEq, Repr

/-- A request in processing: the 32 bytes received and the time at which its transfer ended (R176). -/
structure Request where
  frame : List Byte
  ended : Millis
  deriving DecidableEq, Repr

/-- The reply state (R170). -/
inductive ReplyState where
  | pending (r : Reply)
  | processing (q : Request)
  deriving DecidableEq, Repr

/-- How the transfer in progress began: in PENDING, marked not ready, or on a closed port (R168, R170). -/
inductive Transfer where
  | begunPending | notReady | onClosed
  deriving DecidableEq, Repr

/-- One master port. `transfer` and `driven` are the transfer in progress and the 32 bytes driven out in it. -/
structure MasterPort where
  isOpen : Bool
  reply : ReplyState
  causes : Causes
  recent : List RecentEntry
  transfer : Option Transfer
  driven : Option (List Byte)
  deriving DecidableEq, Repr

/-- A port after any reset (R174). -/
def MasterPort.reset : MasterPort :=
  { isOpen := false, reply := .pending { code := .noReply, payload := [] }, causes := Causes.clear, recent := []
    transfer := none, driven := none }

/-! ## Configuration memory controller and self-check unit (chapter 11) -/

/-- Zone states (section 11.2). -/
inductive ZoneState where
  | good | clamped | defaulted
  deriving DecidableEq, Repr

/-- The memory operation in flight: a write with the pages still to complete, the first in progress;
a load of a zone; a save with its one page (R187 to R189). -/
inductive MemOp where
  | none
  | write (pages : List (List Host.Cell))
  | load (zone : Nat)
  | save (page : List Host.Cell)
  deriving DecidableEq, Repr

/-- The configuration memory controller and the nonvolatile memory on its line.
`memory` and `image` list the bytes that differ from 0xFF (see Machine/Memory.lean); `opTimer` counts the
milliseconds of the page write or the load in progress. -/
structure MemoryController where
  memory : List Host.Cell
  image : List Host.Cell
  zones : List ZoneState
  op : MemOp
  pendingSave : Bool
  opTimer : Nat
  deriving DecidableEq, Repr

/-- The last result of the front-end check and its detail (R191, R192). -/
structure CheckResult where
  result : Nat
  detail : Option Nat
  deriving DecidableEq, Repr

/-- The self-check unit (section 11.4). `c1` is the code read at step 1. -/
structure SelfCheck where
  running : Bool
  remaining : Nat
  last : Option CheckResult
  c1 : Nat
  stepTimer : Nat
  deriving DecidableEq, Repr

/-- The self-check unit after power-on and RESET_N. -/
def SelfCheck.reset : SelfCheck := { running := false, remaining := 0, last := none, c1 := 0, stepTimer := 0 }

/-- Where the part stands in the start-up sequence (section 11.1).
`zonesRead afterRequest` stands between the zone pass and the opening; it says whether a RESET request began the sequence. -/
inductive Phase where
  | off | inReset | selfTest
  | zonesRead (afterRequest : Bool)
  | operating
  deriving DecidableEq, Repr

end Sys2Proof.Machine
end

