-- ==== Sys2Proof/Machine/State.lean ====
section
/-! DEFINITION. The state of the DB-240 as plain data, its reset, and the reasons a command can stop. -/
namespace Sys2Proof.Machine

/-- The reasons a command can fault. The spec gives every command its effect, so no meaning raises it;
it stands for a part that no longer answers, and is safe. -/
inductive Fault where
  /-- Raised by no command. Safe: a machine that stops shows nothing false. -/
  | halted
  deriving DecidableEq, Repr

/-- The reasons a command can be refused. -/
inductive Refusal where
  /-- Raised by exec for a command that has no meaning yet. Safe: nothing is claimed of it. -/
  | notModelled (mnemonic : String)
  deriving DecidableEq, Repr

/-- The blocks that each boom has one of (00_scope.md, Blocks). -/
structure BoomUnit where
  link : HeadLink
  tracker : DepthTracker
  classifier : Classifier
  anchorage : Option Anchorage
  ctl : Controller
  wear : WearTable
  deriving DecidableEq, Repr

/-- A boom's blocks after power-on. -/
def BoomUnit.reset : BoomUnit :=
  { link := HeadLink.reset, tracker := DepthTracker.reset, classifier := Classifier.reset, anchorage := none
    ctl := Controller.reset, wear := WearTable.fresh Zone1.builtIn.thresholds }

/-- The whole part, the commands that wait for it, and the counter that the free values are read with. -/
structure State where
  phase : Phase
  resetNLow : Bool
  straps : Straps
  postFail : Bool
  millis : Millis
  params : Params
  left : BoomUnit
  right : BoomUnit
  arbiter : Arbiter
  rowMap : RowMap
  holeLog : HoleLog
  faultLog : FaultLog
  monitor : Monitor
  mem : MemoryController
  check : SelfCheck
  portLeft : MasterPort
  portRight : MasterPort
  portMachine : MasterPort
  free : Nat
  pending : List Instr
  deriving DecidableEq, Repr

/-- The machine right after the power-on reset (R182): power has been applied, the start-up self-test is running,
every port is closed, every link and the monitor are stopped.
The values that only the pin pass and the zone pass give, the slots of row 0 among them, stand at the built-in defaults until those
passes (DESIGN CHOICE, log 17). -/
def State.reset : State :=
  { phase := .selfTest
    resetNLow := false
    straps := { leftEnabled := false, rightEnabled := false, fast := false }
    postFail := false
    millis := 0
    params := Params.builtIn
    left := BoomUnit.reset
    right := BoomUnit.reset
    arbiter := { qAvail := Zone5.builtIn.qPump, demands := [] }
    rowMap := RowMap.rowZero builtInPlan
    holeLog := HoleLog.empty
    faultLog := FaultLog.empty
    monitor := Monitor.reset Zone4.builtIn
    mem := { memory := [], image := [], zones := List.replicate 7 .good, op := .none, pendingSave := false, opTimer := 0 }
    check := SelfCheck.reset
    portLeft := MasterPort.reset
    portRight := MasterPort.reset
    portMachine := MasterPort.reset
    free := 0
    pending := [] }

end Sys2Proof.Machine
end

