-- ==== Sys2Proof/Machine/Access.lean ====
section
/-! DEFINITION. Reading and changing one block of the state: the only way the other files reach a boom's blocks, a port or a shared block. -/
namespace Sys2Proof.Machine

/-- The blocks of a boom. -/
def State.boom (s : State) : Boom → BoomUnit
  | .left => s.left
  | .right => s.right

/-- The state with a boom's blocks changed. -/
def State.modBoom (s : State) (b : Boom) (f : BoomUnit → BoomUnit) : State :=
  match b with
  | .left => { s with left := f s.left }
  | .right => { s with right := f s.right }

/-- The state with a boom's head link changed. -/
def State.modLink (s : State) (b : Boom) (f : HeadLink → HeadLink) : State :=
  s.modBoom b fun u => { u with link := f u.link }

/-- The state with a boom's depth tracker changed. -/
def State.modTracker (s : State) (b : Boom) (f : DepthTracker → DepthTracker) : State :=
  s.modBoom b fun u => { u with tracker := f u.tracker }

/-- The state with a boom's bolt-cycle controller changed. -/
def State.modCtl (s : State) (b : Boom) (f : Controller → Controller) : State :=
  s.modBoom b fun u => { u with ctl := f u.ctl }

/-- The state with a boom's current hole record changed, where one is held. -/
def State.modHole (s : State) (b : Boom) (f : HoleRecord → HoleRecord) : State :=
  s.modCtl b fun c => { c with hole := c.hole.map f }

/-- A master port. -/
def State.port (s : State) : Port → MasterPort
  | .left => s.portLeft
  | .right => s.portRight
  | .machine => s.portMachine

/-- The state with a port changed. -/
def State.modPort (s : State) (p : Port) (f : MasterPort → MasterPort) : State :=
  match p with
  | .left => { s with portLeft := f s.portLeft }
  | .right => { s with portRight := f s.portRight }
  | .machine => { s with portMachine := f s.portMachine }

/-- The state with the machine monitor changed. -/
def State.modMonitor (s : State) (f : Monitor → Monitor) : State := { s with monitor := f s.monitor }

/-- The state with the configuration memory controller changed. -/
def State.modMem (s : State) (f : MemoryController → MemoryController) : State := { s with mem := f s.mem }

/-- Whether a boom is enabled by its pin, as the pin pass read it (R183). -/
def State.enabled (s : State) : Boom → Bool
  | .left => s.straps.leftEnabled
  | .right => s.straps.rightEnabled

/-- A boom's live calibration values. -/
def State.calib (s : State) : Boom → Calib
  | .left => s.params.calibLeft
  | .right => s.params.calibRight

end Sys2Proof.Machine
end

