-- ==== Sys2Proof/Machine/Allocate.lean ====
section
/-! DEFINITION. The allocation of the pump flow arbiter (section 6.4) and its flow figures (section 6.1). -/
namespace Sys2Proof.Machine

/-- Q_avail from Q_pump and the capacity interlocks (R105). -/
def availableFlow (qPump : Nat) (il : Interlocks) : Nat :=
  if il.pumpLow || il.supplyLow then 0 else if il.oilHot then qPump * 3 / 4 else qPump

/-- One step of an allocation: the chosen entries, oldest first, each given a grant from the capacity that remains.
An entry's own earlier grant of this allocation counts as capacity it already has. -/
def allocPass (sel : Demand → Bool) (give : Nat → Demand → Nat) : Nat → List Demand → List Demand × Nat
  | cap, [] => ([], cap)
  | cap, d :: ds =>
    if sel d then
      let g := give cap d
      let r := allocPass sel give (cap + d.grant - g) ds
      ({ d with grant := g } :: r.1, r.2)
    else
      let r := allocPass sel give cap ds
      (d :: r.1, r.2)

/-- CRITICAL: the whole demand or nothing (R111). -/
def giveCritical (cap : Nat) (d : Demand) : Nat := if d.demand ≤ cap then d.demand else 0

/-- MACHINE: the demand, or the floor, or nothing (R112). -/
def giveMachine (cap : Nat) (d : Demand) : Nat :=
  if d.demand ≤ cap then d.demand else if d.floor ≤ cap then d.floor else 0

/-- NORMAL, third step: the floor or nothing (R113). -/
def giveFloor (cap : Nat) (d : Demand) : Nat := if d.floor ≤ cap then d.floor else 0

/-- NORMAL, fourth step: raised towards the demand by as much as remains (R113). -/
def giveRaise (cap : Nat) (d : Demand) : Nat := d.grant + min (d.demand - d.grant) cap

/-- The grants of a demand list (R110 to R113). It does not look at the grants held before. -/
def allocate (qAvail : Nat) (ds : List Demand) : List Demand :=
  let fresh := ds.map fun d => { d with grant := 0 }
  let s1 := allocPass (fun d => d.kind.cls == .critical) giveCritical qAvail fresh
  let s2 := allocPass (fun d => d.kind.cls == .machine) giveMachine s1.2 s1.1
  let s3 := allocPass (fun d => d.kind.cls == .normal) giveFloor s2.2 s2.1
  (allocPass (fun d => d.kind.cls == .normal && d.grant != 0) giveRaise s3.2 s3.1).1

/-- The sum of the grants of a list. -/
def grantSum : List Demand → Nat
  | [] => 0
  | d :: ds => d.grant + grantSum ds

/-- The entry of a kind and owner. -/
def findDemand (ds : List Demand) (p : Port) (k : DemandKind) : Option Demand :=
  ds.find? fun d => d.owner == p && d.kind == k

/-- The grant of an owner's entry of a kind; 0 where there is none. -/
def grantOf (ds : List Demand) (p : Port) (k : DemandKind) : Nat := ((findDemand ds p k).map Demand.grant).getD 0

/-- Whether any grant of an owner differs between two lists (R114). -/
def grantsChanged (old new : List Demand) (p : Port) : Bool :=
  (old ++ new).any fun d => d.owner == p && grantOf old p d.kind != grantOf new p d.kind

/-- The entry of a boom: it has one place in the list (R106). -/
def boomDemand (ds : List Demand) (b : Boom) : Option Demand := ds.find? fun d => d.owner == b.port

/-- A boom's current grant (R114). -/
def boomGrant (ds : List Demand) (b : Boom) : Nat := ((boomDemand ds b).map Demand.grant).getD 0

/-- The demand and floor of a kind from zone 5; the floor is the demand where zone 5 has no floor field (R104). -/
def flowOf (z : Zone5) : DemandKind → Flow
  | .collar => z.collar
  | .drill => z.drill
  | .retract => z.retract
  | .insert => z.insert
  | .spin => { demand := z.spin, floor := z.spin }
  | .hold => { demand := z.hold, floor := z.hold }
  | .torque => { demand := z.torque, floor := z.torque }
  | .tram => z.tram
  | .support => { demand := z.support, floor := z.support }

/-- A new arrival, with a grant of 0 until the allocation gives it one (R106). -/
def newDemand (z : Zone5) (p : Port) (k : DemandKind) : Demand :=
  { owner := p, kind := k, demand := (flowOf z k).demand, floor := (flowOf z k).floor, grant := 0 }

end Sys2Proof.Machine
end

