-- ==== Sys2Proof/Machine/Classify.lean ====
section
/-! DEFINITION. The strata classifier (chapter 3): the energies, hardness and class of a slice, and its placement in the layer list. -/
namespace Sys2Proof.Machine

/-- PARTIAL is set when n_span > n (section 2.4). -/
def ClosedSlice.isPartial (c : ClosedSlice) : Bool := decide (c.n < c.nSpan)

/-- Δd in units (section 2.4). -/
def ClosedSlice.length (c : ClosedSlice) : Nat := c.bottom - c.top

/-- Δd_mm = floor(Δd / 800) (R39). -/
def ClosedSlice.lengthMm (c : ClosedSlice) : Nat := c.length / 800

/-- Feed energy in mJ (R40). -/
def feedEnergy (kf : Nat) (c : ClosedSlice) : Nat := c.sf * kf * c.lengthMm / (100 * c.n)

/-- Rotation energy in mJ (R41). -/
def rotationEnergy (cr : Nat) (c : ClosedSlice) : Nat := c.sr * cr * c.nSpan / (c.n * 2 ^ 32)

/-- SE10 (R42). -/
def specificEnergy (aHole : Nat) (c : ClosedSlice) (energy : Nat) : Nat :=
  min 65535 (10 * energy / (aHole * c.lengthMm))

/-- SE_c (R44). -/
def correctedEnergy (se10 w : Nat) : Nat := se10 * 256 / w

/-- The hardness index H (R45). -/
def hardness (seFull sec : Nat) : Nat := min 255 (sec * 255 / seFull)

/-- The raw class (R46). -/
def rawClass (k : ClassifierConsts) (h : Nat) : Ground :=
  if h < k.tVoid then .void else if h < k.tSoft then .soft else if h < k.tHard then .firm else .hard

/-- Whether H lies inside the range of a class widened by h on both sides (R47, test 3). -/
def inWidened (k : ClassifierConsts) (h : Nat) : Ground → Bool
  | .void => decide (h < k.tVoid + k.hyst)
  | .soft => decide (k.tVoid - k.hyst ≤ h) && decide (h < k.tSoft + k.hyst)
  | .firm => decide (k.tSoft - k.hyst ≤ h) && decide (h < k.tHard + k.hyst)
  | .hard => decide (k.tHard - k.hyst ≤ h)
  | .unmeasured => false

/-- The class a measured slice is given against the open layer's class, absent for an empty list (R47). -/
def givenClass (k : ClassifierConsts) (h : Nat) (openClass : Option Ground) : Ground :=
  if h < k.tVoid then .void
  else match openClass with
    | none => rawClass k h
    | some .unmeasured => rawClass k h
    | some c => if inWidened k h c then c else rawClass k h

/-- Everything worked out of a measured slice (R38, steps 1 and 2; R43 for W). -/
def measureSlice (k : ClassifierConsts) (cal : Calib) (cr w : Nat) (c : ClosedSlice) : Measure :=
  let ef := feedEnergy cal.kf c
  let er := rotationEnergy cr c
  let se10 := specificEnergy cal.aHole c (ef + er)
  let sec := correctedEnergy se10 w
  let h := hardness k.seFull sec
  { ef, er, se10, w, sec, h, raw := rawClass k h }

/-- The measure of a slice, absent with n = 0 (R48). -/
def sliceMeasure (k : ClassifierConsts) (cal : Calib) (cr w : Nat) (c : ClosedSlice) : Option Measure :=
  if c.n = 0 then none else some (measureSlice k cal cr w c)

/-- The class of a slice: UNMEASURED with n = 0 (R48), R47 otherwise. -/
def sliceClass (k : ClassifierConsts) (m : Option Measure) (layers : List Layer) : Ground :=
  match m with
  | none => .unmeasured
  | some m => givenClass k m.h (layers.getLast?.map Layer.ground)

/-! ## The layer list -/

/-- The layer that a slice makes on its own (R52). -/
def sliceLayer (c : ClosedSlice) (g : Ground) (m : Option Measure) : Layer :=
  { top := c.top, bottom := c.bottom, ground := g, slices := 1, measured := if m.isSome then 1 else 0
    sumH := (m.map Measure.h).getD 0, isPartial := c.isPartial, saturated := c.saturated }

/-- Two neighbouring layers as one, the shallower first, of the class given: extents joined, counts and sums added (R49, R54). -/
def joinLayers (a b : Layer) (g : Ground) : Layer :=
  { top := a.top, bottom := b.bottom, ground := g, slices := a.slices + b.slices, measured := a.measured + b.measured
    sumH := a.sumH + b.sumH, isPartial := a.isPartial || b.isPartial, saturated := a.saturated || b.saturated }

/-- A class that may be dissolved or merged (R51, R53): neither VOID nor UNMEASURED. -/
def eligible (l : Layer) : Bool := l.ground != .void && l.ground != .unmeasured

/-- The slice extends the open layer, the last of the list (R50). -/
def extendOpen (layers : List Layer) (sl : Layer) : List Layer :=
  match layers.getLast? with
  | none => [sl]
  | some o => layers.dropLast ++ [joinLayers o sl o.ground]

/-- Spike absorption (R51): the list with the open layer dissolved into the earlier one and the slice added; absent where it does not apply. -/
def absorb (lMin : Nat) (layers : List Layer) (sl : Layer) : Option (List Layer) :=
  match layers.getLast?, layers.dropLast.getLast? with
  | some o, some e =>
    if o.slices < lMin ∧ eligible o = true ∧ sl.ground = e.ground then
      some (layers.dropLast.dropLast ++ [joinLayers (joinLayers e o e.ground) sl e.ground])
    else none
  | _, _ => none

/-- Whether the layer at an index exists and is eligible. -/
def eligibleAt (layers : List Layer) (i : Nat) : Bool :=
  match layers[i]? with
  | some l => eligible l
  | none => false

/-- Whether the layer before an index exists and is eligible. -/
def eligibleBefore (layers : List Layer) : Nat → Bool
  | 0 => false
  | i + 1 => eligibleAt layers i

/-- The slice count at an index. -/
def slicesAt (layers : List Layer) (i : Nat) : Nat := (layers[i]?.map Layer.slices).getD 0

/-- The merge candidates (R53, step 1): closed eligible layers with an eligible neighbour, shallowest first. -/
def mergeCandidates (layers : List Layer) : List Nat :=
  (List.range (layers.length - 1)).filter fun i =>
    eligibleAt layers i && (eligibleBefore layers i || eligibleAt layers (i + 1))

/-- Of a list of indices, the one with the fewest slices, the first of them on a tie (R53, steps 2 and 3). -/
def fewestSlices (layers : List Layer) : List Nat → Option Nat
  | [] => none
  | i :: is =>
    match fewestSlices layers is with
    | none => some i
    | some j => if slicesAt layers j < slicesAt layers i then some j else some i

/-- The merge candidate (R53). -/
def mergeCandidate (layers : List Layer) : Option Nat := fewestSlices layers (mergeCandidates layers)

/-- Whether the candidate's partner is the layer before it (R53). -/
def partnerBefore (layers : List Layer) (i : Nat) : Bool :=
  eligibleBefore layers i &&
    (!eligibleAt layers (i + 1) || decide (slicesAt layers (i - 1) ≤ slicesAt layers (i + 1)))

/-- The class of the merged layer: that of the one with more slices, the partner's on a tie (R54). -/
def mergedClass (candidate partner : Layer) : Ground :=
  if partner.slices < candidate.slices then candidate.ground else partner.ground

/-- Joins the first two layers of a list when they share a class (R54). -/
def joinFront : List Layer → List Layer
  | a :: b :: rest => if a.ground = b.ground then joinLayers a b a.ground :: rest else a :: b :: rest
  | ls => ls

/-- The merged layer put between the layers before and after it, and joined with the one whose class it shares (R54). -/
def placeMerged (before : List Layer) (l : Layer) (after : List Layer) : List Layer :=
  match before.getLast? with
  | some p =>
    if p.ground = l.ground then before.dropLast ++ joinLayers p l l.ground :: after else before ++ joinFront (l :: after)
  | none => joinFront (l :: after)

/-- The merge of the candidate at an index with its partner (R53, R54). -/
def mergeAt (layers : List Layer) (i : Nat) : List Layer :=
  let lo := if partnerBefore layers i then i - 1 else i
  match layers[lo]?, layers[lo + 1]? with
  | some a, some b =>
    let g := if partnerBefore layers i then mergedClass b a else mergedClass a b
    placeMerged (layers.take lo) (joinLayers a b g) (layers.drop (lo + 2))
  | _, _ => layers

/-- What placing a slice does: the list, how the slice was placed, whether LAYER is raised and whether LAYER_OVERFLOW is reported. -/
structure Placed where
  layers : List Layer
  how : Placement
  raiseLayer : Bool
  overflow : Bool
  deriving DecidableEq, Repr

/-- Placement while the list has room for a new layer (R50 to R52). -/
def placeWithRoom (lMin : Nat) (layers : List Layer) (sl : Layer) : Placed :=
  match layers.getLast? with
  | none => { layers := [sl], how := .opened, raiseLayer := false, overflow := false }
  | some o =>
    if sl.ground = o.ground then
      { layers := extendOpen layers sl, how := .extended, raiseLayer := false, overflow := false }
    else match absorb lMin layers sl with
      | some ls => { layers := ls, how := .absorbed, raiseLayer := false, overflow := false }
      | none => { layers := layers ++ [sl], how := .opened, raiseLayer := true, overflow := false }

/-- The most layers a list holds (R49). -/
def maxLayers : Nat := 16

/-- Placement of a slice (sections 3.5 and 3.6). With a merge, the placement shown is `merged`, whatever the slice then does to the
shortened list (DESIGN CHOICE, log 31). -/
def placeSlice (lMin : Nat) (layers : List Layer) (sl : Layer) : Placed :=
  let plain := placeWithRoom lMin layers sl
  if layers.length < maxLayers ∨ plain.how ≠ .opened then plain
  else match mergeCandidate layers with
    | none => { layers := extendOpen layers sl, how := .forced, raiseLayer := false, overflow := true }
    | some i =>
      { layers := (placeWithRoom lMin (mergeAt layers i) sl).layers, how := .merged, raiseLayer := true, overflow := false }

/-- What the classifier makes of one closed slice. -/
structure Classified where
  classifier : Classifier
  raiseLayer : Bool
  overflow : Bool
  deriving DecidableEq, Repr

/-- The whole work on one slice (R38). -/
def classify (k : ClassifierConsts) (cal : Calib) (w : Nat) (cl : Classifier) (c : ClosedSlice) : Classified :=
  let m := sliceMeasure k cal cl.cr w c
  let g := sliceClass k m cl.layers
  let p := placeSlice k.lMin cl.layers (sliceLayer c g m)
  { classifier :=
      { cl with
        layers := p.layers
        last := some
          { top := c.top, bottom := c.bottom, n := c.n, nSpan := c.nSpan, isPartial := c.isPartial
            saturated := c.saturated, measure := m, given := g, placement := p.how } }
    raiseLayer := p.raiseLayer
    overflow := p.overflow }

/-- mean_H, absent for an UNMEASURED layer (R49). -/
def Layer.meanH (l : Layer) : Option Nat := if l.ground = .unmeasured then none else some (l.sumH / l.measured)

/-- A layer as the hole record keeps it (R57). -/
def Layer.view (l : Layer) : LayerView :=
  { topMm := l.top / 800, bottomMm := l.bottom / 800, ground := l.ground, slices := l.slices, meanH := l.meanH
    isPartial := l.isPartial, saturated := l.saturated }

end Sys2Proof.Machine
end

