-- ==== Sys2Proof/Machine/Flags.lean ====
section
/-! DEFINITION. The flags: the cause flags and attention lines of the ports (section 10.5), and the interlock set (section 8.4). -/
namespace Sys2Proof.Machine

/-! ## Cause flags -/

/-- The causes of a boom port, by code (R177). -/
inductive BoomCause where
  | interlock | stageFault | stageEnd | flow | layer | wear | row
  deriving DecidableEq, Repr

/-- The causes of the machine port, by code (R177). -/
inductive MachineCause where
  | interlock | supportDemand | rowReady | flow | checkDone | configDone | wear
  deriving DecidableEq, Repr

/-- The code of a boom port's cause. -/
def BoomCause.code : BoomCause → Nat
  | .interlock => 1
  | .stageFault => 2
  | .stageEnd => 3
  | .flow => 4
  | .layer => 5
  | .wear => 6
  | .row => 7

/-- The code of a machine port's cause. -/
def MachineCause.code : MachineCause → Nat
  | .interlock => 1
  | .supportDemand => 2
  | .rowReady => 3
  | .flow => 4
  | .checkDone => 5
  | .configDone => 6
  | .wear => 7

/-- The flags with the flag of one code given a value; no other code has a flag. -/
def Causes.put (c : Causes) (v : Bool) : Nat → Causes
  | 1 => { c with c1 := v }
  | 2 => { c with c2 := v }
  | 3 => { c with c3 := v }
  | 4 => { c with c4 := v }
  | 5 => { c with c5 := v }
  | 6 => { c with c6 := v }
  | 7 => { c with c7 := v }
  | _ => c

/-- The flag of a code. -/
def Causes.get (c : Causes) : Nat → Bool
  | 1 => c.c1
  | 2 => c.c2
  | 3 => c.c3
  | 4 => c.c4
  | 5 => c.c5
  | 6 => c.c6
  | 7 => c.c7
  | _ => false

/-- The flags in the order of their codes. -/
def Causes.toList (c : Causes) : List Bool := [c.c1, c.c2, c.c3, c.c4, c.c5, c.c6, c.c7]

/-- The code of the highest-priority flag that is set, or 0 (R178). -/
def Causes.first (c : Causes) : Nat :=
  if c.c1 then 1 else if c.c2 then 2 else if c.c3 then 3 else if c.c4 then 4 else if c.c5 then 5
  else if c.c6 then 6 else if c.c7 then 7 else 0

/-- The number of flags set (R178). -/
def Causes.count (c : Causes) : Nat := c.toList.countP id

/-- A cause raised on a boom's port; not set on the port of a boom disabled by its pin (R177). -/
def State.raise (s : State) (b : Boom) (c : BoomCause) : State :=
  if s.enabled b then s.modPort b.port fun p => { p with causes := p.causes.put true c.code } else s

/-- A cause raised on both boom ports. -/
def State.raiseBoth (s : State) (c : BoomCause) : State := (s.raise .left c).raise .right c

/-- A cause raised on the machine port. -/
def State.raiseMachine (s : State) (c : MachineCause) : State :=
  s.modPort .machine fun p => { p with causes := p.causes.put true c.code }

/-- Whether a port belongs to a boom disabled by its pin. -/
def State.absentPort (s : State) : Port → Bool
  | .left => !s.straps.leftEnabled
  | .right => !s.straps.rightEnabled
  | .machine => false

/-- The attention line of a port (R181): asserted while any flag is set; deasserted on a closed port and on a disabled boom's. -/
def State.attention (s : State) (p : Port) : Bool :=
  (s.port p).isOpen && !s.absentPort p && (s.port p).causes.count != 0

/-! ## The interlock set -/

/-- The breach state of a channel. -/
def Monitor.breach (m : Monitor) (k : Nat) : Breach := (m.channels[k]?.map Channel.breach).getD .inside

/-- The interlock set, worked out from its sources (R148 and the table of section 8.4). -/
def State.interlocks (s : State) : Interlocks :=
  { gas := s.monitor.breach 0 != .inside
    pumpLow := s.monitor.breach 1 == .lo
    oilHot := s.monitor.breach 2 == .hi
    supportLost := s.monitor.breach 3 == .lo || !s.rowMap.supportSet
    dustLow := s.monitor.breach 4 == .lo
    supplyLow := s.monitor.breach 5 == .lo
    monitorFault := s.monitor.fault
    monitorWarmup := s.monitor.warming
    tramming := s.rowMap.tramPermitted }

/-- The members of both sets. -/
def Interlocks.inter (a b : Interlocks) : Interlocks :=
  { gas := a.gas && b.gas, pumpLow := a.pumpLow && b.pumpLow, oilHot := a.oilHot && b.oilHot
    supportLost := a.supportLost && b.supportLost, dustLow := a.dustLow && b.dustLow, supplyLow := a.supplyLow && b.supplyLow
    monitorFault := a.monitorFault && b.monitorFault, monitorWarmup := a.monitorWarmup && b.monitorWarmup
    tramming := a.tramming && b.tramming }

/-- The members of either set. -/
def Interlocks.union (a b : Interlocks) : Interlocks :=
  { gas := a.gas || b.gas, pumpLow := a.pumpLow || b.pumpLow, oilHot := a.oilHot || b.oilHot
    supportLost := a.supportLost || b.supportLost, dustLow := a.dustLow || b.dustLow, supplyLow := a.supplyLow || b.supplyLow
    monitorFault := a.monitorFault || b.monitorFault, monitorWarmup := a.monitorWarmup || b.monitorWarmup
    tramming := a.tramming || b.tramming }

/-- The members of the first set that are not in the second. -/
def Interlocks.minus (a b : Interlocks) : Interlocks :=
  { gas := a.gas && !b.gas, pumpLow := a.pumpLow && !b.pumpLow, oilHot := a.oilHot && !b.oilHot
    supportLost := a.supportLost && !b.supportLost, dustLow := a.dustLow && !b.dustLow, supplyLow := a.supplyLow && !b.supplyLow
    monitorFault := a.monitorFault && !b.monitorFault, monitorWarmup := a.monitorWarmup && !b.monitorWarmup
    tramming := a.tramming && !b.tramming }

/-- The interlock set as 9 bits of 2 bytes (section 10.8). -/
def Interlocks.toNat (i : Interlocks) : Nat :=
  i.gas.toNat + 2 * i.pumpLow.toNat + 4 * i.oilHot.toNat + 8 * i.supportLost.toNat + 16 * i.dustLow.toNat +
    32 * i.supplyLow.toNat + 64 * i.monitorFault.toNat + 128 * i.monitorWarmup.toNat + 256 * i.tramming.toNat

/-- Interlocks that suspend COLLARING and DRILLING alone (R98). -/
def Interlocks.drillSuspenders : Interlocks := { Interlocks.empty with gas := true, dustLow := true }

/-- Interlocks that suspend every stage (R98). -/
def Interlocks.allSuspenders : Interlocks := { Interlocks.empty with supportLost := true, monitorFault := true }

/-- Whether a state is a stage state (section 5.1). -/
def BoomState.isStage : BoomState → Bool
  | .collaring => true
  | .drilling => true
  | .retracting => true
  | .inserting => true
  | .spinning => true
  | .holding => true
  | .torquing => true
  | _ => false

/-- COLLARING and DRILLING, the stages that form slices. -/
def BoomState.cutsGround (st : BoomState) : Bool := st == .collaring || st == .drilling

/-- The interlocks that suspend a stage (R98). -/
def suspenders (st : BoomState) : Interlocks :=
  if st.cutsGround then Interlocks.drillSuspenders.union Interlocks.allSuspenders
  else if st.isStage then Interlocks.allSuspenders
  else Interlocks.empty

/-- The interlocks that block a stage request leading to, or resuming, a stage (R99). -/
def blockers (st : BoomState) : Interlocks :=
  (suspenders st).union { Interlocks.empty with supplyLow := true }

/-- The interlocks that refuse a claim (R123, test 7). -/
def claimBlockers : Interlocks :=
  { Interlocks.empty with
    tramming := true, supportLost := true, monitorWarmup := true, monitorFault := true, gas := true, supplyLow := true }

/-- The interlocks that refuse some request of a boom: a change of one raises INTERLOCK on the boom ports (R150). -/
def permissionInterlocks : Interlocks :=
  { Interlocks.empty with
    gas := true, dustLow := true, supportLost := true, monitorFault := true, supplyLow := true, monitorWarmup := true
    tramming := true }

end Sys2Proof.Machine
end

