-- ==== Sys2Proof/Machine/Memory.lean ====
section
/-! DEFINITION. The configuration memory and the zone image as lists of cells in one canonical form:
addresses strictly rising, and no cell that holds what an unlisted address reads as. -/
namespace Sys2Proof.Machine

/-- What an unlisted address reads as. DESIGN CHOICE (log 2): the spec gives no contents for a memory that nothing has written. -/
def blankByte : Byte := 0xFF

/-- Every address of the list lies above `a`, rising strictly, and no cell holds `blankByte`. -/
def Memory.above : Nat → List Host.Cell → Bool
  | _, [] => true
  | a, (k, v) :: m => decide (a < k) && decide (v ≠ blankByte) && Memory.above k m

/-- The canonical form. -/
def Memory.wf : List Host.Cell → Bool
  | [] => true
  | (k, v) :: m => decide (v ≠ blankByte) && Memory.above k m

/-- The byte at an address. -/
def Memory.read : List Host.Cell → Nat → Byte
  | [], _ => blankByte
  | (k, v) :: m, a => if a = k then v else Memory.read m a

/-- A cell in front of a list of higher addresses, or nothing where it would hold `blankByte`. -/
def Memory.cons (a : Nat) (v : Byte) (m : List Host.Cell) : List Host.Cell :=
  if v = blankByte then m else (a, v) :: m

/-- The memory with one byte written. -/
def Memory.write : List Host.Cell → Nat → Byte → List Host.Cell
  | [], a, v => Memory.cons a v []
  | (k, w) :: m, a, v =>
    if a < k then Memory.cons a v ((k, w) :: m)
    else if a = k then Memory.cons a v m
    else (k, w) :: Memory.write m a v

/-- The memory with the cells of a page written, in the order given. -/
def Memory.writeAll (m : List Host.Cell) (page : List Host.Cell) : List Host.Cell :=
  page.foldl (fun m c => Memory.write m c.1 c.2) m

/-- The unsigned number in `k` bytes from an address, least significant byte first (section 10.8). -/
def Memory.readLE (m : List Host.Cell) : Nat → Nat → Nat
  | _, 0 => 0
  | a, k + 1 => (Memory.read m a).toNat + 256 * Memory.readLE m (a + 1) k

end Sys2Proof.Machine
end

