-- ==== Sys2Proof/Machine/Plan.lean ====
section
/-! DEFINITION. The anchorage planner (chapter 4): the bond zone, the verdict and the resin plan. -/
namespace Sys2Proof.Machine

/-- ceil(a / b) (00_scope.md, Arithmetic). -/
def ceilDiv (a b : Nat) : Nat := (a + b - 1) / b

/-- The overlap of a layer, in whole millimetres, with the bond zone (R62). -/
def overlap (bondTop d : Nat) (l : Layer) : Nat :=
  min (l.bottom / 800) d - max (l.top / 800) bondTop

/-- The length of the bond zone that lies in layers of the classes chosen (R62). -/
def bondLength (bondTop d : Nat) (sel : Ground → Bool) : List Layer → Nat
  | [] => 0
  | l :: ls => (if sel l.ground then overlap bondTop d l else 0) + bondLength bondTop d sel ls

/-- The verdict before the cartridge clamp (R63). -/
def verdictOf (pMin lb competent voidLen : Nat) : Verdict :=
  if competent * 100 < lb * pMin then .poor else if 0 < voidLen then .extraResin else .good

/-- The anchorage evaluation of a drilling end (R60 to R67). `before` is the evaluations count so far. -/
def evaluate (z : Zone5) (kt : Nat) (layers : List Layer) (maxDepth before : Nat) (reason : EndReason) : Anchorage :=
  let d := maxDepth / 800
  let bondTop := d - z.bReq
  let lb := d - bondTop
  let competent := bondLength bondTop d (fun g => g == .firm || g == .hard) layers
  let voidLen := bondLength bondTop d (fun g => g == .void) layers
  let softLen := bondLength bondTop d (fun g => g == .soft) layers
  let vNeed := z.aAnn * lb + voidLen * z.aVoid
  let unclamped := ceilDiv vNeed z.vC
  let cartridges := max 1 (min z.cMax unclamped)
  let capped := decide (z.cMax < unclamped)
  let rMix := z.rBase + z.rStep * (cartridges - 1)
  { evaluations := min 255 (before + 1)
    reason
    d
    bondTop
    lb
    competent
    voidLen
    softLen
    unmeasuredLen := lb - (competent + voidLen + softLen)
    verdict := if capped then .poor else verdictOf z.pMin lb competent voidLen
    vNeed
    unclamped
    cartridges
    resinCapped := capped
    rMix
    mixTarget := rMix * 30000
    pTq := min 25000 (ceilDiv (z.tTarget * 1000) kt) }

end Sys2Proof.Machine
end

