-- ==== Sys2Proof/Machine/Wear.lean ====
section
/-! DEFINITION. The wear tables (chapter 9): the five attributes, the bit and the recent-outcome list. -/
namespace Sys2Proof.Machine

/-- Normalised BIT_WEAR (section 9.1). -/
def normBitWear (w : Nat) : Nat := 253 - (w - 256) * 252 / 255

/-- Normalised FEED_ZERO (section 9.1). -/
def normFeedZero (z : Nat) : Nat := 253 - z * 252 / 500

/-- Normalised LINK_QUALITY (section 9.1). -/
def normLinkQuality (raw : Nat) : Nat := 253 - min 252 (4 * raw)

/-- Normalised TORQUE_SLIP and MIX_SHORT (section 9.1). -/
def normOutcomes (raw : Nat) : Nat := max 1 (253 - 15 * raw)

/-- The evaluation of an attribute on a raw value and its normalised value (R154). -/
def Attr.evaluate (a : Attr) (raw norm : Nat) : Attr :=
  { a with raw, norm, worst := min a.worst norm, crossed := decide (norm ≤ a.threshold) }

/-- The evaluation of an attribute on a new threshold (R154, R155). -/
def Attr.retune (a : Attr) (threshold : Nat) : Attr :=
  { a with threshold, worst := min a.worst a.norm, crossed := decide (a.norm ≤ threshold) }

/-- An attribute as it starts: its first normalised value is its worst (R163). -/
def Attr.first (a : Attr) (raw norm : Nat) : Attr :=
  { a with raw, norm, worst := norm, crossed := decide (norm ≤ a.threshold) }

/-- W from the ground drilled (R156). -/
def wearFactor (cm wearRate : Nat) : Nat := min 511 (256 + cm * wearRate / 10000)

/-- A fresh W, handed to BIT_WEAR (R156). -/
def WearTable.takeW (t : WearTable) (w : Nat) : WearTable :=
  { t with w, bitWear := t.bitWear.evaluate w (normBitWear w) }

/-- The length of a closed slice, in units, added to the ground drilled on the bit (R156). -/
def WearTable.addGround (t : WearTable) (wearRate units : Nat) : WearTable :=
  let total := t.remainder + units
  let cm := min 16777215 (t.cmDrilled + total / 8000)
  WearTable.takeW { t with remainder := total % 8000, cmDrilled := cm } (wearFactor cm wearRate)

/-- BIT_CHANGED (R157). -/
def WearTable.newBit (t : WearTable) : WearTable :=
  WearTable.takeW { t with cmDrilled := 0, remainder := 0 } 256

/-- A new raw value of FEED_ZERO (R158). -/
def WearTable.takeZ (t : WearTable) (z : Nat) : WearTable :=
  { t with feedZero := t.feedZero.evaluate z (normFeedZero z) }

/-- The error count of a completed block (R159). -/
def WearTable.takeBlock (t : WearTable) (errors : Nat) : WearTable :=
  { t with linkQuality := t.linkQuality.evaluate errors (normLinkQuality errors) }

/-- Entries whose closing fault is SLIPPED (R160). -/
def slipsIn (os : List HoleOutcome) : Nat := os.countP fun o => o.fault == some .slipped

/-- Entries whose closing fault is MIX_INCOMPLETE or SPIN_LATE (R160). -/
def mixFailsIn (os : List HoleOutcome) : Nat :=
  os.countP fun o => o.fault == some .mixIncomplete || o.fault == some .spinLate

/-- An entry appended to a list that keeps at most `cap`, the oldest removed first. -/
def appendCapped {α : Type} (cap : Nat) (xs : List α) (x : α) : List α :=
  (if xs.length < cap then xs else xs.drop (xs.length + 1 - cap)) ++ [x]

/-- A hole's outcome joins the list and both counts are handed on (R160). -/
def WearTable.addOutcome (t : WearTable) (o : HoleOutcome) : WearTable :=
  let os := appendCapped 16 t.outcomes o
  { t with
    outcomes := os
    torqueSlip := t.torqueSlip.evaluate (slipsIn os) (normOutcomes (slipsIn os))
    mixShort := t.mixShort.evaluate (mixFailsIn os) (normOutcomes (mixFailsIn os)) }

/-- New thresholds and a new wear_rate: a load of zone 1 (R155, R156). WEAR compares the table before the whole load with the table
after it (State.modWear): a crossing at the new threshold that the new W at once recovers raises nothing (DESIGN CHOICE, log 38). -/
def WearTable.retune (t : WearTable) (th : Thresholds) (wearRate : Nat) : WearTable :=
  let u : WearTable :=
    { t with
      bitWear := t.bitWear.retune th.bitWear, feedZero := t.feedZero.retune th.feedZero
      linkQuality := t.linkQuality.retune th.linkQuality, torqueSlip := t.torqueSlip.retune th.torqueSlip
      mixShort := t.mixShort.retune th.mixShort }
  u.takeW (wearFactor u.cmDrilled wearRate)

/-- The start after power-on and RESET_N (R163). -/
def WearTable.restore (t : WearTable) (cm wearRate : Nat) : WearTable :=
  let w := wearFactor cm wearRate
  { bitWear := t.bitWear.first w (normBitWear w), feedZero := t.feedZero.first 0 (normFeedZero 0)
    linkQuality := t.linkQuality.first 0 (normLinkQuality 0), torqueSlip := t.torqueSlip.first 0 (normOutcomes 0)
    mixShort := t.mixShort.first 0 (normOutcomes 0)
    cmDrilled := cm, remainder := 0, w, outcomes := [] }

/-- Whether any attribute stands CROSSED (R163). -/
def WearTable.anyCrossed (t : WearTable) : Bool :=
  t.bitWear.crossed || t.feedZero.crossed || t.linkQuality.crossed || t.torqueSlip.crossed || t.mixShort.crossed

/-- Whether the state of any attribute differs between two tables: a crossing or a recovery (R154). -/
def WearTable.statesDiffer (t u : WearTable) : Bool :=
  t.bitWear.crossed != u.bitWear.crossed || t.feedZero.crossed != u.feedZero.crossed ||
    t.linkQuality.crossed != u.linkQuality.crossed || t.torqueSlip.crossed != u.torqueSlip.crossed ||
    t.mixShort.crossed != u.mixShort.crossed

end Sys2Proof.Machine
end

