-- ==== Sys2Proof/Machine/Zones.lean ====
section
/-! DEFINITION. The zones of the configuration memory: where they lie, their checksums, their fields as stored, and the
clamps and consistency steps that R184 applies to them (section 10.8, Zone contents). -/
namespace Sys2Proof.Machine

/-- Base address of a zone (section 10.8). -/
def zoneBase : Nat → Nat
  | 0 => 0x000
  | 1 => 0x010
  | 2 => 0x020
  | 3 => 0x030
  | 4 => 0x040
  | 5 => 0x070
  | _ => 0x0D0

/-- Size of a zone in bytes, its checksum included (section 10.8). -/
def zoneSize : Nat → Nat
  | 0 => 3
  | 1 => 14
  | 2 => 9
  | 3 => 9
  | 4 => 37
  | 5 => 93
  | _ => 7

/-- The zone that holds a boom's calibration. -/
def calibZone : Boom → Nat
  | .left => 2
  | .right => 3

/-- A zone is good when its bytes sum to 0 modulo 256 (section 11.2). -/
def zoneSumOk (img : List Host.Cell) (z : Nat) : Bool :=
  ((List.range (zoneSize z)).foldl (fun acc i => acc + (Memory.read img (zoneBase z + i)).toNat) 0) % 256 == 0

/-- "A quantity said to be clamped to a range takes the nearer end of the range" (00_scope.md, Arithmetic). -/
def clamp (lo hi x : Nat) : Nat := max lo (min hi x)

/-- The unsigned field of `k` bytes at an offset of a zone. -/
def field (img : List Host.Cell) (z off k : Nat) : Nat := Memory.readLE img (zoneBase z + off) k

/-! ## Zone 1 -/

/-- Zone 1 as stored. -/
def Zone1.stored (img : List Host.Cell) : Zone1 :=
  { consts :=
      { seFull := field img 1 0 2, tVoid := field img 1 2 1, tSoft := field img 1 3 1, tHard := field img 1 4 1
        hyst := field img 1 5 1, lMin := field img 1 6 1, wearRate := field img 1 7 1 }
    thresholds :=
      { bitWear := field img 1 8 1, feedZero := field img 1 9 1, linkQuality := field img 1 10 1
        torqueSlip := field img 1 11 1, mixShort := field img 1 12 1 } }

/-- Each field of zone 1 clamped to its range (section 3.1, R155). -/
def Zone1.clamped (z : Zone1) : Zone1 :=
  { consts :=
      { seFull := clamp 100 65535 z.consts.seFull, tVoid := clamp 1 253 z.consts.tVoid
        tSoft := clamp 2 254 z.consts.tSoft, tHard := clamp 3 255 z.consts.tHard
        hyst := clamp 0 31 z.consts.hyst, lMin := clamp 1 8 z.consts.lMin, wearRate := clamp 0 255 z.consts.wearRate }
    thresholds :=
      { bitWear := clamp 0 252 z.thresholds.bitWear, feedZero := clamp 0 252 z.thresholds.feedZero
        linkQuality := clamp 0 252 z.thresholds.linkQuality, torqueSlip := clamp 0 252 z.thresholds.torqueSlip
        mixShort := clamp 0 252 z.thresholds.mixShort } }

/-- The three thresholds put in order (R36). -/
def ClassifierConsts.ordered (c : ClassifierConsts) : ClassifierConsts :=
  let soft := if c.tSoft ≤ c.tVoid then c.tVoid + 1 else c.tSoft
  { c with tSoft := soft, tHard := if c.tHard ≤ soft then soft + 1 else c.tHard }

/-- Zone 1 as it becomes live. -/
def Zone1.settled (z : Zone1) : Zone1 :=
  { z.clamped with consts := z.clamped.consts.ordered }

/-! ## Zones 2 and 3 -/

/-- A calibration zone as stored. -/
def Calib.stored (img : List Host.Cell) (z : Nat) : Calib :=
  { m := field img z 0 1, n := field img z 1 1, kf := field img z 2 2, kt := field img z 4 1
    aHole := field img z 5 2, headAddress := field img z 7 1 }

/-- A calibration zone as it becomes live (R184). -/
def Calib.settled (c : Calib) : Calib :=
  { m := clamp 1 31 c.m, n := clamp 0 7 c.n, kf := clamp 1 5000 c.kf, kt := clamp 1 255 c.kt
    aHole := clamp 200 2000 c.aHole, headAddress := clamp 0x01 0xFE c.headAddress }

/-! ## Zone 4 -/

/-- Zone 4 as stored. -/
def Zone4.stored (img : List Host.Cell) : Zone4 :=
  { channels := (List.range 6).map fun k =>
      { enabled := (Memory.read img (zoneBase 4)).getLsbD k
        hi := field img 4 (1 + 5 * k) 2, lo := field img 4 (3 + 5 * k) 2, hyst := field img 4 (5 + 5 * k) 1 }
    refExp := field img 4 31 2, refTol := field img 4 33 1, sleep := field img 4 34 2 }

/-- A channel's fields clamped, then the two steps of R138. -/
def ChannelLimits.settled (c : ChannelLimits) : ChannelLimits :=
  let hi := clamp 1 1023 c.hi
  let lo := if hi ≤ clamp 0 1023 c.lo then 0 else clamp 0 1023 c.lo
  { enabled := c.enabled, hi, lo, hyst := min (clamp 0 255 c.hyst) ((hi - lo) / 2) }

/-- Zone 4 as it becomes live (R138). -/
def Zone4.settled (z : Zone4) : Zone4 :=
  { channels := z.channels.map ChannelLimits.settled, refExp := clamp 400 900 z.refExp
    refTol := clamp 1 100 z.refTol, sleep := clamp 1 1000 z.sleep }

/-! ## Zone 5 -/

/-- A demand and its floor as stored. -/
def Flow.stored (img : List Host.Cell) (off : Nat) : Flow :=
  { demand := field img 5 off 2, floor := field img 5 (off + 2) 2 }

/-- A demand clamped, then its floor clamped to 10 up to that demand (R104). -/
def Flow.settled (f : Flow) : Flow :=
  { demand := clamp 10 4000 f.demand, floor := clamp 10 (clamp 10 4000 f.demand) f.floor }

/-- Zone 5 as stored, less its row plan. -/
def Zone5.stored (img : List Host.Cell) : Zone5 :=
  { qPump := field img 5 0 2
    collar := Flow.stored img 2, drill := Flow.stored img 6, retract := Flow.stored img 10, insert := Flow.stored img 14
    spin := field img 5 18 2, hold := field img 5 20 2, torque := field img 5 22 2
    tram := Flow.stored img 24, support := field img 5 28 2
    bReq := field img 5 30 2, pMin := field img 5 32 1, aAnn := field img 5 33 2, aVoid := field img 5 35 2
    vC := field img 5 37 4, cMax := field img 5 41 1, rBase := field img 5 42 1, rStep := field img 5 43 1
    tTarget := field img 5 44 2, rTq := field img 5 46 1, collarDepth := field img 5 47 1, clearDistance := field img 5 48 1
    stallPressure := field img 5 49 2, blockPressure := field img 5 51 2, holdTime := field img 5 53 2
    insertToSpin := field img 5 55 2, gelDeadline := field img 5 57 2, torqueWindow := field img 5 59 4
    betweenCode := field img 5 63 1, separation := field img 5 64 1, longBolt := field img 5 65 2 }

/-- Zone 5 as it becomes live (R58, R89, R93, R104, R123, R126, R184). -/
def Zone5.settled (z : Zone5) : Zone5 :=
  { qPump := clamp 100 4000 z.qPump
    collar := z.collar.settled, drill := z.drill.settled, retract := z.retract.settled, insert := z.insert.settled
    spin := clamp 10 4000 z.spin, hold := clamp 10 4000 z.hold, torque := clamp 10 4000 z.torque
    tram := z.tram.settled, support := clamp 10 4000 z.support
    bReq := clamp 300 1500 z.bReq, pMin := clamp 1 100 z.pMin, aAnn := clamp 1 2000 z.aAnn, aVoid := clamp 0 20000 z.aVoid
    vC := clamp 10000 1000000 z.vC, cMax := clamp 1 6 z.cMax, rBase := clamp 1 200 z.rBase, rStep := clamp 0 50 z.rStep
    tTarget := clamp 50 600 z.tTarget, rTq := clamp 1 50 z.rTq, collarDepth := clamp 10 200 z.collarDepth
    clearDistance := clamp 10 200 z.clearDistance, stallPressure := clamp 1000 25000 z.stallPressure
    blockPressure := clamp 1000 25000 z.blockPressure, holdTime := clamp 1000 20000 z.holdTime
    insertToSpin := clamp 1000 30000 z.insertToSpin, gelDeadline := clamp 2000 60000 z.gelDeadline
    torqueWindow := clamp 5000 120000 z.torqueWindow, betweenCode := clamp 0 251 z.betweenCode
    separation := clamp 0 7 z.separation, longBolt := clamp 0 1000 z.longBolt }

/-- The row plan stored in zone 5: the slots within its count (R120). -/
def rowPlanStored (img : List Host.Cell) : Nat × List PlanSlot :=
  let count := field img 5 67 1
  (count, (List.range (min count 8)).map fun i =>
    { position := field img 5 (68 + 3 * i) 1, depth := field img 5 (69 + 3 * i) 2 })

/-- Plan depths lie within 900 to 2,500 mm (R121). -/
def clampPlan (plan : List PlanSlot) : List PlanSlot :=
  plan.map fun p => { p with depth := clamp 900 2500 p.depth }

/-- Count, positions and duplicates of a plan (R121, tests 1 to 3). -/
def planUsable (count : Nat) (plan : List PlanSlot) : Bool :=
  decide (1 ≤ count) && decide (count ≤ 8) && plan.all (fun p => decide (p.position ≤ 7)) &&
    decide (plan.map PlanSlot.position).Nodup

/-- The plan that power-on and RESET_N open row 0 with, and whether zone 5 is marked CLAMPED for it (R120). -/
def rowPlanSettled (img : List Host.Cell) : List PlanSlot × Bool :=
  let stored := rowPlanStored img
  if planUsable stored.1 stored.2 then (clampPlan stored.2, decide (clampPlan stored.2 ≠ stored.2)) else (builtInPlan, true)

/-- Whether the clamps and steps would change any field of a zone (R184, R188). -/
def zoneNeedsClamp (img : List Host.Cell) : Nat → Bool
  | 1 => decide ((Zone1.stored img).settled ≠ Zone1.stored img)
  | 2 => decide ((Calib.stored img 2).settled ≠ Calib.stored img 2)
  | 3 => decide ((Calib.stored img 3).settled ≠ Calib.stored img 3)
  | 4 => decide ((Zone4.stored img).settled ≠ Zone4.stored img)
  | 5 => decide ((Zone5.stored img).settled ≠ Zone5.stored img)
  | _ => false

/-- Distance in ms of the between-stage limit from its code; absent for code 0 (R93). -/
def betweenLimit (code : Nat) : Option Nat :=
  if code = 0 then none else if code ≤ 240 then some (code * 5000) else some ((code - 240) * 60000)

/-- The cm_drilled of a boom as zone 6 holds it (section 10.8). -/
def zone6Drilled (img : List Host.Cell) : Boom → Nat
  | .left => field img 6 0 3
  | .right => field img 6 3 3

end Sys2Proof.Machine
end

