-- ==== Sys2Proof/Machine/Ops.lean ====
section
/-! DEFINITION. The named operations that several commands share: fault records, wear, slices, the arbiter's acts, the close of
a hole, the end of a stage, a change of the interlock set, the stop of the front-end check and the start of a wear save. -/
namespace Sys2Proof.Machine

/-! ## Counts and circular logs -/

/-- "A count said to saturate stops at its stated maximum" (00_scope.md, Arithmetic). -/
def satInc (top n : Nat) : Nat := min top (n + 1)

/-- The next place of a circular log of `cap` places: from 0 to 1, from `cap` to 1, otherwise up by one (R134, R166). -/
def nextPlace (cap p : Nat) : Nat := if p < cap then p + 1 else 1

/-- A record archived in the hole log (R134). -/
def HoleLog.archive (l : HoleLog) (r : HoleRecord) : HoleLog :=
  let p := nextPlace 32 l.pointer
  { places := l.places.set (p - 1) (some r), pointer := p, count := satInc 65535 l.count }

/-- A record written to the fault log (R166). -/
def FaultLog.record (l : FaultLog) (r : FaultRecord) : FaultLog :=
  let p := nextPlace 8 l.pointer
  { places := l.places.set (p - 1) (some r), pointer := p, count := satInc 65535 l.count }

/-! ## Fault records -/

/-- A boom's state and run condition, as a fault record keeps them. -/
def State.stance (s : State) (b : Boom) : BoomState × Option RunCondition := ((s.boom b).ctl.state, (s.boom b).ctl.run)

/-- Depth in millimetres, floor(depth / 800) (R20). -/
def State.depthMm (s : State) (b : Boom) : Int := (s.boom b).tracker.depth / 800

/-- The fault source of a boom. -/
def boomSource : Boom → FaultSource
  | .left => .left
  | .right => .right

/-- The record of a boom fault (R165). `stance` is how the boom stood when the fault arose. -/
def State.boomFaultRecord (s : State) (b : Boom) (f : FaultCode) (detail : Option Nat)
    (stance : BoomState × Option RunCondition) : FaultRecord :=
  { time := s.millis, source := boomSource b, code := f, detail
    left := if b = .left then some stance else none
    right := if b = .right then some stance else none
    depth := some (s.depthMm b), interlocks := s.interlocks, recent := (s.port b.port).recent }

/-- A boom fault written to the fault log (R96, R166). -/
def State.logBoomFault (s : State) (b : Boom) (f : FaultCode) (detail : Option Nat)
    (stance : BoomState × Option RunCondition) : State :=
  { s with faultLog := s.faultLog.record (s.boomFaultRecord b f detail stance) }

/-- The record of a fault whose source is MACHINE or DEVICE (R165). -/
def State.partFaultRecord (s : State) (src : FaultSource) (f : FaultCode) (detail : Option Nat)
    (l r : BoomState × Option RunCondition) : FaultRecord :=
  { time := s.millis, source := src, code := f, detail, left := some l, right := some r, depth := none
    interlocks := s.interlocks, recent := s.portMachine.recent }

/-- A fault of the part written to the fault log, with both booms as they stand (R166). -/
def State.logPartFault (s : State) (src : FaultSource) (f : FaultCode) (detail : Option Nat) : State :=
  { s with faultLog := s.faultLog.record (s.partFaultRecord src f detail (s.stance .left) (s.stance .right)) }

/-! ## Wear -/

/-- A boom's wear table changed; WEAR is raised on a crossing or a recovery (R154). -/
def State.modWear (s : State) (b : Boom) (f : WearTable → WearTable) : State :=
  let old := (s.boom b).wear
  let s1 := s.modBoom b fun u => { u with wear := f u.wear }
  if old.statesDiffer (f old) then (s1.raise b .wear).raiseMachine .wear else s1

/-! ## Slices and the plan -/

/-- A closed slice handed on: to the classifier, which reads W before this slice's length is added, then to the wear table
(R29, R38, R43, R156). -/
def State.handSlice (s : State) (b : Boom) (c : ClosedSlice) : State :=
  let r := classify s.params.classifier (s.calib b) (s.boom b).wear.w (s.boom b).classifier c
  let s1 := s.modBoom b fun u =>
    { u with classifier := r.classifier, tracker := { u.tracker with handedBottom := some c.bottom } }
  let s2 := if r.raiseLayer then s1.raise b .layer else s1
  let s3 := if r.overflow then s2.modHole b fun h => { h with layerOverflow := true } else s2
  s3.modWear b fun t => t.addGround s.params.classifier.wearRate c.length

/-- An open slice closed with its bottom at a depth. -/
def OpenSlice.close (o : OpenSlice) (bottom : Nat) : ClosedSlice :=
  { top := o.top, bottom, sf := o.sf, sr := o.sr, n := o.n, nSpan := o.nSpan, saturated := o.saturated }

/-- A slice opened with its sums and counts at 0 (R26). -/
def OpenSlice.fresh (start top : Nat) : OpenSlice :=
  { start, top, sf := 0, sr := 0, n := 0, nSpan := 0, saturated := false }

/-- The settling of the open slice at a COLLARING or DRILLING end (R30): closed with 1 mm or more of ground, dropped otherwise;
the stall run returns to 0. -/
def State.settleSlice (s : State) (b : Boom) : State :=
  let t := (s.boom b).tracker
  let s1 := match t.slice with
    | some o => if 800 ≤ t.maxDepth - o.top then s.handSlice b (o.close t.maxDepth) else s
    | none => s
  s1.modTracker b fun t => { t with slice := none, stallCount := 0 }

/-- The anchorage evaluated at a drilling end: the new result replaces the one held, whole (R60, R69). -/
def State.evaluatePlan (s : State) (b : Boom) (reason : EndReason) : State :=
  let u := s.boom b
  let before := (u.anchorage.map Anchorage.evaluations).getD 0
  s.modBoom b fun u =>
    { u with anchorage := some (evaluate s.params.plan (s.calib b).kt u.classifier.layers u.tracker.maxDepth before reason) }

/-- A missing poll counted toward the span of the open slice (R28). -/
def State.missingPoll (s : State) (b : Boom) : State :=
  let u := s.boom b
  match u.tracker.slice with
  | some o =>
    if u.ctl.state.cutsGround ∧ u.ctl.run = some .running ∧ o.saturated = false then
      s.modTracker b fun t => { t with slice := some { o with nSpan := satInc 65535 o.nSpan } }
    else s
  | none => s

/-! ## The arbiter's acts -/

/-- A boom's stage enters RUNNING (R75): the first-run mark is set, the resin timers follow at the first run (R92),
and the stop latch clears (R9). -/
def State.enterRunning (s : State) (b : Boom) : State :=
  let s1 := s.modCtl b fun c =>
    let d := { c with run := some .running, firstRun := true }
    if c.firstRun then d
    else if c.state = .spinning then { d with insertToSpin := none, gelDeadline := some 0 }
    else if c.state = .torquing then { d with torqueWindow := none }
    else d
  s1.modLink b fun l => { l with stopLatch := false }

/-- A boom's new grant handed to its controller, which sets the run condition (R75). -/
def State.applyGrant (s : State) (b : Boom) (d : Demand) : State :=
  match (s.boom b).ctl.run with
  | some .waitFlow => if d.floor ≤ d.grant then s.enterRunning b else s
  | some .paused => if d.floor ≤ d.grant then s.enterRunning b else s
  | some .running => if d.grant < d.floor then s.modCtl b fun c => { c with run := some .paused } else s
  | _ => s

/-- A boom's changed grant handed on, with FLOW on its port (R114, R115). An owner whose entry has left has no stage to run. -/
def State.handGrant (s : State) (b : Boom) (old new : List Demand) : State :=
  if grantsChanged old new b.port then
    match boomDemand new b with
    | some d => (s.raise b .flow).applyGrant b d
    | none => s.raise b .flow
  else s

/-- An allocation over the list as it stands, measured against the list before the event that called for it (R110, R114, R115). -/
def State.reallocate (s : State) (old : List Demand) : State :=
  let new := allocate s.arbiter.qAvail s.arbiter.demands
  let s1 := { s with arbiter := { s.arbiter with demands := new } }
  let s2 := (s1.handGrant .left old new).handGrant .right old new
  if grantsChanged old new .machine then s2.raiseMachine .flow else s2

/-- A demand arrives as the youngest entry, with its allocation (R106, R110). -/
def State.arrive (s : State) (p : Port) (k : DemandKind) : State :=
  let old := s.arbiter.demands
  { s with arbiter := { s.arbiter with demands := old ++ [newDemand s.params.plan p k] } }.reallocate old

/-- The entries chosen leave the list, with an allocation if there were any (R106, R110). -/
def State.depart (s : State) (sel : Demand → Bool) : State :=
  let old := s.arbiter.demands
  if old.any sel then
    { s with arbiter := { s.arbiter with demands := old.filter fun d => !sel d } }.reallocate old
  else s

/-- A boom's entry leaves the list (R107). -/
def State.withdraw (s : State) (b : Boom) : State := s.depart fun d => d.owner == b.port

/-! ## The row -/

/-- Every slot of the row, planned then supplementary (R119). -/
def RowMap.slots (m : RowMap) : List Slot := m.planned ++ m.supplementary

/-- The slot of a number. -/
def RowMap.slot (m : RowMap) (n : Nat) : Option Slot := m.slots.find? fun sl => sl.number == n

/-- The slot that a boom claims. -/
def RowMap.claimOf (m : RowMap) (b : Boom) : Option Slot := m.slots.find? fun sl => sl.state == .claimed b

/-- The row with every slot changed by a function. -/
def RowMap.mapSlots (m : RowMap) (f : Slot → Slot) : RowMap :=
  { m with planned := m.planned.map f, supplementary := m.supplementary.map f }

/-- BOLTED or WAIVED (R119). -/
def SlotState.resolved : SlotState → Bool
  | .bolted _ => true
  | .waived => true
  | _ => false

/-- The row is ready (R129). -/
def RowMap.ready (m : RowMap) : Bool := m.slots.all (fun sl => sl.state.resolved) && !m.overflow

/-- What a claimed slot becomes with a grade (R125). -/
def gradedState (g : Grade) : SlotState := if g = .x then .isOpen else .bolted g

/-- The claim of a boom released with a grade (R125). -/
def RowMap.release (m : RowMap) (b : Boom) (g : Grade) : RowMap :=
  m.mapSlots fun sl => if sl.state = .claimed b then { sl with state := gradedState g } else sl

/-- A supplementary demand for the slot of a closing hole (R126). -/
def RowMap.owe (m : RowMap) (parent : Slot) (longBolt : Nat) : RowMap :=
  if m.supplementary.length < 4 then
    { m with
      supplementary := m.supplementary ++
        [ { number := 8 + m.supplementary.length, position := parent.position
            depth := min 2500 (parent.depth + longBolt), parent := some parent.number, state := .isOpen } ] }
  else { m with overflow := true }

/-- Grades C and F owe further support (R126). -/
def Grade.owesSupport (g : Grade) : Bool := g == .c || g == .f

/-- ROW_READY raised where an event leaves the row ready (R129). -/
def State.raiseReady (s : State) : State := if s.rowMap.ready then s.raiseMachine .rowReady else s

/-- The grade handed to the row map at a close (R125, R126, R129). -/
def State.closeSlot (s : State) (b : Boom) (g : Grade) : State :=
  match s.rowMap.claimOf b with
  | none => s
  | some sl =>
    let m := s.rowMap.release b g
    if g.owesSupport then
      ({ s with rowMap := m.owe sl s.params.plan.longBolt }.raiseMachine .supportDemand).raiseReady
    else { s with rowMap := m }.raiseReady

/-! ## The close of a hole -/

/-- The boom is before INSERTING (R95, R101). -/
def BoomState.beforeInserting : BoomState → Bool
  | .holeOpen => true
  | .collaring => true
  | .collared => true
  | .drilling => true
  | .drilled => true
  | .retracting => true
  | .retracted => true
  | _ => false

/-- How a hole is closed, for its grade (R101): given up by ABANDON, WAIT_TIMEOUT or a RESET request; by a fault that gives F;
or at the end of its torque. -/
inductive CloseKind where
  | givenUp | failed | finished
  deriving DecidableEq, Repr

/-- The grade of a hole finished at its torque (R101, grades C, B and A). A hole without a verdict cannot come here (R101);
it would take C (log 13). -/
def finishedGrade (r : HoleRecord) (a : Option Anchorage) : Grade :=
  let capped := (a.map Anchorage.resinCapped).getD false
  let verdict := a.map Anchorage.verdict
  if verdict = some .poor ∨ r.resinShort = true ∨ capped = true ∨ r.torque ≠ some .achieved then .c
  else if verdict = some .extraResin then .b
  else if verdict = some .good then .a
  else .c

/-- The grade of a closing hole (R101). -/
def gradeOf (how : CloseKind) (st : BoomState) (r : HoleRecord) (a : Option Anchorage) : Grade :=
  match how with
  | .givenUp => if st.beforeInserting then .x else .f
  | .failed => .f
  | .finished => finishedGrade r a

/-- The current hole record as it stands: depth, revolutions and layers kept current (R76, R137). -/
def State.liveRecord (s : State) (b : Boom) : Option HoleRecord :=
  let u := s.boom b
  u.ctl.hole.map fun h =>
    { h with
      drilled := u.tracker.maxDepth / 800
      revolutions := u.ctl.mix / 30000
      layers := u.classifier.layers.map Layer.view }

/-- The record completed at the close (R71, R102, step 1). -/
def completeRecord (h : HoleRecord) (a : Option Anchorage) (g : Grade) (t : Millis) : HoleRecord :=
  { h with
    closeTime := some t
    grade := some g
    verdict := a.map Anchorage.verdict
    cartridgesPlanned := a.map Anchorage.cartridges
    rMix := a.map Anchorage.rMix
    resinCapped := (a.map Anchorage.resinCapped).getD false }

/-- A controller back in IDLE with every timer stopped (R74, R102, step 5). -/
def Controller.toIdle (c : Controller) : Controller :=
  { c with
    state := .idle, run := none, firstRun := false, suspending := Interlocks.empty
    collarTimer := none, torqueTime := none, holdTimer := none, insertToSpin := none, gelDeadline := none
    torqueWindow := none, betweenStage := none, hole := none }

/-- The close of a hole (R102). `st` is where the boom stood, `fault` the code of the fault that closed the hole. -/
def State.closeHole (s : State) (b : Boom) (how : CloseKind) (st : BoomState) (fault : Option FaultCode) : State :=
  match s.liveRecord b with
  | none => s.modCtl b Controller.toIdle
  | some h =>
    let a := (s.boom b).anchorage
    let g := gradeOf how st h a
    let s1 := { s with holeLog := s.holeLog.archive (completeRecord h a g s.millis) }
    ((s1.closeSlot b g).modWear b fun t => t.addOutcome { grade := g, fault }).modCtl b Controller.toIdle

/-! ## The end of a stage -/

/-- The reasons a stage ends (R83). -/
inductive StageEnd where
  | success | stop | abandon | resetAbort
  | fault (f : FaultCode)
  deriving DecidableEq, Repr

/-- The end reason that the anchorage evaluation keeps (R59, R60). -/
def StageEnd.reason : StageEnd → EndReason
  | .success => .depthReached
  | .stop => .stop
  | .abandon => .abandon
  | .resetAbort => .abandon
  | .fault .stall => .stall
  | .fault .depthLimit => .depthLimit
  | .fault .linkLost => .linkLost
  | .fault .headFault => .headFault
  | .fault _ => .supply

/-- The fault code of an end. -/
def StageEnd.code : StageEnd → Option FaultCode
  | .fault f => some f
  | .resetAbort => some .resetAbort
  | _ => none

/-- Where a stage's end leads: a state of an open hole, or the close (R84 to R90, R95). -/
inductive Destination where
  | wait (st : BoomState)
  | closes (how : CloseKind)
  deriving DecidableEq, Repr

/-- The destination of an end of a stage before INSERTING (R84 to R86, R95). -/
def earlyDestination (onSuccess otherwise : BoomState) : StageEnd → Destination
  | .success => .wait onSuccess
  | .abandon => .closes .givenUp
  | .resetAbort => .closes .givenUp
  | _ => .wait otherwise

/-- The destination of an end of INSERTING, SPINNING or HOLDING (R86, R87, R95). -/
def lateDestination (onSuccess : BoomState) : StageEnd → Destination
  | .success => .wait onSuccess
  | .abandon => .closes .givenUp
  | .resetAbort => .closes .givenUp
  | _ => .closes .failed

/-- The destination of an end of TORQUING (R89, R90, R92, R101). -/
def torqueDestination : StageEnd → Destination
  | .abandon => .closes .givenUp
  | .resetAbort => .closes .givenUp
  | .success => .closes .finished
  | .fault .torqueTimeout => .closes .finished
  | .fault .torqueMissed => .closes .finished
  | _ => .closes .failed

/-- Where an end of the stage leads (R84 to R90, R95). `contact` is contact seen. -/
def destination (st : BoomState) (contact : Bool) (e : StageEnd) : Destination :=
  match st with
  | .collaring => earlyDestination .collared (if contact then .collared else .holeOpen) e
  | .drilling => earlyDestination .drilled .drilled e
  | .retracting => earlyDestination .retracted .drilled e
  | .inserting => lateDestination .inserted e
  | .spinning => lateDestination .holding e
  | .holding => lateDestination .set e
  | _ => torqueDestination e

/-- The torque result that an end of TORQUING, or the expiry in SET, records (R89, R90, R92). -/
def torqueResultOf : StageEnd → Option TorqueResult
  | .success => some .achieved
  | .fault .slipped => some .slipped
  | .fault .torqueTimeout => some .torqueTimeout
  | .fault .torqueMissed => some .torqueMissed
  | _ => none

/-- HOLE_OPEN, COLLARED, DRILLED and RETRACTED have the between-stage timer (R93). -/
def BoomState.waitsBetween : BoomState → Bool
  | .holeOpen => true
  | .collared => true
  | .drilled => true
  | .retracted => true
  | _ => false

/-- A boom enters a wait state: the stage's marks and timers are cleared and that state's timer starts (R83, step 4; R92, R93). -/
def Controller.enterWait (c : Controller) (z : Zone5) (st : BoomState) : Controller :=
  { c with
    state := st, run := none, firstRun := false, suspending := Interlocks.empty
    collarTimer := none, torqueTime := none, holdTimer := none, gelDeadline := none
    insertToSpin := if st = .inserted then some 0 else none
    torqueWindow := if st = .set then some 0 else none
    betweenStage := if st.waitsBetween then (betweenLimit z.betweenCode).map fun _ => 0 else none }

/-- A boom enters a stage with run condition WAIT_FLOW and its first-run mark clear (R74, R79 to R82). -/
def Controller.enterStage (c : Controller) (st : BoomState) : Controller :=
  { c with state := st, run := some .waitFlow, firstRun := false, suspending := Interlocks.empty, betweenStage := none }

/-- A fault that the controller records for the hole: the latest code stands (R76, R96). -/
def State.markFault (s : State) (b : Boom) (f : FaultCode) : State := s.modHole b fun h => { h with fault := some f }

/-- Step 4 of a stage's end (R83): the state that the stage's rule gives, or the close of the hole. -/
def State.afterStage (s : State) (b : Boom) (st : BoomState) (e : StageEnd) : State :=
  match destination st (s.boom b).tracker.contactSeen e with
  | .wait w => s.modCtl b fun c => c.enterWait s.params.plan w
  | .closes how =>
    let s1 := if st = .torquing then
        match torqueResultOf e with
        | some r => s.modHole b fun h => { h with torque := some r }
        | none => s
      else s
    s1.closeHole b how st e.code

/-- Step 3 of a stage's end (R83): the open slice settled and, for DRILLING, the anchorage evaluated; not for a RESET request. -/
def State.settleStage (s : State) (b : Boom) (st : BoomState) (e : StageEnd) : State :=
  if e = .resetAbort then s
  else if st = .collaring then s.settleSlice b
  else if st = .drilling then (s.settleSlice b).evaluatePlan b e.reason
  else s

/-- The end of a stage, its five steps in order (R83). `stance` is how the boom stood when a fault arose (R96). -/
def State.endStage (s : State) (b : Boom) (e : StageEnd) (detail : Option Nat)
    (stance : BoomState × Option RunCondition) : State :=
  let st := (s.boom b).ctl.state
  let s0 := match e.code with
    | some f => s.markFault b f
    | none => s
  let s1 := s0.withdraw b
  let s2 := if e = .success then s1 else s1.modLink b fun l => { l with stopLatch := true }
  let s3 := (s2.settleStage b st e).afterStage b st e
  let s4 := s3.raise b .stageEnd
  match e with
  | .fault f => (s4.raise b .stageFault).logBoomFault b f detail stance
  | _ => s4

/-- SPINNING's success: the SPIN entry leaves and the HOLD demand arrives with one allocation; HOLDING is a new stage (R87, R107). -/
def State.spinToHold (s : State) (b : Boom) : State :=
  let s1 := s.modCtl b fun c => { c.enterStage .holding with holdTimer := some 0, gelDeadline := none }
  let old := s1.arbiter.demands
  let left := old.filter fun d => !(d.owner == b.port)
  let s2 := { s1 with arbiter := { s1.arbiter with demands := left ++ [newDemand s1.params.plan b.port .hold] } }.reallocate old
  s2.raise b .stageEnd

/-- A fault that closes the hole of a boom in a wait state: no stage has ended (R92, R93). -/
def State.faultInWait (s : State) (b : Boom) (f : FaultCode) (how : CloseKind) : State :=
  let stance := s.stance b
  let s1 := s.markFault b f
  let s2 := match torqueResultOf (.fault f) with
    | some r => s1.modHole b fun h => { h with torque := some r }
    | none => s1
  ((s2.closeHole b how stance.1 (some f)).raise b .stageFault).logBoomFault b f none stance

/-- LINK_LOST and HEAD_FAULT at the controller (R12, R14): a stage in progress ends; the fault is reported in any state. -/
def State.linkFault (s : State) (b : Boom) (f : FaultCode) (detail : Option Nat) : State :=
  let stance := s.stance b
  if stance.1.isStage then s.endStage b (.fault f) detail stance
  else ((s.markFault b f).raise b .stageFault).logBoomFault b f detail stance

/-! ## A change of the interlock set -/

/-- The stage of a boom suspended by the interlocks that have become active (R97, R98). -/
def State.suspendStage (s : State) (b : Boom) (onset : Interlocks) : State :=
  let c := (s.boom b).ctl
  let by' := onset.inter (suspenders c.state)
  if by' = Interlocks.empty then s
  else
    let s1 := s.modCtl b fun c => { c with run := some .suspended, suspending := c.suspending.union by' }
    if c.run = some .running then s1.modLink b fun l => { l with stopLatch := true } else s1

/-- Whether a demand belongs to a boom whose stage is SUSPENDED: such a stage has no entry (R97, R107). -/
def State.suspendedOwner (s : State) (d : Demand) : Bool :=
  match d.owner with
  | .left => s.left.ctl.run == some .suspended
  | .right => s.right.ctl.run == some .suspended
  | .machine => false

/-- The arbiter's part of a change of the set: suspended stages leave, Q_avail is worked out afresh, and one allocation follows
where either changed something (R105, R110). -/
def State.refreshFlow (s : State) : State :=
  let old := s.arbiter.demands
  let kept := old.filter fun d => !s.suspendedOwner d
  let q := availableFlow s.params.plan.qPump s.interlocks
  if kept = old ∧ q = s.arbiter.qAvail then s
  else { s with arbiter := { qAvail := q, demands := kept } }.reallocate old

/-- A SUPPLY end of a stage in progress (R98). -/
def State.supplyEnd (s : State) (b : Boom) (stance : BoomState × Option RunCondition) : State :=
  if (s.boom b).ctl.state.isStage then s.endStage b (.fault .supply) none stance else s

/-- INTERLOCK raised for a change of the set (R150). -/
def State.raiseInterlock (s : State) (old new : Interlocks) : State :=
  let s1 := s.raiseMachine .interlock
  let changed := (new.minus old).union (old.minus new)
  if changed.inter permissionInterlocks = Interlocks.empty then s1 else s1.raiseBoth .interlock

/-- A changed interlock set handed on in the same act (R149): the controllers react to each onset (R97, R98), the arbiter works
Q_avail out afresh, and INTERLOCK is raised. `old` is the set before the event. -/
def State.announce (s : State) (old : Interlocks) : State :=
  let new := s.interlocks
  if old = new then s
  else
    let onset := new.minus old
    let stanceL := s.stance .left
    let stanceR := s.stance .right
    let s1 := ((s.suspendStage .left onset).suspendStage .right onset).refreshFlow
    let s2 := if onset.supplyLow then (s1.supplyEnd .left stanceL).supplyEnd .right stanceR else s1
    s2.raiseInterlock old new

/-! ## Rounds and the front-end check -/

/-- The first enabled channel from a number on, or channel 6 (R140). -/
def Monitor.channelFrom (m : Monitor) (k : Nat) : Nat :=
  ((List.range 6).find? fun i => decide (k ≤ i) && ((m.channels[i]?.map fun c => c.limits.enabled).getD false)).getD 6

/-- A round starts (R140, step 1). -/
def Monitor.startRound (m : Monitor) : Monitor := { m with round := .converting (m.channelFrom 0), roundTimer := 0 }

/-- The rounds stop for the front-end check (R146). -/
def Monitor.stopRounds (m : Monitor) : Monitor :=
  { m with
    round := .stopped, roundTimer := 0, channels := m.channels.map fun c => { c with debounce := none }
    passRun := 0, failRun := 0 }

/-- The stop of the front-end check with a result (R191, R192): CHECK_DONE is raised, results 3 and 4 write CHECK_FAIL,
MONITOR_WARMUP becomes active and a new round starts at once (R144, R146). -/
def State.stopCheck (s : State) (result : Nat) (detail : Option Nat) : State :=
  let s1 := { s with check := { s.check with running := false, last := some { result, detail } } }.raiseMachine .checkDone
  let s2 := if result = 3 ∨ result = 4 then s1.logPartFault .machine .checkFail detail else s1
  let old := s2.interlocks
  (s2.modMonitor fun m => { m.startRound with warming := true, warmup := 0 }).announce old

/-! ## Memory operations -/

/-- The seven bytes of zone 6 that a save writes, with the checksum that makes the zone sum to 0 (R162, R189, section 10.8). -/
def savePage (left right : Nat) : List Host.Cell :=
  let body := (List.range 3).map (fun i => BitVec.ofNat 8 (left / 256 ^ i)) ++
    (List.range 3).map (fun i => BitVec.ofNat 8 (right / 256 ^ i))
  let bytes := body ++ [0 - body.foldl (· + ·) (0 : Byte)]
  bytes.zipIdx.map fun p => (zoneBase 6 + p.2, p.1)

/-- A wear save begins, with the contents taken now (R162, R189). -/
def State.beginSave (s : State) : State :=
  s.modMem fun m =>
    { m with op := .save (savePage s.left.wear.cmDrilled s.right.wear.cmDrilled), opTimer := 0, pendingSave := false }

/-- A wear save asked for (R189): it begins at once, waits, or joins the waiting one. -/
def State.askSave (s : State) : State :=
  if s.mem.op = .none then s.beginSave else s.modMem fun m => { m with pendingSave := true }

/-- An operation completes: CONFIG_DONE is raised and a waiting save begins in the same act (R187 to R189). -/
def State.finishOperation (s : State) : State :=
  let s1 := (s.modMem fun m => { m with op := .none, opTimer := 0 }).raiseMachine .configDone
  if s.mem.pendingSave then s1.beginSave else s1

end Sys2Proof.Machine
end

