-- ==== Sys2Proof/Machine/Bits.lean ====
section
/-! DEFINITION. Bits and bytes on the lines: byte order, bit insertion and removal, and the two frame checks. -/
namespace Sys2Proof.Machine

/-- The bits of a byte, least significant first: the order of the head links (R1). -/
def bitsLsb (b : Byte) : List Bool := (List.range 8).map b.getLsbD

/-- The bits of a byte, most significant first: the order of the master ports (R168). -/
def bitsMsb (b : Byte) : List Bool := (bitsLsb b).reverse

/-- The byte whose bits are given, least significant first. -/
def byteOfBits (bits : List Bool) : Byte :=
  BitVec.ofNat 8 (bits.foldr (fun b acc => 2 * acc + b.toNat) 0)

/-- The whole bytes in a run of bits, in order; a rest of fewer than eight bits is left out. -/
def bytesOfBits : List Bool → List Byte
  | b0 :: b1 :: b2 :: b3 :: b4 :: b5 :: b6 :: b7 :: rest =>
    byteOfBits [b0, b1, b2, b3, b4, b5, b6, b7] :: bytesOfBits rest
  | _ => []

/-- The whole bytes in a run of bits, most significant bit first (R168); a rest of fewer than eight bits is left out. -/
def bytesMsb : List Bool → List Byte
  | b7 :: b6 :: b5 :: b4 :: b3 :: b2 :: b1 :: b0 :: rest =>
    byteOfBits [b0, b1, b2, b3, b4, b5, b6, b7] :: bytesMsb rest
  | _ => []

/-- `k` bytes of a number, least significant first (section 10.8). -/
def bytesLE : Nat → Nat → List Byte
  | 0, _ => []
  | k + 1, n => BitVec.ofNat 8 n :: bytesLE k (n / 256)

/-- The number in a list of bytes, least significant first. -/
def numberLE : List Byte → Nat
  | [] => 0
  | b :: bs => b.toNat + 256 * numberLE bs

/-- A signed number in `k` bytes, two's complement, least significant byte first (section 10.8). -/
def signedLE (k : Nat) (n : Int) : List Byte := bytesLE k (n % (256 ^ k : Nat)).toNat

/-- One bit of the division by x^16 + x^12 + x^5 + 1 (R2). -/
def crc16Bit (r : BitVec 16) (b : Bool) : BitVec 16 :=
  if r.msb != b then (r <<< 1) ^^^ 0x1021#16 else r <<< 1

/-- The 16 check bits over a run of bits, the coefficient of x^15 first (R2): the remainder, started from all ones, complemented. -/
def checkBits (bits : List Bool) : List Bool :=
  (List.range 16).map fun i => !(bits.foldl crc16Bit 0xFFFF#16).getLsbD (15 - i)

/-- One bit of the division by x^8 + x^2 + x + 1 (R169). -/
def crc8Bit (r : Byte) (b : Bool) : Byte :=
  if r.msb != b then (r <<< 1) ^^^ 0x07#8 else r <<< 1

/-- The CRC-8 over a run of bytes (R169). -/
def crc8 (bytes : List Byte) : Byte := (bytes.flatMap bitsMsb).foldl crc8Bit 0

/-- The flag pattern 0x7E (section 1.1). -/
def flagBits : List Bool := [false, true, true, true, true, true, true, false]

/-- Bit insertion (R1): a 0 after every run of five 1s. The number counts the 1s of the run so far. -/
def insertZeros : Nat → List Bool → List Bool
  | _, [] => []
  | _, false :: bs => false :: insertZeros 0 bs
  | k, true :: bs => if k = 4 then true :: false :: insertZeros 0 bs else true :: insertZeros (k + 1) bs

/-- The bits of a frame on the line, from the opening to the closing flag (R1). -/
def lineBits (frame : List Byte) : List Bool :=
  flagBits ++ insertZeros 0 (frame.flatMap bitsLsb) ++ flagBits

/-- Flags sent back to back (R1): the bit numbered `i`, from the first bit of a flag. -/
def fillBit (i : Nat) : Bool := flagBits.getD (i % 8) false

/-- What the receiver makes of a run of line bits after a flag (R3, R4): the data bits collected so far, or the first flag or
abort in the run, with the data bits collected before it and the line bits left over after it. -/
inductive Scan where
  | collecting (data : List Bool)
  | flag (data rest : List Bool)
  | abort (data rest : List Bool)
  deriving DecidableEq, Repr

/-- The data bits of a frame at the last bit of a flag: the five 1s before the sixth are taken out, and the 0 before them (R4).
That 0 is not among the data bits where it followed five 1s and was removed as inserted, or where an earlier flag shares it. -/
def withoutFlag (acc : List Bool) : List Bool :=
  match acc.drop 5 with
  | false :: older => older
  | older => older

/-- The removal rule of R4. `ones` counts the consecutive 1s; `acc` holds the data bits, youngest first. -/
def scanLine : Nat → List Bool → List Bool → Scan
  | _, acc, [] => .collecting acc.reverse
  | ones, acc, true :: bs =>
    if ones < 5 then scanLine (ones + 1) (true :: acc) bs
    else if ones = 5 then scanLine 6 acc bs
    else .abort acc.reverse bs
  | ones, acc, false :: bs =>
    if ones < 5 then scanLine 0 (false :: acc) bs
    else if ones = 5 then scanLine 0 acc bs
    else .flag (withoutFlag acc).reverse bs

/-- The youngest `k` bits of a run. -/
def lastBits (k : Nat) (bits : List Bool) : List Bool := bits.drop (bits.length - k)

/-- HUNT (R3): after each bit the last eight received, `last`, are compared with the flag. The bits left over after the first flag. -/
def findFlag : List Bool → List Bool → Option (List Bool)
  | _, [] => none
  | last, bit :: bs =>
    let now := lastBits 8 (last ++ [bit])
    if now = flagBits then some bs else findFlag now bs

/-- What SYNC makes of the bits behind a flag (R3): not yet eight bits, a flag, an abort, or the eight bits of a first byte as they
stood on the line, each with the bits left over after it. -/
inductive Group where
  | short
  | flag (rest : List Bool)
  | abort (rest : List Bool)
  | byte (line rest : List Bool)
  deriving DecidableEq, Repr

/-- SYNC takes bits with the removal rule of R4 until eight of them make a byte (R3). `ones` counts the consecutive 1s, `k` the data
bits; `seen` holds the line bits, youngest first. A flag that ends before the eighth data bit keeps SYNC, whatever stood before it,
and so do six 1s and a 0 directly behind a flag, whose last 0 they share (log 30). -/
def scanGroup : Nat → Nat → List Bool → List Bool → Group
  | _, _, _, [] => .short
  | ones, k, seen, bit :: bs =>
    if ones = 6 then (if bit then .abort bs else .flag bs)
    else if ones = 5 then scanGroup (if bit then 6 else 0) k (bit :: seen) bs
    else if k = 7 then .byte (bit :: seen).reverse bs
    else scanGroup (if bit then ones + 1 else 0) (k + 1) (bit :: seen) bs

end Sys2Proof.Machine
end

