-- ==== Sys2Proof/Machine/Operands.lean ====
section
/-! DEFINITION. The request frames of the master ports: kinds, ports, operand sizes and the frame test (R169, R172, section 10.7). -/
namespace Sys2Proof.Machine

/-- The request kinds (section 10.7). -/
inductive RequestKind where
  | nop | clearCause
  | readStatus | readLive | readHole | readRow | readFault | readAttributes | readMonitor | readLink
  | beginHole | collar | drill | retract | insert | spin | torque | stop | abandon | resume | bitChanged
  | supportSet | supportReleased | rowAdvance | tramDone | waive | clearOverflow | setPlan
  | flowTram | flowSupport | flowRelease | writeZone | loadZone | saveWear | selfCheck | reset
  deriving DecidableEq, Repr

/-- The kinds with their codes (section 10.7). -/
def RequestKind.codes : List (Nat × RequestKind) :=
  [ (0x00, .nop), (0x01, .clearCause),
    (0x10, .readStatus), (0x11, .readLive), (0x12, .readHole), (0x13, .readRow), (0x14, .readFault),
    (0x15, .readAttributes), (0x16, .readMonitor), (0x17, .readLink),
    (0x20, .beginHole), (0x21, .collar), (0x22, .drill), (0x23, .retract), (0x24, .insert), (0x25, .spin),
    (0x26, .torque), (0x27, .stop), (0x28, .abandon), (0x29, .resume), (0x2A, .bitChanged),
    (0x40, .supportSet), (0x41, .supportReleased), (0x42, .rowAdvance), (0x43, .tramDone), (0x44, .waive),
    (0x45, .clearOverflow), (0x46, .setPlan), (0x47, .flowTram), (0x48, .flowSupport), (0x49, .flowRelease),
    (0x4A, .writeZone), (0x4B, .loadZone), (0x4C, .saveWear), (0x4D, .selfCheck), (0x4E, .reset) ]

/-- Which ports take a kind (section 10.7). -/
inductive Audience where
  | all | boom | machine
  deriving DecidableEq, Repr

/-- The eight reads (R175). -/
def RequestKind.isRead : RequestKind → Bool
  | .readStatus => true
  | .readLive => true
  | .readHole => true
  | .readRow => true
  | .readFault => true
  | .readAttributes => true
  | .readMonitor => true
  | .readLink => true
  | _ => false

/-- The ports whose request set holds a kind (section 10.7). -/
def RequestKind.audience : RequestKind → Audience
  | .beginHole => .boom
  | .collar => .boom
  | .drill => .boom
  | .retract => .boom
  | .insert => .boom
  | .spin => .boom
  | .torque => .boom
  | .stop => .boom
  | .abandon => .boom
  | .resume => .boom
  | .bitChanged => .boom
  | .nop => .all
  | .clearCause => .all
  | .readStatus => .all
  | .readLive => .all
  | .readHole => .all
  | .readRow => .all
  | .readFault => .all
  | .readAttributes => .all
  | .readMonitor => .all
  | .readLink => .all
  | _ => .machine

/-- A command is every kind but the eight reads, NOP and CLEAR_CAUSE (R176). -/
def RequestKind.isCommand (k : RequestKind) : Bool :=
  !(k.isRead || k == .nop || k == .clearCause)

/-- Whether a port's request set holds a kind. -/
def RequestKind.onPort (k : RequestKind) (p : Port) : Bool :=
  match k.audience with
  | .all => true
  | .boom => p != .machine
  | .machine => p == .machine

/-- The kind byte of a request frame. -/
def Request.kindByte (q : Request) : Byte := q.frame.getD 0 0

/-- The length byte of a request frame. -/
def Request.lengthByte (q : Request) : Nat := (q.frame.getD 1 0).toNat

/-- The payload bytes 0 to 28 of a request frame. -/
def Request.payload (q : Request) : List Byte := (q.frame.drop 2).take 29

/-- The operands: the payload bytes within the length (R172). -/
def Request.operands (q : Request) : List Byte := q.payload.take q.lengthByte

/-- A frame error (R169): the CRC does not match, or the length byte is greater than 29. -/
def Request.isFrameError (q : Request) : Bool :=
  crc8 (q.frame.take 31) != q.frame.getD 31 0 || decide (29 < q.lengthByte)

/-- The kind of a request as its port knows it; absent where the kind is not in the port's set (R172, test 2). -/
def Request.kindOn (q : Request) (p : Port) : Option RequestKind :=
  match RequestKind.codes.find? fun c => c.1 == q.kindByte.toNat with
  | some c => if c.2.onPort p then some c.2 else none
  | none => none

/-- Whether the length byte is the operand size of the kind (R172, test 4; section 10.7). -/
def RequestKind.sizeOk (k : RequestKind) (p : Port) (q : Request) : Bool :=
  match k with
  | .clearCause => q.lengthByte == 1
  | .readStatus => q.lengthByte == 1
  | .readLive => q.lengthByte == (if p = .machine then 2 else 1)
  | .readHole => q.lengthByte == 2
  | .readRow => q.lengthByte == 1
  | .readFault => q.lengthByte == 2
  | .readAttributes => q.lengthByte == 2
  | .readMonitor => q.lengthByte == 1
  | .readLink => q.lengthByte == 2
  | .beginHole => q.lengthByte == 1
  | .waive => q.lengthByte == 1
  | .setPlan => q.lengthByte == 1 + 3 * (q.payload.getD 0 0).toNat
  | .flowRelease => q.lengthByte == 1
  | .writeZone => decide (3 ≤ q.lengthByte) && decide (q.lengthByte ≤ 26)
  | .loadZone => q.lengthByte == 1
  | _ => q.lengthByte == 0

/-- Operand `i` of a request as a number. -/
def operand (ops : List Byte) (i : Nat) : Nat := (ops.getD i 0).toNat

/-- A boom operand: 0 LEFT, 1 RIGHT, anything else none (R175). -/
def boomOperand : Nat → Option Boom
  | 0 => some .left
  | 1 => some .right
  | _ => none

/-- The slots of a SET_PLAN operand after its count: position (1), depth in mm (2) each (section 10.7). -/
def planOperand : List Byte → List PlanSlot
  | pos :: d0 :: d1 :: rest => { position := pos.toNat, depth := d0.toNat + 256 * d1.toNat } :: planOperand rest
  | _ => []

/-- The 32 bytes of a frame: 31 bytes, padded with 0, and their CRC-8 (R169). -/
def sealFrame (bytes : List Byte) : List Byte :=
  let body := (bytes ++ List.replicate 31 0).take 31
  body ++ [crc8 body]

/-- A request frame as a master sends it: kind, length, payload, CRC-8 (section 10.8). -/
def requestFrame (kind : Byte) (payload : List Byte) : List Byte :=
  sealFrame (kind :: BitVec.ofNat 8 payload.length :: payload)

end Sys2Proof.Machine
end

