-- ==== Sys2Proof/Machine/Ports.lean ====
section
/-! DEFINITION. The master ports (chapter 10): transfers, the processing of a held request, and the requests that a port settles itself. -/
namespace Sys2Proof.Machine

/-! ## Frames driven out (R169, R170, R173, R178, R180) -/

/-- The codes of the replies (section 10.8). -/
def ReplyCode.toNat : ReplyCode → Nat
  | .accepted => 0x00
  | .acceptedClamped => 0x01
  | .data => 0x02
  | .wrongState => 0x10
  | .interlock => 0x11
  | .slotTaken => 0x12
  | .slotResolved => 0x13
  | .separation => 0x14
  | .rowOpen => 0x15
  | .busy => 0x16
  | .config => 0x17
  | .range => 0x18
  | .checksumBad => 0x19
  | .boomAbsent => 0x1A
  | .frameError => 0x20
  | .unknownKind => 0x21
  | .notReady => 0x22
  | .noReply => 0x23

/-- ZONE_DEFAULTED (R180). -/
def State.zoneDefaulted (s : State) : Bool := s.mem.zones.any fun z => z == .defaulted

/-- The status byte of a port as its flags stand (R178, R180). -/
def State.statusByte (s : State) (p : Port) : Byte :=
  let c := (s.port p).causes
  BitVec.ofNat 8 (c.first + 8 * c.count + 64 * s.postFail.toNat + 128 * s.zoneDefaulted.toNat)

/-- A reply frame: status, code, length, payload, CRC-8 (section 10.8). -/
def replyFrame (status : Byte) (r : Reply) : List Byte :=
  sealFrame (status :: BitVec.ofNat 8 r.code.toNat :: BitVec.ofNat 8 r.payload.length :: r.payload)

/-- 32 bytes of 1s: what a closed port drives (R168). -/
def onesFrame : List Byte := List.replicate 32 0xFF

/-! ## Transfers (R168, R170, R171) -/

/-- What a transfer that begins now drives out, and how it is marked (R168, R170). -/
def State.beginTransfer (s : State) (p : Port) : MasterPort :=
  let port := s.port p
  if port.isOpen then
    match port.reply with
    | .pending r => { port with transfer := some .begunPending, driven := some (replyFrame (s.statusByte p) r) }
    | .processing _ =>
      { port with
        transfer := some .notReady, driven := some (replyFrame (s.statusByte p) { code := .notReady, payload := [] }) }
  else { port with transfer := some .onClosed, driven := if s.phase = .inReset then none else some onesFrame }

/-- TRANSFER_BEGIN (R168, R170). Without power, or with the port's select line already asserted, there is none. -/
def execTransferBegin (p : Port) (s : State) : Host.Outcome State Fault Refusal :=
  if s.phase = .off ∨ (s.port p).transfer.isSome then .next s
  else .next (s.modPort p fun _ => s.beginTransfer p)

/-- The bit that a port drives on data-out at the clock numbered `i`, from 0, of the transfer in progress (R168): the bytes of the frame
fixed when it began, each most significant bit first, and 1 after the 32nd; 1 throughout where no frame was fixed or a reset has cut
the transfer. Without a transfer, without power and in reset nothing is driven (section 11.1; log 19). -/
def State.dataOut (s : State) (p : Port) (i : Nat) : Option Bool :=
  if (s.port p).transfer.isNone || s.phase == .off || s.phase == .inReset then none
  else some (((((s.port p).driven.getD []).flatMap bitsMsb)[i]?).getD true)

/-- The port after the end of a transfer (R171): a complete one, of 32 whole bytes or more, begun in PENDING has its request taken.
`received` are the bits taken from data-in. -/
def MasterPort.endTransfer (port : MasterPort) (received : List Bool) (now : Millis) : MasterPort :=
  let port' := { port with transfer := none, driven := none }
  if port.transfer = some .begunPending ∧ 32 * 8 ≤ received.length then
    { port' with reply := .processing { frame := (bytesMsb received).take 32, ended := now } }
  else port'

/-- TRANSFER_END (R171). Without a transfer in progress there is none. -/
def execTransferEnd (p : Port) (received : List Bool) (s : State) : Host.Outcome State Fault Refusal :=
  .next (s.modPort p fun port => if port.transfer.isSome then port.endTransfer received s.millis else port)

/-! ## Processing (R172, R173, R176) -/

/-- What a block answers: the state after the request, the reply code and its payload. -/
structure Answer where
  state : State
  code : ReplyCode
  payload : List Byte

/-- A reply with no payload. -/
def answer (s : State) (c : ReplyCode) : Answer := { state := s, code := c, payload := [] }

/-- INTERLOCK with the set that blocks the request (R173). -/
def answerInterlock (s : State) (set : Interlocks) : Answer :=
  { state := s, code := .interlock, payload := bytesLE 2 set.toNat }

/-- DATA with the part asked for (R173). -/
def answerData (s : State) (payload : List Byte) : Answer := { state := s, code := .data, payload }

/-- The request that a port is processing. -/
def State.processing (s : State) (p : Port) : Option Request :=
  match (s.port p).reply with
  | .processing q => some q
  | .pending _ => none

/-- The request that a port is processing, where it passes the frame test and is of a kind (R172, tests 1 and 2). -/
def State.held (s : State) (p : Port) (k : RequestKind) : Option Request :=
  match s.processing p with
  | some q => if !q.isFrameError && q.kindOn p == some k then some q else none
  | none => none

/-- The entry of a request in the recent-request list (R176). -/
def Request.entry (q : Request) (code : ReplyCode) : RecentEntry :=
  { kind := q.kindByte, payload := q.payload.take 4, code, time := q.ended }

/-- The end of processing: the reply is built, a command joins the recent-request list, the port returns to PENDING (R172, R176). -/
def State.finish (s : State) (p : Port) (q : Request) (k : RequestKind) (code : ReplyCode) (payload : List Byte) : State :=
  s.modPort p fun port =>
    { port with
      reply := .pending { code, payload }
      recent := if k.isCommand then appendCapped 4 port.recent (q.entry code) else port.recent }

/-- The processing of a held request of a kind: tests 3 and 4 of R172, then the block that owns it. Without such a request
nothing is processed. -/
def State.serve (s : State) (p : Port) (k : RequestKind) (body : List Byte → State → Answer) : State :=
  match s.held p k with
  | none => s
  | some q =>
    if s.absentPort p && !k.isRead then s.finish p q k .boomAbsent []
    else if !k.sizeOk p q then s.finish p q k .range []
    else
      let a := body q.operands s
      a.state.finish p q k a.code a.payload

/-- A request settled by its frame or its kind: it makes no entry (R172, tests 1 and 2; R176). -/
def State.reject (s : State) (p : Port) (code : ReplyCode) : State :=
  s.modPort p fun port => { port with reply := .pending { code, payload := [] } }

/-- FRAME_ERROR (R169, R172). -/
def execFrameError (p : Port) (s : State) : Host.Outcome State Fault Refusal :=
  match s.processing p with
  | some q => if q.isFrameError then .next (s.reject p .frameError) else .next s
  | none => .next s

/-- UNKNOWN_KIND (R172). -/
def execUnknownKind (p : Port) (s : State) : Host.Outcome State Fault Refusal :=
  match s.processing p with
  | some q => if !q.isFrameError && q.kindOn p == none then .next (s.reject p .unknownKind) else .next s
  | none => .next s

/-- NOP (R172). -/
def execNop (p : Port) (s : State) : Host.Outcome State Fault Refusal := .next (s.serve p .nop fun _ s => answer s .accepted)

/-- CLEAR_CAUSE on a port (R179). -/
def State.clearCause (s : State) (p : Port) (code : Nat) : Answer :=
  if 1 ≤ code ∧ code ≤ 7 then
    answer (s.modPort p fun port => { port with causes := port.causes.put false code }) .accepted
  else answer s .range

/-- CLEAR_CAUSE (R179). -/
def execClearCause (p : Port) (s : State) : Host.Outcome State Fault Refusal :=
  .next (s.serve p .clearCause fun ops s => s.clearCause p (operand ops 0))

end Sys2Proof.Machine
end

