-- ==== Sys2Proof/Machine/Timers.lean ====
section
/-! DEFINITION. The timers of the bolt-cycle controllers (section 5.6): when each is due, and the commands that its expiry gives. -/
namespace Sys2Proof.Machine

/-- A timer that runs and stands at its limit. -/
def reached (timer : Option Nat) (limit : Nat) : Bool := timer.any fun t => decide (limit ≤ t)

/-- The collar contact timer stands at 3,000 ms with contact seen no (R84, R91). -/
def State.noContactDue (s : State) (b : Boom) : Bool :=
  let u := s.boom b
  u.ctl.state == .collaring && !u.tracker.contactSeen && reached u.ctl.collarTimer 3000

/-- The hold timer stands at the hold time (R87). -/
def State.holdDue (s : State) (b : Boom) : Bool :=
  let u := s.boom b
  u.ctl.state == .holding && reached u.ctl.holdTimer s.params.plan.holdTime

/-- The torque time stands at 8,000 ms (R90). -/
def State.torqueTimeoutDue (s : State) (b : Boom) : Bool :=
  let u := s.boom b
  u.ctl.state == .torquing && reached u.ctl.torqueTime 8000

/-- The insert-to-spin timer stands at its limit (R92). -/
def State.spinLateDue (s : State) (b : Boom) : Bool :=
  let u := s.boom b
  (u.ctl.state == .inserted || u.ctl.state == .spinning) && reached u.ctl.insertToSpin s.params.plan.insertToSpin

/-- The gel deadline stands at its limit (R92). -/
def State.mixIncompleteDue (s : State) (b : Boom) : Bool :=
  let u := s.boom b
  u.ctl.state == .spinning && reached u.ctl.gelDeadline s.params.plan.gelDeadline

/-- The torque window stands at its limit (R92). -/
def State.torqueMissedDue (s : State) (b : Boom) : Bool :=
  let u := s.boom b
  (u.ctl.state == .set || u.ctl.state == .torquing) && reached u.ctl.torqueWindow s.params.plan.torqueWindow

/-- The between-stage timer stands at the limit of its code (R93). -/
def State.waitTimeoutDue (s : State) (b : Boom) : Bool :=
  let u := s.boom b
  u.ctl.state.waitsBetween &&
    match betweenLimit s.params.plan.betweenCode with
    | some limit => reached u.ctl.betweenStage limit
    | none => false

/-- A fault that finds its stage in progress ends it; in a wait state it closes the hole (R92). -/
def State.expire (s : State) (b : Boom) (f : FaultCode) (how : CloseKind) : State :=
  if (s.boom b).ctl.state.isStage then s.endStage b (.fault f) none (s.stance b) else s.faultInWait b f how

/-- NO_CONTACT (R84, R91). -/
def execNoContact (b : Boom) (s : State) : Host.Outcome State Fault Refusal :=
  if s.noContactDue b then .next (s.endStage b (.fault .noContact) none (s.stance b)) else .next s

/-- HOLD_TIME_ELAPSED (R87). -/
def execHoldTimeElapsed (b : Boom) (s : State) : Host.Outcome State Fault Refusal :=
  if s.holdDue b then .next (s.endStage b .success none (s.stance b)) else .next s

/-- TORQUE_TIMEOUT (R90). -/
def execTorqueTimeout (b : Boom) (s : State) : Host.Outcome State Fault Refusal :=
  if s.torqueTimeoutDue b then .next (s.endStage b (.fault .torqueTimeout) none (s.stance b)) else .next s

/-- SPIN_LATE (R92). -/
def execSpinLate (b : Boom) (s : State) : Host.Outcome State Fault Refusal :=
  if s.spinLateDue b then .next (s.expire b .spinLate .failed) else .next s

/-- MIX_INCOMPLETE (R92). -/
def execMixIncomplete (b : Boom) (s : State) : Host.Outcome State Fault Refusal :=
  if s.mixIncompleteDue b then .next (s.endStage b (.fault .mixIncomplete) none (s.stance b)) else .next s

/-- TORQUE_MISSED (R92). -/
def execTorqueMissed (b : Boom) (s : State) : Host.Outcome State Fault Refusal :=
  if s.torqueMissedDue b then .next (s.expire b .torqueMissed .finished) else .next s

/-- WAIT_TIMEOUT (R93): the hole is abandoned and closes with grade X. -/
def execWaitTimeout (b : Boom) (s : State) : Host.Outcome State Fault Refusal :=
  if s.waitTimeoutDue b then .next (s.faultInWait b .waitTimeout .givenUp) else .next s

end Sys2Proof.Machine
end

