-- ==== Sys2Proof/Machine/Report.lean ====
section
/-! DEFINITION. The payloads of the reads, part by part (section 10.8): the encoding of each block's state. -/
namespace Sys2Proof.Machine

/-! ## Fields (section 10.8, Encoding) -/

/-- One byte of a number. -/
def b1 (n : Nat) : List Byte := bytesLE 1 n

/-- A field of `k` bytes that may be absent: all 1s when absent. -/
def optField (k : Nat) : Option Nat → List Byte
  | some n => bytesLE k n
  | none => List.replicate k 0xFF

/-- A field of `k` bytes that may be absent and whose range holds all 1s: one more byte, 0 when present (log 21). -/
def optWide (k : Nat) : Option Nat → List Byte
  | some n => bytesLE (k + 1) n
  | none => List.replicate (k + 1) 0xFF

/-- A truth value as a byte. -/
def flagByte (b : Bool) : List Byte := b1 b.toNat

/-- A group of fields that is present or absent together, `k` bytes long: led by a present byte, and 0 when absent (section 10.8).
Which fields form a group is log 39. -/
def optGroup {α : Type} (k : Nat) (fields : α → List Byte) : Option α → List Byte
  | some x => b1 1 ++ fields x
  | none => List.replicate (k + 1) 0

/-- A signed field of two bytes that may be absent, with its further byte. -/
def optSigned : Option Int → List Byte
  | some n => signedLE 2 n ++ [0]
  | none => [0xFF, 0xFF, 0xFF]

/-! ## Codes (section 10.8) -/

/-- Codes of the boom states. -/
def BoomState.code : BoomState → Nat
  | .idle => 0
  | .holeOpen => 1
  | .collared => 2
  | .drilled => 3
  | .retracted => 4
  | .inserted => 5
  | .set => 6
  | .collaring => 7
  | .drilling => 8
  | .retracting => 9
  | .inserting => 10
  | .spinning => 11
  | .holding => 12
  | .torquing => 13

/-- Codes of the run conditions. -/
def RunCondition.code : RunCondition → Nat
  | .waitFlow => 0
  | .running => 1
  | .paused => 2
  | .suspended => 3

/-- Codes of the classes. -/
def Ground.code : Ground → Nat
  | .void => 0
  | .soft => 1
  | .firm => 2
  | .hard => 3
  | .unmeasured => 4

/-- Codes of the verdicts. -/
def Verdict.code : Verdict → Nat
  | .good => 1
  | .extraResin => 2
  | .poor => 3

/-- Codes of the grades. -/
def Grade.code : Grade → Nat
  | .a => 0
  | .b => 1
  | .c => 2
  | .f => 3
  | .x => 4

/-- Codes of the torque results. -/
def TorqueResult.code : TorqueResult → Nat
  | .achieved => 1
  | .slipped => 2
  | .torqueTimeout => 3
  | .torqueMissed => 4

/-- Codes of the faults. -/
def FaultCode.code : FaultCode → Nat
  | .noContact => 1
  | .stall => 2
  | .depthLimit => 3
  | .insertBlocked => 4
  | .mixIncomplete => 5
  | .spinLate => 6
  | .slipped => 7
  | .torqueTimeout => 8
  | .torqueMissed => 9
  | .waitTimeout => 10
  | .supply => 11
  | .linkLost => 12
  | .headFault => 13
  | .resetAbort => 14
  | .configZoneBad => 15
  | .postFail => 16
  | .monitorFault => 17
  | .checkFail => 18

/-- A fault code, 0 when absent. -/
def faultCodeOf (f : Option FaultCode) : Nat := (f.map FaultCode.code).getD 0

/-- Codes of the fault sources. -/
def FaultSource.code : FaultSource → Nat
  | .left => 0
  | .right => 1
  | .machine => 2
  | .device => 3

/-- Codes of the booms. -/
def boomCode : Boom → Nat
  | .left => 0
  | .right => 1

/-- Codes of the owners of demands, in the order of R106. -/
def ownerCode : Port → Nat
  | .left => 0
  | .right => 1
  | .machine => 2

/-- Codes of the kinds of demand, in the order of R106. -/
def DemandKind.code : DemandKind → Nat
  | .collar => 0
  | .drill => 1
  | .retract => 2
  | .insert => 3
  | .spin => 4
  | .hold => 5
  | .torque => 6
  | .tram => 7
  | .support => 8

/-- Codes of the classes of demand, in the order of R106. -/
def DemandClass.code : DemandClass → Nat
  | .normal => 0
  | .critical => 1
  | .machine => 2

/-- Codes of the end reasons, in the order of R59. -/
def EndReason.code : EndReason → Nat
  | .depthReached => 0
  | .stall => 1
  | .depthLimit => 2
  | .stop => 3
  | .linkLost => 4
  | .headFault => 5
  | .supply => 6
  | .abandon => 7

/-- Codes of the placements. -/
def Placement.code : Placement → Nat
  | .extended => 0
  | .opened => 1
  | .absorbed => 2
  | .merged => 3
  | .forced => 4

/-- Codes of the zone states. -/
def ZoneState.code : ZoneState → Nat
  | .good => 0
  | .clamped => 1
  | .defaulted => 2

/-- Codes of the memory operations (READ_STATUS part 0). -/
def MemOp.code : MemOp → Nat
  | .none => 0
  | .write _ => 1
  | .load _ => 2
  | .save _ => 3

/-- Codes of the slot states, in the order of R119. -/
def SlotState.code : SlotState → Nat
  | .isOpen => 0
  | .claimed _ => 1
  | .bolted _ => 2
  | .waived => 3

/-- Codes of the breach states, in the order of R139. -/
def Breach.code : Breach → Nat
  | .inside => 0
  | .hi => 1
  | .lo => 2

/-- Codes of the round states, in the order of chapter 8. -/
def RoundState.code : RoundState → Nat
  | .stopped => 0
  | .converting _ => 1
  | .sleeping => 2

/-- Codes of the link states, in the order of section 1.5. -/
def LinkState.code : LinkState → Nat
  | .down => 0
  | .up => 1
  | .lost => 2

/-- Codes of the receiver states, in the order of section 1.2. -/
def ReceiverState.code : ReceiverState → Nat
  | .hunt => 0
  | .sync => 1
  | .frame => 2

/-! ## READ_STATUS -/

/-- A boom's state and run condition. -/
def stanceBytes (x : BoomState × Option RunCondition) : List Byte := b1 x.1.code ++ optField 1 (x.2.map RunCondition.code)

/-- The flags of a port, bit k − 1 for code k. -/
def Causes.toNat (c : Causes) : Nat :=
  c.c1.toNat + 2 * c.c2.toNat + 4 * c.c3.toNat + 8 * c.c4.toNat + 16 * c.c5.toNat + 32 * c.c6.toNat + 64 * c.c7.toNat

/-- READ_STATUS part 0. -/
def State.status0 (s : State) (p : Port) : List Byte :=
  bytesLE 4 s.millis.toNat ++ bytesLE 2 s.params.machineNumber ++ stanceBytes (s.stance .left) ++
    stanceBytes (s.stance .right) ++ bytesLE 2 s.interlocks.toNat ++ s.mem.zones.flatMap (fun z => b1 z.code) ++
    b1 s.mem.op.code ++ flagByte s.mem.pendingSave ++ flagByte s.check.running ++ b1 s.check.remaining ++
    optField 1 (s.check.last.map CheckResult.result) ++ optField 1 (s.check.last.bind CheckResult.detail) ++
    flagByte s.postFail ++ b1 (s.port p).causes.toNat

/-- An entry of the demand list. -/
def demandBytes (d : Demand) : List Byte :=
  b1 (ownerCode d.owner) ++ b1 d.kind.code ++ b1 d.kind.cls.code ++ bytesLE 2 d.demand ++ bytesLE 2 d.floor ++ bytesLE 2 d.grant

/-- READ_STATUS part 1. -/
def State.status1 (s : State) : List Byte :=
  let i := s.interlocks
  bytesLE 2 s.params.plan.qPump ++ bytesLE 2 s.arbiter.qAvail ++
    b1 (i.pumpLow.toNat + 2 * i.oilHot.toNat + 4 * i.supplyLow.toNat) ++ b1 s.arbiter.demands.length ++
    (s.arbiter.demands.take 2).flatMap demandBytes

/-- READ_STATUS part 2. -/
def State.status2 (s : State) : List Byte :=
  b1 s.arbiter.demands.length ++ ((s.arbiter.demands.drop 2).take 2).flatMap demandBytes

/-- READ_STATUS (R175): a part of 0 to 2. -/
def State.readStatus (s : State) (p : Port) : Nat → Option (List Byte)
  | 0 => some (s.status0 p)
  | 1 => some s.status1
  | 2 => some s.status2
  | _ => none

/-! ## Hole records -/

/-- The slot and the boom of a record in one byte. -/
def HoleRecord.slotBoom (h : HoleRecord) : Nat := h.slot + 16 * boomCode h.boom

/-- The close time, all 1s when absent. -/
def HoleRecord.closeBytes (h : HoleRecord) : List Byte := optField 4 (h.closeTime.map BitVec.toNat)

/-- The hole header layout from byte 3 on (section 10.8). Byte 18 of a record without cartridges counted, an absence that bit 5 of byte
26 marks, is 0 (DESIGN CHOICE, log 41). -/
def HoleRecord.headerTail (h : HoleRecord) : List Byte :=
  bytesLE 2 h.row ++ b1 h.slotBoom ++ h.closeBytes ++ bytesLE 3 (h.planDepth + 4096 * h.drilled) ++
    bytesLE 2 (match h.z with | some z => z + 32768 | none => 0) ++
    b1 (match h.w with | some w => w - 256 | none => 0) ++
    b1 ((h.verdict.map Verdict.code).getD 0 + 4 * (h.torque.map TorqueResult.code).getD 0 +
      32 * (h.grade.map Grade.code).getD 7) ++
    b1 (h.cartridgesPlanned.getD 0 + 8 * h.layers.length) ++ b1 (h.cartridgesCounted.getD 0) ++
    bytesLE 2 (h.rMix.getD 0) ++ bytesLE 3 h.revolutions ++ optField 2 h.peak ++
    b1 (h.wornBit.toNat + 2 * h.sensorSuspect.toNat + 4 * h.layerOverflow.toNat + 8 * h.resinShort.toNat +
      16 * h.resinCapped.toNat + 32 * h.cartridgesCounted.isSome.toNat) ++
    b1 (faultCodeOf h.fault)

/-- One layer of a layer part. -/
def layerBytes (l : LayerView) : List Byte :=
  bytesLE 2 (l.bottomMm + 4096 * l.ground.code + 32768 * l.isPartial.toNat) ++ b1 (l.meanH.getD 0) ++ b1 (min 255 l.slices)

/-- Bytes 7 to 24 of a layer part: the first entry's top with the SATURATED bits, and four entries, the unused ones 0. -/
def layerTail (ls : List LayerView) : List Byte :=
  let top := (ls.head?.map LayerView.topMm).getD 0
  let sat := (ls.zipIdx.map fun p => p.1.saturated.toNat * 2 ^ (12 + p.2)).sum
  bytesLE 2 (top + sat) ++ ls.flatMap layerBytes ++ List.replicate (4 * (4 - ls.length)) 0

/-- Layers 4 × part − 3 to 4 × part of a list. -/
def layersOf {α : Type} (ls : List α) (part : Nat) : List α := (ls.drop (4 * (part - 1))).take 4

/-- READ_HOLE part 0. -/
def HoleLog.header (l : HoleLog) (h : HoleRecord) : List Byte := b1 l.pointer ++ bytesLE 2 l.count ++ h.headerTail

/-- READ_HOLE parts 1 to 4. -/
def HoleRecord.layerPart (h : HoleRecord) (part : Nat) : List Byte :=
  let ls := layersOf h.layers part
  bytesLE 2 h.row ++ b1 (h.slotBoom + 32 * ls.length) ++ h.closeBytes ++ layerTail ls

/-- The place that `back` names in a log of `cap` places (R136, R167). -/
def placeBack (cap pointer back : Nat) : Nat := (pointer + 2 * cap - 1 - back) % cap + 1

/-- The record `back` before the newest; absent where the log holds no such record (R136). -/
def HoleLog.record? (l : HoleLog) (back : Nat) : Option HoleRecord :=
  if back < min 32 l.count then (l.places[placeBack 32 l.pointer back - 1]?).join else none

/-- READ_HOLE (R136). -/
def State.readHole (s : State) (back part : Nat) : Option (List Byte) :=
  if 31 < back ∨ 4 < part then none
  else (s.holeLog.record? back).map fun h => if part = 0 then s.holeLog.header h else h.layerPart part

/-! ## READ_LIVE -/

/-- The cartridges counted (R33). -/
def DepthTracker.counted (t : DepthTracker) : Option Nat :=
  t.cartridgeBase.map fun base => (t.latestCartridge.getD 0 + 256 - base) % 256

/-- The stage's own timer, where it runs, with its limit (section 5.6). -/
def Controller.stageTimer (c : Controller) (z : Zone5) : Option (Nat × Nat) :=
  match c.state with
  | .collaring => c.collarTimer.map (·, 3000)
  | .torquing => c.torqueTime.map (·, 8000)
  | .holding => c.holdTimer.map (·, z.holdTime)
  | _ => none

/-- The resin timer that runs, with its limit (section 5.6). At most one of the three runs. -/
def Controller.resinTimer (c : Controller) (z : Zone5) : Option (Nat × Nat) :=
  match c.insertToSpin, c.gelDeadline, c.torqueWindow with
  | some t, _, _ => some (t, z.insertToSpin)
  | none, some t, _ => some (t, z.gelDeadline)
  | none, none, some t => some (t, z.torqueWindow)
  | none, none, none => none

/-- The between-stage timer, with its limit (R93). -/
def Controller.betweenTimer (c : Controller) (z : Zone5) : Option (Nat × Nat) :=
  match c.betweenStage, betweenLimit z.betweenCode with
  | some t, some limit => some (t, limit)
  | _, _ => none

/-- A timer and its limit, a group of three bytes each (log 39). -/
def timerBytes : Option (Nat × Nat) → List Byte := optGroup 6 fun t => bytesLE 3 t.1 ++ bytesLE 3 t.2

/-- What READ_LIVE gives of a boom's controller (R103): the state, the run condition and the suspending set, the grant, the first-run
mark, the value and the limit of each timer that runs, the five torque counts (R88; log 35), and the current hole record (R76). -/
structure ControllerView where
  state : BoomState
  run : Option RunCondition
  suspending : Interlocks
  grant : Nat
  firstRun : Bool
  stageTimer : Option (Nat × Nat)
  resinTimer : Option (Nat × Nat)
  betweenTimer : Option (Nat × Nat)
  peak : Nat
  torqueAcc : Nat
  holdRun : Nat
  reachMark : Bool
  slipRun : Nat
  hole : Option HoleRecord
  deriving DecidableEq, Repr

/-- The controller's part of READ_LIVE, as the state stands (R103). -/
def State.controllerView (s : State) (b : Boom) : ControllerView :=
  let c := (s.boom b).ctl
  let z := s.params.plan
  { state := c.state, run := c.run, suspending := c.suspending, grant := boomGrant s.arbiter.demands b, firstRun := c.firstRun
    stageTimer := c.stageTimer z, resinTimer := c.resinTimer z, betweenTimer := c.betweenTimer z
    peak := c.peak, torqueAcc := c.torqueAcc, holdRun := c.holdRun, reachMark := c.reachMark, slipRun := c.slipRun
    hole := s.liveRecord b }

/-- READ_LIVE part 0: of the controller's part (R103) the fields that its row of section 10.8 lists, in that order, as R173 has it; they
fill the 28 bytes of a payload. Of the stage's own timer the row has the value, of the other two the value and the limit. That timer's
limit and the torque accumulator stand in part 4 (log 34), the hole record in part 5. -/
def State.live0 (s : State) (b : Boom) : List Byte :=
  let v := s.controllerView b
  stanceBytes (v.state, v.run) ++ bytesLE 2 v.suspending.toNat ++ bytesLE 2 v.grant ++ flagByte v.firstRun ++
    optField 2 (v.stageTimer.map Prod.fst) ++ timerBytes v.resinTimer ++ timerBytes v.betweenTimer ++ bytesLE 2 v.peak ++
    b1 v.holdRun ++ flagByte v.reachMark ++ b1 v.slipRun

/-- READ_LIVE part 1. Depths are reported in millimetres (R20; log 22). A last sample that R23 did not test shows as not at the face
(log 40). -/
def State.live1 (s : State) (b : Boom) : List Byte :=
  let t := (s.boom b).tracker
  let x := t.lastSample
  signedLE 2 (s.depthMm b) ++ bytesLE 2 (t.maxDepth / 800) ++ flagByte x.atFace ++ bytesLE 2 x.feed ++
    bytesLE 2 x.rotation ++ bytesLE 2 x.speed ++ b1 (x.collar.toNat + 2 * x.plate.toNat + 4 * x.atStop.toNat) ++
    bytesLE 2 t.z ++ flagByte t.contactSeen ++ optWide 1 t.counted

/-- READ_LIVE part 2: the open slice group. -/
def DepthTracker.live2 (t : DepthTracker) : List Byte :=
  optGroup 21 (fun o =>
    bytesLE 2 (o.start / 800) ++ bytesLE 2 (o.top / 800) ++ bytesLE 4 o.sf ++ bytesLE 8 o.sr ++ bytesLE 2 o.n ++
      bytesLE 2 o.nSpan ++ flagByte o.saturated) t.slice

/-- READ_LIVE part 3: the first half of the plan group. -/
def anchorageFirst : Option Anchorage → List Byte :=
  optGroup 17 fun a =>
    b1 a.evaluations ++ b1 a.reason.code ++ bytesLE 2 a.d ++ bytesLE 2 a.bondTop ++ bytesLE 2 a.lb ++
      bytesLE 2 a.competent ++ bytesLE 2 a.voidLen ++ bytesLE 2 a.softLen ++ bytesLE 2 a.unmeasuredLen ++ b1 a.verdict.code

/-- READ_LIVE part 4: the second half of the plan group, led by a present byte of its own (DESIGN CHOICE, log 33), the counts beside it
(R72), and behind the fields that section 10.8 lists the limit of the stage's own timer, which R103 has READ_LIVE give and for which no
part has a field (DESIGN CHOICE, log 34). -/
def State.live4 (s : State) (b : Boom) : List Byte :=
  let u := s.boom b
  let v := s.controllerView b
  optGroup 15 (fun a =>
      bytesLE 4 a.vNeed ++ bytesLE 2 a.unclamped ++ b1 a.cartridges ++ flagByte a.resinCapped ++ bytesLE 2 a.rMix ++
        bytesLE 3 a.mixTarget ++ bytesLE 2 a.pTq) u.anchorage ++
    bytesLE 4 u.ctl.mix ++ bytesLE 4 v.torqueAcc ++ optWide 1 u.tracker.counted ++ optField 2 (v.stageTimer.map Prod.snd)

/-- READ_LIVE part 5: the current hole record in the hole header layout, length 0 when absent. -/
def State.live5 (s : State) (b : Boom) : List Byte :=
  match (s.controllerView b).hole with
  | some h => [0, 0, 0] ++ h.headerTail
  | none => []

/-- READ_LIVE parts 6 to 9: four layers of the classifier's list. -/
def Classifier.liveLayers (c : Classifier) (part : Nat) : List Byte :=
  let ls := layersOf c.layers (part - 5)
  b1 c.layers.length ++ ls.flatMap (fun l => b1 (min 255 l.measured)) ++ List.replicate (6 - ls.length) 0 ++
    layerTail (ls.map Layer.view)

/-- READ_LIVE part 10: the last slice result. The energies are saturated (R56). Of an UNMEASURED slice the raw class is absent (R38),
and E_f, E_r, SE10, W, SE_c and H are 0: which of them are "the energy fields" is the model's choice (log 32). -/
def Classifier.live10 (c : Classifier) : List Byte :=
  match c.last with
  | none => List.replicate 28 0
  | some r =>
    let m := r.measure.getD { ef := 0, er := 0, se10 := 0, w := 0, sec := 0, h := 0, raw := .unmeasured }
    let raw := r.measure.map fun m => m.raw.code
    bytesLE 2 (r.top / 800) ++ bytesLE 2 (r.bottom / 800) ++ b1 ((r.bottom - r.top) / 800) ++ bytesLE 2 r.n ++
      bytesLE 2 r.nSpan ++ b1 (r.isPartial.toNat + 2 * r.saturated.toNat + 4) ++ bytesLE 4 (min 4294967295 m.ef) ++
      bytesLE 4 (min 4294967295 m.er) ++ bytesLE 2 m.se10 ++ bytesLE 2 m.w ++ bytesLE 2 m.sec ++ b1 m.h ++ optField 1 raw ++
      b1 r.given.code ++ b1 r.placement.code

/-- READ_LIVE (R175): a part of 0 to 10 of a boom. -/
def State.readLive (s : State) (b : Boom) : Nat → Option (List Byte)
  | 0 => some (s.live0 b)
  | 1 => some (s.live1 b)
  | 2 => some (s.boom b).tracker.live2
  | 3 => some (anchorageFirst (s.boom b).anchorage)
  | 4 => some (s.live4 b)
  | 5 => some (s.live5 b)
  | 6 => some ((s.boom b).classifier.liveLayers 6)
  | 7 => some ((s.boom b).classifier.liveLayers 7)
  | 8 => some ((s.boom b).classifier.liveLayers 8)
  | 9 => some ((s.boom b).classifier.liveLayers 9)
  | 10 => some (s.boom b).classifier.live10
  | _ => none

/-! ## READ_ROW -/

/-- One slot. -/
def slotBytes (sl : Slot) : List Byte :=
  b1 sl.number ++ b1 sl.position ++ bytesLE 2 sl.depth ++ optField 1 sl.parent ++ b1 sl.state.code ++
    (match sl.state with
      | .claimed b => b1 (boomCode b) ++ [0xFF]
      | .bolted g => [0xFF] ++ b1 g.code
      | _ => [0xFF, 0xFF])

/-- READ_ROW part 0. -/
def RowMap.part0 (m : RowMap) : List Byte :=
  bytesLE 2 m.rowNumber ++ flagByte m.tramPermitted ++ flagByte (!m.supportSet) ++ flagByte m.overflow ++ flagByte m.ready ++
    b1 m.planned.length ++ b1 m.supplementary.length ++ flagByte m.pendingPlan.isSome ++
    b1 ((m.pendingPlan.map List.length).getD 0)

/-- READ_ROW parts 1 to 4: slots 3 × part − 2 to 3 × part, as many as exist. The slots counted are those of the row, planned then
supplementary: number 8 comes behind the last planned slot (DESIGN CHOICE, log 36). -/
def RowMap.slotPart (m : RowMap) (part : Nat) : List Byte := ((m.slots.drop (3 * (part - 1))).take 3).flatMap slotBytes

/-- READ_ROW part 5: the pending plan. -/
def RowMap.part5 (m : RowMap) : List Byte :=
  match m.pendingPlan with
  | some plan => b1 plan.length ++ plan.flatMap fun p => b1 p.position ++ bytesLE 2 p.depth
  | none => b1 0

/-- READ_ROW (R133, R175): a part of 0 to 5. -/
def RowMap.readRow (m : RowMap) : Nat → Option (List Byte)
  | 0 => some m.part0
  | 1 => some (m.slotPart 1)
  | 2 => some (m.slotPart 2)
  | 3 => some (m.slotPart 3)
  | 4 => some (m.slotPart 4)
  | 5 => some m.part5
  | _ => none

/-! ## READ_FAULT -/

/-- The pair of a boom in a fault record, a group that is absent where the record does not show it (log 39). -/
def stanceField : Option (BoomState × Option RunCondition) → List Byte := optGroup 2 stanceBytes

/-- Time, source and code, which every part carries (R167). -/
def FaultRecord.mark (r : FaultRecord) : List Byte := bytesLE 4 r.time.toNat ++ b1 r.source.code ++ b1 r.code.code

/-- READ_FAULT part 0. -/
def FaultLog.part0 (l : FaultLog) (r : FaultRecord) : List Byte :=
  b1 l.pointer ++ bytesLE 2 l.count ++ r.mark ++ optField 2 r.detail ++ stanceField r.left ++ stanceField r.right ++
    optSigned r.depth ++ bytesLE 2 r.interlocks.toNat ++ b1 r.recent.length

/-- One recent-request entry. -/
def entryBytes (e : RecentEntry) : List Byte := [e.kind] ++ e.payload ++ b1 e.code.toNat ++ bytesLE 4 e.time.toNat

/-- READ_FAULT parts 1 and 2. -/
def FaultRecord.entryPart (r : FaultRecord) (part : Nat) : List Byte :=
  r.mark ++ ((r.recent.drop (2 * (part - 1))).take 2).flatMap entryBytes

/-- The record `back` before the newest; absent where the log holds no such record (R167). -/
def FaultLog.record? (l : FaultLog) (back : Nat) : Option FaultRecord :=
  if back < min 8 l.count then (l.places[placeBack 8 l.pointer back - 1]?).join else none

/-- READ_FAULT (R167). -/
def State.readFault (s : State) (back part : Nat) : Option (List Byte) :=
  if 7 < back ∨ 2 < part then none
  else (s.faultLog.record? back).map fun r => if part = 0 then s.faultLog.part0 r else r.entryPart part

/-! ## READ_ATTRIBUTES -/

/-- The five attributes in table order. -/
def WearTable.attrs (t : WearTable) : List Attr := [t.bitWear, t.feedZero, t.linkQuality, t.torqueSlip, t.mixShort]

/-- READ_ATTRIBUTES part 0. The last three attributes are ADVISORY (section 9.1). -/
def WearTable.part0 (t : WearTable) : List Byte :=
  bytesLE 2 t.bitWear.raw ++ bytesLE 2 t.feedZero.raw ++ bytesLE 2 t.linkQuality.raw ++ b1 t.torqueSlip.raw ++
    b1 t.mixShort.raw ++ t.attrs.flatMap (fun a => b1 a.norm) ++ t.attrs.flatMap (fun a => b1 a.worst) ++
    t.attrs.flatMap (fun a => b1 a.threshold) ++
    b1 ((t.attrs.zipIdx.map fun p => p.1.crossed.toNat * 2 ^ p.2).sum) ++ b1 28 ++ bytesLE 3 t.cmDrilled

/-- READ_ATTRIBUTES part 1. -/
def WearTable.part1 (t : WearTable) : List Byte :=
  b1 t.outcomes.length ++ t.outcomes.flatMap fun o => b1 (o.grade.code + 8 * faultCodeOf o.fault)

/-- READ_ATTRIBUTES (R164): a part of 0 or 1. -/
def WearTable.readAttributes (t : WearTable) : Nat → Option (List Byte)
  | 0 => some t.part0
  | 1 => some t.part1
  | _ => none

/-! ## READ_MONITOR -/

/-- The channel being converted, absent otherwise. -/
def RoundState.channel : RoundState → Option Nat
  | .converting k => some k
  | _ => none

/-- READ_MONITOR part 0. -/
def State.monitor0 (s : State) : List Byte :=
  let m := s.monitor
  b1 m.round.code ++ optField 1 m.round.channel ++ b1 m.warmup ++ optField 2 m.refLast ++ bytesLE 2 m.refExp ++ b1 m.refTol ++
    b1 m.passRun ++ b1 m.failRun ++ bytesLE 2 m.sleep ++ bytesLE 2 s.interlocks.toNat ++ flagByte (!s.rowMap.supportSet) ++
    b1 ((m.breach 3 == .lo).toNat + 2 * (!s.rowMap.supportSet).toNat)

/-- One channel, the debounce's pending state and count as a group (log 39). The enable byte is 1 for enabled (DESIGN CHOICE, log 37). -/
def channelBytes (c : Channel) : List Byte :=
  flagByte c.limits.enabled ++ bytesLE 2 c.limits.hi ++ bytesLE 2 c.limits.lo ++ b1 c.limits.hyst ++ optField 2 c.last ++
    b1 c.breach.code ++ optGroup 2 (fun d => b1 d.code ++ b1 1) c.debounce

/-- READ_MONITOR parts 1 to 3: channels 2 × part − 2 and 2 × part − 1. -/
def Monitor.channelPart (m : Monitor) (part : Nat) : List Byte := ((m.channels.drop (2 * (part - 1))).take 2).flatMap channelBytes

/-- READ_MONITOR (R153, R175): a part of 0 to 3. -/
def State.readMonitor (s : State) : Nat → Option (List Byte)
  | 0 => some s.monitor0
  | 1 => some (s.monitor.channelPart 1)
  | 2 => some (s.monitor.channelPart 2)
  | 3 => some (s.monitor.channelPart 3)
  | _ => none

/-! ## READ_LINK -/

/-- READ_LINK part 0. -/
def HeadLink.part0 (l : HeadLink) : List Byte :=
  b1 l.state.code ++ b1 l.receiver.code ++ b1 l.fifo.length ++ flagByte l.holdOff ++ flagByte l.stopLatch ++ [l.pollSeq] ++
    b1 l.answeredRun ++ b1 l.missedRun ++ b1 l.headFault ++ bytesLE 2 l.blockPolls ++ bytesLE 2 l.blockErrors ++
    bytesLE 2 l.lastBlockErrors

/-- READ_LINK part 1: the eight counters. -/
def HeadLink.part1 (l : HeadLink) : List Byte :=
  [l.stats.good, l.stats.checkErrors, l.stats.residue, l.stats.long, l.stats.abort, l.stats.mismatch, l.stats.overrun,
    l.stats.glitch].flatMap (bytesLE 2)

/-- READ_LINK (R15, R175): a part of 0 or 1. -/
def HeadLink.readLink (l : HeadLink) : Nat → Option (List Byte)
  | 0 => some l.part0
  | 1 => some l.part1
  | _ => none

/-! ## The reads (R175) -/

/-- DATA with a part, or RANGE where the part, the boom or the record named does not exist. -/
def answerPart (s : State) : Option (List Byte) → Answer
  | some bytes => answerData s bytes
  | none => answer s .range

/-- A read that names a boom as its first operand and a part as its second. -/
def State.readOfBoom (s : State) (ops : List Byte) (read : Boom → Nat → Option (List Byte)) : Answer :=
  answerPart s ((boomOperand (operand ops 0)).bind fun b => read b (operand ops 1))

/-- READ_STATUS (R117, R175). -/
def execReadStatus (p : Port) (s : State) : Host.Outcome State Fault Refusal :=
  .next (s.serve p .readStatus fun ops s => answerPart s (s.readStatus p (operand ops 0)))

/-- READ_LIVE (R175): on a boom port that boom, on the machine port the boom named. -/
def execReadLive (p : Port) (s : State) : Host.Outcome State Fault Refusal :=
  .next (s.serve p .readLive fun ops s =>
    match p with
    | .left => answerPart s (s.readLive .left (operand ops 0))
    | .right => answerPart s (s.readLive .right (operand ops 0))
    | .machine => s.readOfBoom ops s.readLive)

/-- READ_HOLE (R136). -/
def execReadHole (p : Port) (s : State) : Host.Outcome State Fault Refusal :=
  .next (s.serve p .readHole fun ops s => answerPart s (s.readHole (operand ops 0) (operand ops 1)))

/-- READ_ROW (R133). -/
def execReadRow (p : Port) (s : State) : Host.Outcome State Fault Refusal :=
  .next (s.serve p .readRow fun ops s => answerPart s (s.rowMap.readRow (operand ops 0)))

/-- READ_FAULT (R167). -/
def execReadFault (p : Port) (s : State) : Host.Outcome State Fault Refusal :=
  .next (s.serve p .readFault fun ops s => answerPart s (s.readFault (operand ops 0) (operand ops 1)))

/-- READ_ATTRIBUTES (R164). -/
def execReadAttributes (p : Port) (s : State) : Host.Outcome State Fault Refusal :=
  .next (s.serve p .readAttributes fun ops s => s.readOfBoom ops fun b => (s.boom b).wear.readAttributes)

/-- READ_MONITOR (R153). -/
def execReadMonitor (p : Port) (s : State) : Host.Outcome State Fault Refusal :=
  .next (s.serve p .readMonitor fun ops s => answerPart s (s.readMonitor (operand ops 0)))

/-- READ_LINK (R15). -/
def execReadLink (p : Port) (s : State) : Host.Outcome State Fault Refusal :=
  .next (s.serve p .readLink fun ops s => s.readOfBoom ops fun b => (s.boom b).link.readLink)

end Sys2Proof.Machine
end

