-- ==== Sys2Proof/Machine/BoomRequests.lean ====
section
/-! DEFINITION. The requests of the boom ports (chapter 5, and R123, R124 for the claim). -/
namespace Sys2Proof.Machine

/-! ## The claim (R78, R123, R124) -/

/-- A request that could put a boom or a machine demand on the pump ends a running front-end check with result 1 and is refused with
INTERLOCK and an empty set (R192). -/
def State.refuseForCheck (s : State) : Answer := answerInterlock (s.stopCheck 1 none) Interlocks.empty

/-- The other boom. -/
def otherBoom : Boom → Boom
  | .left => .right
  | .right => .left

/-- Distance of two positions across the row. -/
def apart (p q : Nat) : Nat := (p - q) + (q - p)

/-- The other boom claims a slot closer than the separation (R123, test 6). -/
def State.tooClose (s : State) (b : Boom) (sl : Slot) : Bool :=
  (s.rowMap.claimOf (otherBoom b)).any fun o => decide (apart o.position sl.position < s.params.plan.separation)

/-- The tracker of a new hole (R21). -/
def DepthTracker.newHole (t : DepthTracker) : DepthTracker :=
  { t with
    depth := 0, maxDepth := 0, contactSeen := false, window := [], slice := none, handedBottom := none, stallCount := 0
    blockRun := 0, cartridgeBase := none }

/-- The claim admitted, with all that starts with it (R78, R124). -/
def State.grantClaim (s : State) (b : Boom) (sl : Slot) : State :=
  let m := s.rowMap.mapSlots fun x => if x.number = sl.number then { x with state := .claimed b } else x
  { s with rowMap := m }.modBoom b fun u =>
    { u with
      tracker := u.tracker.newHole
      classifier := { u.classifier with layers := [], last := none }
      anchorage := none
      ctl :=
        { u.ctl.enterWait s.params.plan .holeOpen with
          mix := 0, hole := some (HoleRecord.start s.rowMap.rowNumber sl.number b sl.depth) } }

/-- A LOAD_ZONE is in progress (R123, test 3). -/
def MemOp.isLoad : MemOp → Bool
  | .load _ => true
  | _ => false

/-- The tests of a claim on a slot that exists (R123, tests 3 to 7). -/
def State.claim (s : State) (b : Boom) (sl : Slot) : Answer :=
  let blocking := s.interlocks.inter claimBlockers
  if s.mem.op.isLoad then answer s .busy
  else if s.mem.zones[calibZone b]? = some .defaulted then answer s .config
  else match sl.state with
    | .claimed _ => answer s .slotTaken
    | .bolted _ => answer s .slotResolved
    | .waived => answer s .slotResolved
    | .isOpen =>
      if s.tooClose b sl then answer s .separation
      else if blocking ≠ Interlocks.empty then answerInterlock s blocking
      else answer (s.grantClaim b sl) .accepted

/-- BEGIN_HOLE at the controller and the row map (R78, R123). -/
def State.beginHole (s : State) (b : Boom) (n : Nat) : Answer :=
  if (s.boom b).ctl.state ≠ .idle then answer s .wrongState
  else if s.check.running then s.refuseForCheck
  else match s.rowMap.slot n with
    | none => answer s .range
    | some sl => s.claim b sl

/-! ## The stage requests (R77 to R82, R100) -/

/-- The demand of a stage (R107). -/
def BoomState.demandKind : BoomState → DemandKind
  | .drilling => .drill
  | .retracting => .retract
  | .inserting => .insert
  | .spinning => .spin
  | .holding => .hold
  | .torquing => .torque
  | _ => .collar

/-- The link is UP and the head fault code is 0 (R13, R77). -/
def HeadLink.fit (l : HeadLink) : Bool := l.state == .up && l.headFault == 0

/-- The tests of a stage request that leads to, or resumes, a stage: the state, the link and head, the plan, the interlocks (R77).
A request that passes them is taken. -/
def State.stageRequest (s : State) (b : Boom) (inState planOk : Bool) (stage : BoomState) (take : State → State) : Answer :=
  let blocking := s.interlocks.inter (blockers stage)
  if !inState then answer s .wrongState
  else if !(s.boom b).link.fit then answer s .wrongState
  else if !planOk then answer s .wrongState
  else if blocking ≠ Interlocks.empty then answerInterlock s blocking
  else answer (take s) .accepted

/-- A boom enters a stage and its demand arrives (R79 to R82). -/
def State.startStage (s : State) (b : Boom) (st : BoomState) : State :=
  (s.modCtl b fun c => c.enterStage st).arrive b.port st.demandKind

/-- z from the feed window (R25). -/
def DepthTracker.captured (t : DepthTracker) : Nat := if t.window.length = 25 then min 500 (t.window.sum / 25) else t.z

/-- The capture of z, handed to FEED_ZERO when it gives another value (R25, R158). -/
def State.captureZ (s : State) (b : Boom) : State :=
  let t := (s.boom b).tracker
  let s1 := s.modTracker b fun t => { t with z := t.captured }
  if t.captured = t.z then s1 else s1.modWear b fun w => w.takeZ t.captured

/-- The hole record at a COLLAR: z, W and the two wear flags, which once set stay set (R76, R161). -/
def State.recordCollar (s : State) (b : Boom) : State :=
  let u := s.boom b
  s.modHole b fun h =>
    { h with
      z := some u.tracker.z, w := some u.wear.w
      wornBit := h.wornBit || u.wear.bitWear.crossed
      sensorSuspect := h.sensorSuspect || u.wear.feedZero.crossed }

/-- COLLAR taken (R79). -/
def State.takeCollar (s : State) (b : Boom) : State :=
  (((s.captureZ b).recordCollar b).modCtl b fun c => { c with collarTimer := some 0 }).startStage b .collaring

/-- DRILL taken (R80): a fresh slice at maximum depth (R26) and a stall run of 0. -/
def State.takeDrill (s : State) (b : Boom) : State :=
  (s.modTracker b fun t =>
    { t with slice := some (OpenSlice.fresh t.maxDepth (t.handedBottom.getD 0)), stallCount := 0 }).startStage b .drilling

/-- RETRACT taken (R81). -/
def State.takeRetract (s : State) (b : Boom) : State := s.startStage b .retracting

/-- INSERT taken (R81): the block run returns to 0 and the cartridges counted are read into the hole record. -/
def State.takeInsert (s : State) (b : Boom) : State :=
  let u := s.boom b
  let counted := u.tracker.counted
  let planned := (u.anchorage.map Anchorage.cartridges).getD 0
  ((s.modTracker b fun t => { t with blockRun := 0 }).modHole b fun h =>
    { h with cartridgesCounted := counted, resinShort := h.resinShort || decide (counted.getD 0 < planned) }).startStage b .inserting

/-- SPIN taken (R82). -/
def State.takeSpin (s : State) (b : Boom) : State := (s.modCtl b fun c => { c with mix := 0 }).startStage b .spinning

/-- TORQUE taken (R82, R89): the five torque counts start again, and the hole record's peak is 0 (R76). -/
def State.takeTorque (s : State) (b : Boom) : State :=
  (s.modCtl b fun c =>
    { c with
      peak := 0, torqueAcc := 0, holdRun := 0, slipRun := 0, reachMark := false, torqueTime := some 0
      hole := c.hole.map fun h => { h with peak := some 0 } }).startStage b .torquing

/-- RESUME taken (R100): nothing of the stage is reset. -/
def State.takeResume (s : State) (b : Boom) : State :=
  (s.modCtl b fun c => { c with run := some .waitFlow, suspending := Interlocks.empty }).arrive b.port
    (s.boom b).ctl.state.demandKind

/-- A state of the boom. -/
def State.inState (s : State) (b : Boom) (st : BoomState) : Bool := (s.boom b).ctl.state == st

/-! ## The commands -/

/-- BEGIN_HOLE (R78, R123, R124). -/
def execBeginHole (b : Boom) (s : State) : Host.Outcome State Fault Refusal :=
  .next (s.serve b.port .beginHole fun ops s => s.beginHole b (operand ops 0))

/-- COLLAR (R79). -/
def execCollar (b : Boom) (s : State) : Host.Outcome State Fault Refusal :=
  .next (s.serve b.port .collar fun _ s =>
    s.stageRequest b (s.inState b .holeOpen) true .collaring fun s => s.takeCollar b)

/-- DRILL (R80). -/
def execDrill (b : Boom) (s : State) : Host.Outcome State Fault Refusal :=
  .next (s.serve b.port .drill fun _ s =>
    s.stageRequest b (s.inState b .collared || s.inState b .drilled) true .drilling fun s => s.takeDrill b)

/-- RETRACT (R81). -/
def execRetract (b : Boom) (s : State) : Host.Outcome State Fault Refusal :=
  .next (s.serve b.port .retract fun _ s =>
    s.stageRequest b (s.inState b .collared || s.inState b .drilled) true .retracting fun s => s.takeRetract b)

/-- INSERT (R70, R81). -/
def execInsert (b : Boom) (s : State) : Host.Outcome State Fault Refusal :=
  .next (s.serve b.port .insert fun _ s =>
    s.stageRequest b (s.inState b .retracted) (s.boom b).anchorage.isSome .inserting fun s => s.takeInsert b)

/-- SPIN (R82). -/
def execSpin (b : Boom) (s : State) : Host.Outcome State Fault Refusal :=
  .next (s.serve b.port .spin fun _ s => s.stageRequest b (s.inState b .inserted) true .spinning fun s => s.takeSpin b)

/-- TORQUE (R82). -/
def execTorque (b : Boom) (s : State) : Host.Outcome State Fault Refusal :=
  .next (s.serve b.port .torque fun _ s => s.stageRequest b (s.inState b .set) true .torquing fun s => s.takeTorque b)

/-- STOP at the controller (R94). -/
def State.stopStage (s : State) (b : Boom) : Answer :=
  if s.inState b .collaring || s.inState b .drilling || s.inState b .retracting then
    answer (s.endStage b .stop none (s.stance b)) .accepted
  else answer s .wrongState

/-- STOP (R94). -/
def execStop (b : Boom) (s : State) : Host.Outcome State Fault Refusal :=
  .next (s.serve b.port .stop fun _ s => s.stopStage b)

/-- ABANDON at the controller (R95). -/
def State.abandon (s : State) (b : Boom) : Answer :=
  let st := (s.boom b).ctl.state
  if st = .idle then answer s .wrongState
  else if st.isStage then answer (s.endStage b .abandon none (s.stance b)) .accepted
  else answer (s.closeHole b .givenUp st none) .accepted

/-- ABANDON (R95). -/
def execAbandon (b : Boom) (s : State) : Host.Outcome State Fault Refusal :=
  .next (s.serve b.port .abandon fun _ s => s.abandon b)

/-- RESUME (R77, R100). -/
def execResume (b : Boom) (s : State) : Host.Outcome State Fault Refusal :=
  .next (s.serve b.port .resume fun _ s =>
    let c := (s.boom b).ctl
    s.stageRequest b (c.state.isStage && c.run == some .suspended) true c.state fun s => s.takeResume b)

/-- BIT_CHANGED at the controller and the wear table (R103, R157). -/
def State.bitChanged (s : State) (b : Boom) : Answer :=
  if s.inState b .idle then answer (s.modWear b WearTable.newBit).askSave .accepted else answer s .wrongState

/-- BIT_CHANGED (R157). -/
def execBitChanged (b : Boom) (s : State) : Host.Outcome State Fault Refusal :=
  .next (s.serve b.port .bitChanged fun _ s => s.bitChanged b)

end Sys2Proof.Machine
end

