-- ==== Sys2Proof/Machine/Rounds.lean ====
section
/-! DEFINITION. The machine monitor's rounds (sections 8.2, 8.3): the judgement of a code, the debounce, the reference, the warm-up,
and the commands that they give. -/
namespace Sys2Proof.Machine

/-! ## Channels 0 to 5 (R141) -/

/-- The clear window: inside the limits pulled in by h, a limit of 1,023 or 0 not pulling. -/
def ChannelLimits.clearWindow (l : ChannelLimits) (code : Nat) : Bool :=
  (decide (code + l.hyst ≤ l.hi) || l.hi == 1023) && (decide (l.lo + l.hyst ≤ code) || l.lo == 0)

/-- The target of a code from the channel's breach state. -/
def Channel.target (c : Channel) (code : Nat) : Option Breach :=
  match c.breach with
  | .inside => if c.limits.hi < code then some .hi else if code < c.limits.lo then some .lo else none
  | .hi => if code < c.limits.lo then some .lo else if c.limits.clearWindow code then some .inside else none
  | .lo => if c.limits.hi < code then some .hi else if c.limits.clearWindow code then some .inside else none

/-- A target applied to the debounce. -/
def Channel.debounced (c : Channel) : Option Breach → Channel
  | none => { c with debounce := none }
  | some t => if c.debounce = some t then { c with breach := t, debounce := none } else { c with debounce := some t }

/-- The end of a channel's conversion: the code becomes its last code and, while the channel is enabled, is judged (R140, step 2; R141). -/
def Channel.convert (c : Channel) (code : Nat) : Channel :=
  let d := { c with last := some code }
  if c.limits.enabled then d.debounced (d.target code) else d

/-- The monitor after the end of the conversion of a channel among 0 to 5: the next enabled channel's conversion begins (R140). -/
def Monitor.convertChannel (m : Monitor) (k code : Nat) : Monitor :=
  let channels := m.channels.modify k fun c => c.convert code
  { m with channels, round := .converting (m.channelFrom (k + 1)), roundTimer := 0 }

/-! ## Channel 6 (R143, R144) -/

/-- The code lies within REF_EXP − REF_TOL to REF_EXP + REF_TOL. -/
def Monitor.refPasses (m : Monitor) (code : Nat) : Bool :=
  decide (m.refExp ≤ code + m.refTol) && decide (code ≤ m.refExp + m.refTol)

/-- The two runs after a code, and MONITOR_FAULT as they set and clear it (R143). -/
def Monitor.judgeReference (m : Monitor) (code : Nat) : Monitor :=
  if m.refPasses code then
    let run := satInc 4 m.passRun
    { m with refLast := some code, passRun := run, failRun := 0, fault := m.fault && !decide (4 ≤ run) }
  else
    let run := satInc 2 m.failRun
    { m with refLast := some code, failRun := run, passRun := 0, fault := m.fault || decide (2 ≤ run) }

/-- A complete round counted toward the warm-up (R144). -/
def Monitor.countRound (m : Monitor) : Monitor :=
  if m.warming then { m with warmup := satInc 2 m.warmup, warming := !decide (2 ≤ satInc 2 m.warmup) } else m

/-- The sleep after a complete round (R140, step 3); it will end at the round sleep as it now stands (R145). -/
def Monitor.goToSleep (m : Monitor) : Monitor := { m with round := .sleeping, roundTimer := 0, sleepLimit := m.sleep }

/-- The end of a channel 6 conversion: the reference judged and its change announced, then the round counted and its change
announced (R143, R144, R149). The record of an onset carries both booms as they stood when the fault arose (R165). -/
def State.convertReference (s : State) (code : Nat) : State :=
  let old := s.interlocks
  let s1 := s.modMonitor fun m => m.judgeReference code
  let s2 := if s1.monitor.fault && !s.monitor.fault then s1.logPartFault .device .monitorFault (some code) else s1
  let s3 := s2.announce old
  let old3 := s3.interlocks
  (s3.modMonitor fun m => m.countRound.goToSleep).announce old3

/-- The end of a channel's conversion, with the change of the set announced (R140, R142, R149). -/
def State.convertChannel (s : State) (k code : Nat) : State :=
  let old := s.interlocks
  (s.modMonitor fun m => m.convertChannel k code).announce old

/-! ## The commands -/

/-- The number of the channel whose conversion has run its 1 ms (R140). -/
def Monitor.conversionDue (m : Monitor) : Option Nat :=
  match m.round with
  | .converting k => if 1 ≤ m.roundTimer then some k else none
  | _ => none

/-- A conversion end, where one is due (R140). -/
def State.convert (s : State) (code : Nat) : State :=
  match s.monitor.conversionDue with
  | some k => if k < 6 then s.convertChannel k code else s.convertReference code
  | none => s

/-- CONVERSION_END (R140). -/
def execConversionEnd (code : Code) (s : State) : Host.Outcome State Fault Refusal := .next (s.convert code.toNat)

/-- A sleep that has run to its end (R140, step 4). -/
def Monitor.roundDue (m : Monitor) : Bool := m.round == .sleeping && decide (m.sleepLimit ≤ m.roundTimer)

/-- ROUND_START (R140). -/
def execRoundStart (s : State) : Host.Outcome State Fault Refusal :=
  if s.monitor.roundDue then .next (s.modMonitor Monitor.startRound) else .next s

/-- The conversion end due changes the breach state of its channel (R141). -/
def Monitor.breachDue (m : Monitor) (code : Nat) : Bool :=
  match m.conversionDue with
  | some k => decide (k < 6) && (m.convertChannel k code).breach k != m.breach k
  | none => false

/-- BREACH_CHANGE (R141): the conversion end at which a target is confirmed. -/
def execBreachChange (code : Code) (s : State) : Host.Outcome State Fault Refusal :=
  if s.monitor.breachDue code.toNat then .next (s.convert code.toNat) else .next s

/-- The conversion end due is channel 6's. -/
def Monitor.referenceDue (m : Monitor) : Bool := m.conversionDue.any fun k => decide (6 ≤ k)

/-- MONITOR_FAULT (R143): the channel 6 conversion end that brings the fail run to 2. -/
def execMonitorFault (code : Code) (s : State) : Host.Outcome State Fault Refusal :=
  if s.monitor.referenceDue && !s.monitor.fault && (s.monitor.judgeReference code.toNat).fault then
    .next (s.convert code.toNat)
  else .next s

/-- MONITOR_FAULT_CLEAR (R143): the channel 6 conversion end that brings the pass run to 4. -/
def execMonitorFaultClear (code : Code) (s : State) : Host.Outcome State Fault Refusal :=
  if s.monitor.referenceDue && s.monitor.fault && !(s.monitor.judgeReference code.toNat).fault then
    .next (s.convert code.toNat)
  else .next s

/-- WARMUP_END (R144): the channel 6 conversion end that brings the warm-up count to 2. -/
def execWarmupEnd (code : Code) (s : State) : Host.Outcome State Fault Refusal :=
  if s.monitor.referenceDue && s.monitor.warming && !s.monitor.countRound.warming then .next (s.convert code.toNat)
  else .next s

end Sys2Proof.Machine
end

