-- ==== Sys2Proof/Machine/MemoryRequests.lean ====
section
/-! DEFINITION. The configuration memory controller's operations (section 11.3), and what each block takes from a zone that becomes live
(R184, R188). -/
namespace Sys2Proof.Machine

/-! ## A zone's values become live -/

/-- Zone 1: the classifier constants, and every attribute and W of both booms evaluated again (R36, R155, R156). -/
def State.takeZone1 (s : State) (z : Zone1) : State :=
  ({ s with params := { s.params with classifier := z.consts } }.modWear .left fun t =>
    t.retune z.thresholds z.consts.wearRate).modWear .right fun t => t.retune z.thresholds z.consts.wearRate

/-- Zone 2 or 3: the boom's calibration, and Cr computed from its Kt (R36). -/
def State.takeCalib (s : State) (b : Boom) (c : Calib) : State :=
  (match b with
    | .left => { s with params := { s.params with calibLeft := c } }
    | .right => { s with params := { s.params with calibRight := c } }).modBoom b
      fun u => { u with classifier := { u.classifier with cr := crOf c.kt } }

/-- A channel's record as it takes new fields: a disabled channel stands INSIDE with an empty debounce (R139, R145). -/
def Channel.take (c : Channel) (l : ChannelLimits) : Channel :=
  if l.enabled then { c with limits := l } else { c with limits := l, breach := .inside, debounce := none }

/-- Zone 4: the monitor's fields; the sleep in progress keeps its old end (R145). -/
def Monitor.takeZone4 (m : Monitor) (z : Zone4) : Monitor :=
  { m with channels := m.channels.zipWith Channel.take z.channels, refExp := z.refExp, refTol := z.refTol, sleep := z.sleep }

/-- Zone 5: the plan and flow table (R58, R104). -/
def State.takeZone5 (s : State) (z : Zone5) : State := { s with params := { s.params with plan := z } }

/-- A good zone's values, clamped and made consistent, become the live values (R184, R188). Zone 6 gives none here (R163, R188). -/
def State.takeZone (s : State) (z : Nat) : State :=
  let img := s.mem.image
  match z with
  | 0 => { s with params := { s.params with machineNumber := field img 0 0 2 } }
  | 1 => s.takeZone1 (Zone1.stored img).settled
  | 2 => s.takeCalib .left (Calib.stored img 2).settled
  | 3 => s.takeCalib .right (Calib.stored img 3).settled
  | 4 => s.modMonitor fun m => m.takeZone4 (Zone4.stored img).settled
  | 5 => s.takeZone5 (Zone5.stored img).settled
  | _ => s

/-- A zone's state set. -/
def State.markZone (s : State) (z : Nat) (st : ZoneState) : State := s.modMem fun m => { m with zones := m.zones.set z st }

/-- GOOD, or CLAMPED where the zone needed a change (R184). -/
def judgedState (clamped : Bool) : ZoneState := if clamped then .clamped else .good

/-! ## WRITE_ZONE (R187) -/

/-- Two addresses lie in one page of 16 bytes. -/
def samePage (a b : Nat) : Bool := a / 16 == b / 16

/-- A run of cells split at the page boundaries, in rising order. -/
def splitPages : List Host.Cell → List (List Host.Cell)
  | [] => []
  | c :: cs =>
    match splitPages cs with
    | (d :: ds) :: ps => if samePage c.1 d.1 then (c :: d :: ds) :: ps else [c] :: (d :: ds) :: ps
    | ps => [c] :: ps

/-- The pages that a WRITE_ZONE writes. -/
def writePages (z offset : Nat) (data : List Byte) : List (List Host.Cell) :=
  splitPages (data.zipIdx.map fun p => (zoneBase z + offset + p.2, p.1))

/-- WRITE_ZONE at the controller (R187). -/
def State.writeZone (s : State) (z offset : Nat) (data : List Byte) : Answer :=
  if 5 < z ∨ zoneSize z < offset + data.length then answer s .range
  else if s.mem.op ≠ .none then answer s .busy
  else answer (s.modMem fun m => { m with op := .write (writePages z offset data), opTimer := 0 }) .accepted

/-- WRITE_ZONE (R187). -/
def execWriteZone (s : State) : Host.Outcome State Fault Refusal :=
  .next (s.serve .machine .writeZone fun ops s => s.writeZone (operand ops 0) (operand ops 1) (ops.drop 2))

/-! ## LOAD_ZONE (R188) and SAVE_WEAR (R162) -/

/-- Both booms are IDLE. -/
def State.bothIdle (s : State) : Bool := s.left.ctl.state == .idle && s.right.ctl.state == .idle

/-- LOAD_ZONE at the controller (R188). -/
def State.loadZone (s : State) (z : Nat) : Answer :=
  if 6 < z then answer s .range
  else if 1 ≤ z ∧ z ≤ 5 ∧ s.bothIdle = false then answer s .wrongState
  else if s.mem.op ≠ .none then answer s .busy
  else if !zoneSumOk s.mem.image z then answer (s.logPartFault .device .configZoneBad (some z)) .checksumBad
  else answer (s.modMem fun m => { m with op := .load z, opTimer := 0 })
    (if zoneNeedsClamp s.mem.image z then .acceptedClamped else .accepted)

/-- LOAD_ZONE (R188). -/
def execLoadZone (s : State) : Host.Outcome State Fault Refusal :=
  .next (s.serve .machine .loadZone fun ops s => s.loadZone (operand ops 0))

/-- SAVE_WEAR (R162, R189). -/
def execSaveWear (s : State) : Host.Outcome State Fault Refusal :=
  .next (s.serve .machine .saveWear fun _ s => answer s.askSave .accepted)

/-! ## Completions -/

/-- A page's bytes stand in the memory and enter the zone image (R187, R189). -/
def MemoryController.completePage (m : MemoryController) (page : List Host.Cell) : MemoryController :=
  { m with memory := Memory.writeAll m.memory page, image := Memory.writeAll m.image page }

/-- The page write in progress of a WRITE_ZONE has run its 5 ms. -/
def MemoryController.pageDue (m : MemoryController) : Bool :=
  match m.op with
  | .write _ => decide (5 ≤ m.opTimer)
  | _ => false

/-- PAGE_WRITE_COMPLETE (R187): the next page begins, or the operation completes. -/
def execPageWriteComplete (s : State) : Host.Outcome State Fault Refusal :=
  if s.mem.pageDue then
    match s.mem.op with
    | .write (page :: next :: rest) =>
      .next (s.modMem fun m => { m.completePage page with op := .write (next :: rest), opTimer := 0 })
    | .write [page] => .next (s.modMem fun m => m.completePage page).finishOperation
    | _ => .next s.finishOperation
  else .next s

/-- The load in flight has run its 2 ms. -/
def MemoryController.loadDue (m : MemoryController) : Bool :=
  match m.op with
  | .load _ => decide (2 ≤ m.opTimer)
  | _ => false

/-- A zone's values made live between resets: the change of the interlock set announced, Q_avail worked out afresh (R104, R145, R149). -/
def State.applyLoad (s : State) (z : Nat) : State :=
  let old := s.interlocks
  ((s.takeZone z).announce old).refreshFlow

/-- LOAD_COMPLETE (R188). -/
def execLoadComplete (s : State) : Host.Outcome State Fault Refusal :=
  if s.mem.loadDue then
    match s.mem.op with
    | .load z => .next ((s.applyLoad z).markZone z (judgedState (zoneNeedsClamp s.mem.image z))).finishOperation
    | _ => .next s
  else .next s

/-- The page of the save in flight has run its 5 ms. -/
def MemoryController.saveDue (m : MemoryController) : Bool :=
  match m.op with
  | .save _ => decide (5 ≤ m.opTimer)
  | _ => false

/-- SAVE_COMPLETE (R189). -/
def execSaveComplete (s : State) : Host.Outcome State Fault Refusal :=
  if s.mem.saveDue then
    match s.mem.op with
    | .save page => .next (s.modMem fun m => m.completePage page).finishOperation
    | _ => .next s
  else .next s

end Sys2Proof.Machine
end

