-- ==== Sys2Proof/Machine/CheckUnit.lean ====
section
/-! DEFINITION. The front-end check (section 11.4). -/
namespace Sys2Proof.Machine

/-- A machine demand is in the arbiter's list (R191, test 3). -/
def Arbiter.hasMachineDemand (a : Arbiter) : Bool := a.demands.any fun d => d.owner == .machine

/-- SELF_CHECK at the self-check unit (R191). -/
def State.startCheck (s : State) : Answer :=
  if s.check.running then answer s .wrongState
  else if !s.bothIdle then answer s .wrongState
  else if s.arbiter.hasMachineDemand then answer s .wrongState
  else
    answer ({ s with check := { s.check with running := true, remaining := 15, c1 := 0, stepTimer := 0 } }.modMonitor
      Monitor.stopRounds) .accepted

/-- SELF_CHECK (R191). -/
def execSelfCheck (s : State) : Host.Outcome State Fault Refusal :=
  .next (s.serve .machine .selfCheck fun _ s => s.startCheck)

/-- The number of the step in progress, 1 to 15. -/
def SelfCheck.step (c : SelfCheck) : Nat := 16 - c.remaining

/-- Within a distance of a code, both ends included. -/
def within (mid tol code : Nat) : Bool := decide (mid ≤ code + tol) && decide (code ≤ mid + tol)

/-- Whether a step passes on a code (the table of R191). -/
def State.stepPasses (s : State) (step code : Nat) : Bool :=
  if step = 1 then within s.monitor.refExp s.monitor.refTol code
  else if step = 2 then within (s.check.c1 / 2) 4 code
  else if step = 3 then within (s.check.c1 / 4) 3 code
  else if step % 2 = 0 then decide (code ≤ 20)
  else decide (960 ≤ code)

/-- The result and its detail of a failed step (R191). -/
def failedStep (step : Nat) : Nat × Nat := if step ≤ 3 then (3, step) else (4, (step - 4) / 2)

/-- A step that passes: the count goes down by one and the next step begins, or the check has run to its end (R191). -/
def State.passStep (s : State) (code : Nat) : State :=
  let c := s.check
  let s1 :=
    { s with
      check :=
        { c with remaining := c.remaining - 1, c1 := if c.step = 1 then code else c.c1, stepTimer := 0 } }
  if c.remaining ≤ 1 then s1.stopCheck 0 none else s1

/-- A step of a running check has run its 2 ms. -/
def SelfCheck.stepDue (c : SelfCheck) : Bool := c.running && decide (2 ≤ c.stepTimer)

/-- CHECK_STEP_END (R191). -/
def execCheckStepEnd (code : Code) (s : State) : Host.Outcome State Fault Refusal :=
  if s.check.stepDue then
    if s.stepPasses s.check.step code.toNat then .next (s.passStep code.toNat)
    else .next (s.stopCheck (failedStep s.check.step).1 (some (failedStep s.check.step).2))
  else .next s

end Sys2Proof.Machine
end

