-- ==== Sys2Proof/Machine/Link.lean ====
section
/-! DEFINITION. The head links (chapter 1): the receiver's events, the polls, the link states, and the commands of both. -/
namespace Sys2Proof.Machine

/-! ## Counters (R15, R16) -/

/-- A statistics counter goes up by one, saturating at 65,535 (R15). -/
def count16 (n : Nat) : Nat := satInc 65535 n

/-- A link error joins the current quality block (R16). -/
def HeadLink.addError (l : HeadLink) : HeadLink := { l with blockErrors := count16 l.blockErrors }

/-- The counter of a frame's status goes up as the frame enters the FIFO; every status but GOOD is a link error (R5, R15, R16). -/
def HeadLink.countStatus (l : HeadLink) : FrameStatus → HeadLink
  | .good => { l with stats := { l.stats with good := count16 l.stats.good } }
  | .checkError => ({ l with stats := { l.stats with checkErrors := count16 l.stats.checkErrors } } : HeadLink).addError
  | .residue => ({ l with stats := { l.stats with residue := count16 l.stats.residue } } : HeadLink).addError
  | .long => ({ l with stats := { l.stats with long := count16 l.stats.long } } : HeadLink).addError

/-! ## The closing of a frame (R5) -/

/-- Kind byte SAMPLE (section 10.8). -/
def kindSample : Byte := 0x10

/-- Kind byte HEAD_STATUS (section 10.8). -/
def kindHeadStatus : Byte := 0x11

/-- The comparison of R2: the check bits over all but the last 16 data bits equal those 16. -/
def checkPasses (data : List Bool) : Bool :=
  checkBits (data.take (data.length - 16)) == data.drop (data.length - 16)

/-- The status of a frame from its data bits (R4 for LONG, R5). -/
def frameStatus (data : List Bool) : FrameStatus :=
  if 24 * 8 < data.length then .long
  else if data.length % 8 ≠ 0 then .residue
  else if data.length / 8 < 4 then .checkError
  else if checkPasses data then .good else .checkError

/-- The entry that a frame makes, its answer mark still NONE (section 1.3). -/
def frameEntry (data : List Bool) : FifoEntry :=
  let bytes := bytesOfBits data
  let st := frameStatus data
  { status := st
    kind := bytes[1]?
    payload := if st = .long then none else some ((bytes.drop 2).take (bytes.length - 4))
    answer := false }

/-- Whether an entry answers the outstanding poll (R10): a GOOD SAMPLE of 11 bytes whose last byte echoes it, the first to do so. -/
def HeadLink.answers (l : HeadLink) (e : FifoEntry) : Bool :=
  match e.payload with
  | some p =>
    e.status == .good && e.kind == some kindSample && p.length == 11 && l.outstanding.isSome && p[10]? == l.outstanding &&
      !l.answered
  | none => false

/-- An entry appended as the youngest, marked by the answer test; HOLD_OFF is set when the occupancy becomes 3 (R5, R7, R10). -/
def HeadLink.enter (l : HeadLink) (e : FifoEntry) : HeadLink :=
  let ans := l.answers e
  let q := l.fifo ++ [{ e with answer := ans }]
  { l.countStatus e.status with
    fifo := q
    answered := l.answered || ans
    holdOff := if q.length = 3 then true else l.holdOff }

/-- The disposal of a closed frame (R5): discarded as an address mismatch, lost as an overrun, or entered. -/
def HeadLink.dispose (l : HeadLink) (address : Nat) (data : List Bool) : HeadLink :=
  if (bytesOfBits data).head?.map BitVec.toNat ≠ some address then
    { l with stats := { l.stats with mismatch := count16 l.stats.mismatch } }
  else if 4 ≤ l.fifo.length then
    ({ l with stats := { l.stats with overrun := count16 l.stats.overrun } } : HeadLink).addError
  else l.enter (frameEntry data)

/-! ## The receiver (R3, R4, R5) -/

/-- The frame being collected is discarded and the abort counted; the receiver is back in HUNT (R4). -/
def HeadLink.abort (l : HeadLink) : HeadLink :=
  { ({ l with stats := { l.stats with abort := count16 l.stats.abort } } : HeadLink).addError with receiver := .hunt, line := [] }

/-- The first event that a run of bits brings in the state of the receiver, with the bits left over after it (R3, R4, R5).
The run begins with the bits that `line` held. -/
def HeadLink.nextEvent (l : HeadLink) (address : Nat) (run : List Bool) : Option (HeadLink × List Bool) :=
  match l.receiver with
  | .hunt => (findFlag [] run).map fun rest => ({ l with receiver := .sync, line := [] }, rest)
  | .sync =>
    match scanGroup 0 0 [] run with
    | .short => none
    | .flag rest => some ({ l with line := [] }, rest)
    | .abort rest => some ({ l with receiver := .hunt, line := [] }, rest)
    | .byte group rest => some ({ l with receiver := .frame, line := group }, rest)
  | .frame =>
    match scanLine 0 [] run with
    | .collecting _ => none
    | .flag data rest => some ({ l.dispose address data with receiver := .sync, line := [] }, rest)
    | .abort _ rest => some (l.abort, rest)

/-- The receiver behind a run without an event: HUNT keeps what a flag may still begin with, SYNC and FRAME keep every bit. -/
def HeadLink.hold (l : HeadLink) (run : List Bool) : HeadLink :=
  { l with line := if l.receiver = .hunt then lastBits 7 run else run }

/-- The receiver takes a run of bits, one event after the other; `n` bounds their number. -/
def HeadLink.takeBits (address : Nat) : Nat → HeadLink → List Bool → HeadLink
  | 0, l, bits => l.hold (l.line ++ bits)
  | n + 1, l, bits =>
    match l.nextEvent address (l.line ++ bits) with
    | some e => HeadLink.takeBits address n e.1 e.2
    | none => l.hold (l.line ++ bits)

/-- The bits that arrive on a head link's data-in (section 1.2). A stopped link takes none (R17). Every event uses up at least one bit
of the run or of the line, so the bound is never met. -/
def State.receive (s : State) (b : Boom) (bits : List Bool) : State :=
  s.modLink b fun l =>
    if l.running then HeadLink.takeBits (s.calib b).headAddress (2 * (l.line.length + bits.length) + 2) l bits else l

/-- FRAME_CLOSE (R5): the bits up to the closing flag. -/
def execFrameClose (b : Boom) (bits : List Bool) (s : State) : Host.Outcome State Fault Refusal := .next (s.receive b bits)

/-- FRAME_ABORT (R4): the bits up to the seventh consecutive 1 in FRAME. -/
def execFrameAbort (b : Boom) (bits : List Bool) (s : State) : Host.Outcome State Fault Refusal := .next (s.receive b bits)

/-- FLAG_SEEN (R3): the bits up to the flag that ends HUNT. -/
def execFlagSeen (b : Boom) (bits : List Bool) (s : State) : Host.Outcome State Fault Refusal := .next (s.receive b bits)

/-- FRAME_START (R3): the bits up to the eighth of a frame's first byte. -/
def execFrameStart (b : Boom) (bits : List Bool) (s : State) : Host.Outcome State Fault Refusal := .next (s.receive b bits)

/-- SYNC_LOST_TO_HUNT (R3): the bits up to the seventh consecutive 1 in SYNC, which is not counted as an abort. -/
def execSyncLostToHunt (b : Boom) (bits : List Bool) (s : State) : Host.Outcome State Fault Refusal := .next (s.receive b bits)

/-! ## Polls (R8 to R12, R16) -/

/-- Stage codes of the setpoint frame (section 10.8). -/
def stageCode : BoomState → Nat
  | .collaring => 1
  | .drilling => 2
  | .retracting => 3
  | .inserting => 4
  | .spinning => 5
  | .holding => 6
  | .torquing => 7
  | _ => 0

/-- The stage code that the next setpoint frame carries (R8): PARK, 0, unless the link is UP, the stop latch clear and the stage RUNNING. -/
def State.setpointStage (s : State) (b : Boom) : Nat :=
  let u := s.boom b
  if u.link.state = .up ∧ u.link.stopLatch = false ∧ u.ctl.run = some .running then stageCode u.ctl.state else 0

/-- The setpoint frame from its address to its check bytes, built from the state as it stands (R1, R2, R8). -/
def State.setpointFrame (s : State) (b : Boom) : List Byte :=
  let l := (s.boom b).link
  let body : List Byte :=
    [BitVec.ofNat 8 (s.calib b).headAddress, 0x01, l.pollSeq, BitVec.ofNat 8 (s.setpointStage b)] ++
      bytesLE 2 (boomGrant s.arbiter.demands b) ++
      [BitVec.ofNat 8 (l.stopLatch.toNat + 2 * l.holdOff.toNat)]
  body ++ bytesOfBits (checkBits (body.flatMap bitsLsb))

/-- The two runs after a judgement, saturating at 255 (R11). -/
def HeadLink.judge (l : HeadLink) (answered : Bool) : HeadLink :=
  if answered then { l with answeredRun := satInc 255 l.answeredRun, missedRun := 0 }
  else { l with missedRun := satInc 255 l.missedRun, answeredRun := 0 }

/-- The link goes from UP to LOST (R12): the stop latch is set, the encoder reference becomes absent (R19), and the loss is reported. -/
def State.loseLink (s : State) (b : Boom) : State :=
  let s1 := s.modLink b fun l => { l with state := .lost, stopLatch := true }
  (s1.modTracker b fun t => { t with encoderRef := none }).linkFault b .linkLost none

/-- The link state after a judgement (R11). -/
def State.linkChange (s : State) (b : Boom) : State :=
  let l := (s.boom b).link
  if l.state = .up then (if 3 ≤ l.missedRun then s.loseLink b else s)
  else if 4 ≤ l.answeredRun then s.modLink b fun l => { l with state := .up }
  else s

/-- The judgement of the outstanding poll, if one is outstanding (R8, step 1; R10, R11). -/
def State.judgePoll (s : State) (b : Boom) : State :=
  let l := (s.boom b).link
  if l.outstanding.isSome then
    let s1 := s.modLink b fun l => l.judge l.answered
    (if l.answered then s1 else s1.missingPoll b).linkChange b
  else s

/-- The block poll count at an expiry: at 1,024 the block's error count is handed on and a new block starts (R16). -/
def State.countPoll (s : State) (b : Boom) : State :=
  let l := (s.boom b).link
  if l.blockPolls + 1 < 1024 then s.modLink b fun l => { l with blockPolls := l.blockPolls + 1 }
  else
    (s.modLink b fun l => { l with blockPolls := 0, blockErrors := 0, lastBlockErrors := l.blockErrors }).modWear b
      fun t => t.takeBlock l.blockErrors

/-- The advance and the sending (R8, steps 2 and 3). The poll timer starts again. -/
def State.sendPoll (s : State) (b : Boom) : State :=
  let s1 := s.modLink b fun l =>
    { l with pollSeq := l.pollSeq + 1, outstanding := some (l.pollSeq + 1), answered := false, pollTimer := 0 }
  s1.modLink b fun l => { l with sent := some (s1.setpointFrame b) }

/-! ## The line (R1, R17) -/

/-- What a running link sends (R1), counted from the first bit of the latest setpoint frame's opening flag, or of the flag fill before
the first poll: the frame from flag to flag, then flags back to back. Where in the fill a frame begins is left out as timing (log 27). -/
def HeadLink.lineBit (l : HeadLink) (i : Nat) : Bool :=
  let frame := (l.sent.map lineBits).getD []
  (frame[i]?).getD (fillBit (i - frame.length))

/-- The bit that the part drives on a head link's data line: `HeadLink.lineBit` while the link runs, and nothing while it is stopped
(R17). -/
def State.headData (s : State) (b : Boom) (i : Nat) : Option Bool :=
  let l := (s.boom b).link
  if l.running then some (l.lineBit i) else none

/-- The clock that the part drives on a head link, in bits a millisecond: without a break at the HEAD_RATE rate, 1 or 2 Mbit/s, while
the link runs, and none while it is stopped (R1, R17). -/
def State.headClock (s : State) (b : Boom) : Option Nat :=
  if (s.boom b).link.running then some (if s.straps.fast then 2000 else 1000) else none

/-- The poll timer stands at 2 ms (section 1.4). -/
def HeadLink.pollDue (l : HeadLink) : Bool := l.running && decide (2 ≤ l.pollTimer)

/-- A whole expiry of the poll timer (R8, R16). -/
def State.expirePoll (s : State) (b : Boom) : State := ((s.judgePoll b).countPoll b).sendPoll b

/-- POLL_EXPIRY (R8). -/
def execPollExpiry (b : Boom) (s : State) : Host.Outcome State Fault Refusal :=
  if (s.boom b).link.pollDue then .next (s.expirePoll b) else .next s

/-- The expiry due brings the answered-poll run to 4 in DOWN or LOST (R11). -/
def HeadLink.upDue (l : HeadLink) : Bool :=
  l.pollDue && l.outstanding.isSome && l.answered && l.state != .up && decide (4 ≤ satInc 255 l.answeredRun)

/-- LINK_UP (R11): the poll expiry at whose judgement the link becomes UP. -/
def execLinkUp (b : Boom) (s : State) : Host.Outcome State Fault Refusal :=
  if (s.boom b).link.upDue then .next (s.expirePoll b) else .next s

/-- The expiry due brings the missed-poll run to 3 in UP (R11, R12). -/
def HeadLink.lostDue (l : HeadLink) : Bool :=
  l.pollDue && l.outstanding.isSome && !l.answered && l.state == .up && decide (3 ≤ satInc 255 l.missedRun)

/-- LINK_LOST (R12): the poll expiry at whose judgement the link is lost. -/
def execLinkLost (b : Boom) (s : State) : Host.Outcome State Fault Refusal :=
  if (s.boom b).link.lostDue then .next (s.expirePoll b) else .next s

/-- The expiry due brings the block poll count to 1,024 (R16). -/
def HeadLink.blockDue (l : HeadLink) : Bool := l.pollDue && decide (1024 ≤ l.blockPolls + 1)

/-- QUALITY_BLOCK_END (R16): the poll expiry that completes a block. -/
def execQualityBlockEnd (b : Boom) (s : State) : Host.Outcome State Fault Refusal :=
  if (s.boom b).link.blockDue then .next (s.expirePoll b) else .next s

end Sys2Proof.Machine
end

