-- ==== Sys2Proof/Machine/RowRequests.lean ====
section
/-! DEFINITION. The machine port's requests to the row map (chapter 7) and to the pump flow arbiter (section 6.3). -/
namespace Sys2Proof.Machine

/-! ## The support and the row (R127 to R132) -/

/-- The support declaration, with the change of the set announced (R131, R151). -/
def State.declare (s : State) (isSet : Bool) : State :=
  let old := s.interlocks
  { s with rowMap := { s.rowMap with supportSet := isSet } }.announce old

/-- SUPPORT_SET (R131). -/
def execSupportSet (s : State) : Host.Outcome State Fault Refusal :=
  .next (s.serve .machine .supportSet fun _ s => answer (s.declare true) .accepted)

/-- SUPPORT_RELEASED (R131). -/
def execSupportReleased (s : State) : Host.Outcome State Fault Refusal :=
  .next (s.serve .machine .supportReleased fun _ s => answer (s.declare false) .accepted)

/-- The tram state changed, with the change of TRAMMING announced (R130, R132, R152). -/
def State.setTram (s : State) (permitted : Bool) : State :=
  let old := s.interlocks
  { s with rowMap := { s.rowMap with tramPermitted := permitted } }.announce old

/-- ROW_ADVANCE at the row map (R130). -/
def State.rowAdvance (s : State) : Answer :=
  if s.check.running then s.refuseForCheck
  else if s.rowMap.tramPermitted then answer s .wrongState
  else if !s.rowMap.ready then answer s .rowOpen
  else answer ((s.setTram true).raiseBoth .row) .accepted

/-- ROW_ADVANCE (R130). -/
def execRowAdvance (s : State) : Host.Outcome State Fault Refusal :=
  .next (s.serve .machine .rowAdvance fun _ s => s.rowAdvance)

/-- The row that TRAM_DONE opens (R132, steps 2 and 3). -/
def RowMap.nextRow (m : RowMap) : RowMap :=
  { m with
    rowNumber := (m.rowNumber + 1) % 65536
    planned := match m.pendingPlan with
      | some plan => openSlots 0 plan
      | none => m.planned.map fun sl => { sl with state := .isOpen }
    supplementary := [], pendingPlan := none, overflow := false }

/-- The set {SUPPORT_LOST}. -/
def onlySupportLost : Interlocks := { Interlocks.empty with supportLost := true }

/-- TRAM_DONE at the row map (R109, R132). -/
def State.tramDone (s : State) : Answer :=
  if !s.rowMap.tramPermitted then answer s .wrongState
  else if !s.rowMap.supportSet then answerInterlock s onlySupportLost
  else
    let s1 := s.depart fun d => d.owner == .machine && d.kind == .tram
    let s2 := { s1 with rowMap := s1.rowMap.nextRow }.setTram false
    answer (s2.raiseBoth .row) .accepted

/-- TRAM_DONE (R132). -/
def execTramDone (s : State) : Host.Outcome State Fault Refusal := .next (s.serve .machine .tramDone fun _ s => s.tramDone)

/-- WAIVE at the row map (R127). -/
def State.waive (s : State) (n : Nat) : Answer :=
  match s.rowMap.slot n with
  | none => answer s .range
  | some sl =>
    match sl.state with
    | .claimed _ => answer s .slotTaken
    | .bolted _ => answer s .slotResolved
    | .waived => answer s .slotResolved
    | .isOpen =>
      let m := s.rowMap.mapSlots fun x => if x.number = n then { x with state := .waived } else x
      answer { s with rowMap := m }.raiseReady .accepted

/-- WAIVE (R127). -/
def execWaive (s : State) : Host.Outcome State Fault Refusal :=
  .next (s.serve .machine .waive fun ops s => s.waive (operand ops 0))

/-- CLEAR_OVERFLOW at the row map (R128). -/
def State.clearOverflow (s : State) : Answer :=
  if s.rowMap.overflow then answer { s with rowMap := { s.rowMap with overflow := false } }.raiseReady .accepted
  else answer s .wrongState

/-- CLEAR_OVERFLOW (R128). -/
def execClearOverflow (s : State) : Host.Outcome State Fault Refusal :=
  .next (s.serve .machine .clearOverflow fun _ s => s.clearOverflow)

/-- Every slot of the row is OPEN and there is no supplementary slot (R122). -/
def RowMap.untouched (m : RowMap) : Bool := m.planned.all (fun sl => sl.state == .isOpen) && m.supplementary.isEmpty

/-- An accepted plan goes to the current row or becomes the pending plan (R122). -/
def State.placePlan (s : State) (plan : List PlanSlot) : State :=
  if s.rowMap.untouched then
    { s with rowMap := { s.rowMap with planned := openSlots 0 plan, pendingPlan := none } }.raiseBoth .row
  else { s with rowMap := { s.rowMap with pendingPlan := some plan } }

/-- SET_PLAN at the row map (R121). -/
def State.setPlan (s : State) (count : Nat) (plan : List PlanSlot) : Answer :=
  if planUsable count plan then
    answer (s.placePlan (clampPlan plan)) (if clampPlan plan = plan then .accepted else .acceptedClamped)
  else answer s .range

/-- SET_PLAN (R121, R122). -/
def execSetPlan (s : State) : Host.Outcome State Fault Refusal :=
  .next (s.serve .machine .setPlan fun ops s => s.setPlan (operand ops 0) (planOperand (ops.drop 1)))

/-! ## Machine demands (R108, R109) -/

/-- A boom claims a slot. -/
def RowMap.anyClaim (m : RowMap) : Bool := (m.claimOf .left).isSome || (m.claimOf .right).isSome

/-- FLOW_TRAM and FLOW_SUPPORT at the arbiter: the tests of R108, the last for FLOW_TRAM only. -/
def State.askFlow (s : State) (k : DemandKind) : Answer :=
  if s.check.running then s.refuseForCheck
  else if (findDemand s.arbiter.demands .machine k).isSome then answer s .wrongState
  else if s.rowMap.anyClaim then answer s .wrongState
  else if k = .tram ∧ s.rowMap.tramPermitted = false then answer s .rowOpen
  else answer (s.arrive .machine k) .accepted

/-- FLOW_TRAM (R108). -/
def execFlowTram (s : State) : Host.Outcome State Fault Refusal := .next (s.serve .machine .flowTram fun _ s => s.askFlow .tram)

/-- FLOW_SUPPORT (R108). -/
def execFlowSupport (s : State) : Host.Outcome State Fault Refusal :=
  .next (s.serve .machine .flowSupport fun _ s => s.askFlow .support)

/-- The kind that a FLOW_RELEASE names (section 10.7). -/
def releaseKind : Nat → Option DemandKind
  | 0 => some .tram
  | 1 => some .support
  | _ => none

/-- FLOW_RELEASE at the arbiter (R109). A running check is ended before the operand is looked at (log 16). -/
def State.releaseFlow (s : State) (n : Nat) : Answer :=
  if s.check.running then s.refuseForCheck
  else match releaseKind n with
    | none => answer s .range
    | some k =>
      if (findDemand s.arbiter.demands .machine k).isSome then
        answer (s.depart fun d => d.owner == .machine && d.kind == k) .accepted
      else answer s .wrongState

/-- FLOW_RELEASE (R109). -/
def execFlowRelease (s : State) : Host.Outcome State Fault Refusal :=
  .next (s.serve .machine .flowRelease fun ops s => s.releaseFlow (operand ops 0))

end Sys2Proof.Machine
end

