-- ==== Sys2Proof/Config.lean ====
section
/-! DEFINITION. The values the manual leaves open: constants without a body, so that no proof can rest on one. -/
namespace Sys2Proof

/-- Free value (R190): for the n-th byte of a cut page write, the bits that still hold the old byte.
"A page in progress may hold its old bytes, its new bytes or a mixture." -/
opaque Config.cutMask : Nat → Byte

/-- Free value: which of the expiries that fall due in one millisecond is taken next.
Every chapter says of two events at the same moment that either may be taken first (R83, R110, R122, R166). -/
opaque Config.dueOrder : Nat → Nat

end Sys2Proof
end

