-- ==== Sys2Proof/Machine/StartUp.lean ====
section
/-! DEFINITION. Power, the three resets, the start-up sequence and the opening (sections 11.1, 11.2, 11.5). -/
namespace Sys2Proof.Machine

/-! ## The cut of a memory operation (R190) -/

/-- One byte of a cut page write: some bits old, the others new, by a free value (R190). -/
def cutByte (mask old new : Byte) : Byte := (old &&& mask) ||| (new &&& ~~~mask)

/-- A cut page: every byte a mixture of what stands there and what was to be written. `n` is the first free value used. -/
def cutPage (mem : List Host.Cell) : Nat → List Host.Cell → List Host.Cell
  | _, [] => mem
  | n, (a, v) :: page => cutPage (Memory.write mem a (cutByte (Config.cutMask n) (Memory.read mem a) v)) (n + 1) page

/-- The page in progress of an operation in flight. -/
def MemOp.pageInProgress : MemOp → List Host.Cell
  | .write (page :: _) => page
  | .save page => page
  | _ => []

/-- An operation in flight cut, and a waiting save dropped (R190). -/
def State.cutMemory (s : State) : State :=
  let page := s.mem.op.pageInProgress
  { s with
    mem :=
      { s.mem with memory := cutPage s.mem.memory s.free page, op := .none, pendingSave := false, opTimer := 0 }
    free := s.free + page.length }

/-! ## The reset columns (section 11.5) -/

/-- The zone 4 fields that the monitor holds. -/
def Monitor.zone4 (m : Monitor) : Zone4 :=
  { channels := m.channels.map Channel.limits, refExp := m.refExp, refTol := m.refTol, sleep := m.sleep }

/-- A boom's blocks after any reset, but for its wear table. Cr stays until the zone pass computes it afresh. -/
def BoomUnit.resetBlocks (u : BoomUnit) : BoomUnit :=
  { u with
    link := HeadLink.reset, tracker := DepthTracker.reset
    classifier := { Classifier.reset with cr := u.classifier.cr }
    anchorage := none, ctl := Controller.reset }

/-- A port after RESET_N or a RESET request (R168, R174; for power-on log 42). A transfer in progress is neither taken nor completed: until the master ends it, the
closed port drives it at 1. -/
def MasterPort.cut (port : MasterPort) : MasterPort :=
  { MasterPort.reset with transfer := port.transfer.map fun _ => .onClosed }

/-- What every reset sets alike (R17, R35, R37, R59, R103, R118, R147, R174). -/
def State.resetCommon (s : State) : State :=
  { s with
    left := s.left.resetBlocks
    right := s.right.resetBlocks
    arbiter := { qAvail := s.params.plan.qPump, demands := [] }
    monitor := Monitor.reset s.monitor.zone4
    portLeft := s.portLeft.cut
    portRight := s.portRight.cut
    portMachine := s.portMachine.cut }

/-- The column of RESET_N (section 11.5): the logs and the recorded self-test result are kept. Until the zone pass loads zones 5, 1 and 6,
row 0 stands on the built-in plan, and the wear tables on a new bit and the built-in thresholds (DESIGN CHOICE, log 17). -/
def State.resetN (s : State) : State :=
  let s1 := s.cutMemory.resetCommon
  { s1 with
    phase := .inReset
    millis := 0
    left := { s1.left with wear := WearTable.fresh Zone1.builtIn.thresholds }
    right := { s1.right with wear := WearTable.fresh Zone1.builtIn.thresholds }
    rowMap := RowMap.rowZero builtInPlan
    check := SelfCheck.reset }

/-- The column of power-on: only the nonvolatile memory outlasts a loss of power. `pending` and `free` are the model's own. A transfer in
progress is forgotten with the rest: where its select line stays asserted, nothing drives its remaining bits, and its end is no event
(DESIGN CHOICE, log 42). -/
def State.powerCycle (s : State) (phase : Phase) : State :=
  let s1 := s.cutMemory
  { State.reset with
    phase := phase, resetNLow := s.resetNLow, mem := { State.reset.mem with memory := s1.mem.memory }
    free := s1.free, pending := s.pending }

/-! ## The zone pass (R184) -/

/-- The built-in defaults of a zone that failed its checksum (R184). -/
def State.defaultZone (s : State) (z : Nat) : State :=
  match z with
  | 0 => { s with params := { s.params with machineNumber := 0 } }
  | 1 => s.takeZone1 Zone1.builtIn
  | 2 => s.takeCalib .left (Calib.builtIn .left)
  | 3 => s.takeCalib .right (Calib.builtIn .right)
  | 4 => s.modMonitor fun m => m.takeZone4 Zone4.builtIn
  | 5 => s.takeZone5 Zone5.builtIn
  | _ => s

/-- Whether a good zone needed a change (R184); the row plan of zone 5 counts only where row 0 is opened from it (R120). -/
def passClamped (img : List Host.Cell) (z : Nat) (opensRow : Bool) : Bool :=
  zoneNeedsClamp img z || (opensRow && z == 5 && (rowPlanSettled img).2)

/-- One zone judged in the pass (R184). After a RESET request zone 6 is only checked: a bad one is left as it was (R190). -/
def State.passZone (afterRequest : Bool) (s : State) (z : Nat) : State :=
  if zoneSumOk s.mem.image z then (s.takeZone z).markZone z (judgedState (passClamped s.mem.image z (!afterRequest)))
  else if afterRequest && z == 6 then s
  else ((s.defaultZone z).markZone z .defaulted).logPartFault .device .configZoneBad (some z)

/-- The plan that row 0 is opened with (R120). -/
def rowZeroPlan (img : List Host.Cell) : List PlanSlot :=
  if zoneSumOk img 5 then (rowPlanSettled img).1 else builtInPlan

/-- The cm_drilled that a bit starts with (R163). -/
def startDrilled (img : List Host.Cell) (b : Boom) : Nat := if zoneSumOk img 6 then zone6Drilled img b else 0

/-- The wear table of a boom as power-on and RESET_N start it, once zones 1 and 6 are loaded (R163). -/
def State.restoreWear (s : State) (b : Boom) : State :=
  s.modBoom b fun u => { u with wear := u.wear.restore (startDrilled s.mem.image b) s.params.classifier.wearRate }

/-- The zone pass (R184): zones 0 to 6 in order; then, after power-on and RESET_N, row 0 and the wear tables (R120, R163). -/
def State.zonePass (s : State) (afterRequest : Bool) : State :=
  let s1 := s.modMem fun m => { m with image := m.memory }
  let s2 := (List.range 7).foldl (State.passZone afterRequest) s1
  let s3 :=
    if afterRequest then s2
    else (({ s2 with rowMap := RowMap.rowZero (rowZeroPlan s2.mem.image) } : State).restoreWear .left).restoreWear .right
  { s3 with phase := .zonesRead afterRequest }

/-! ## The commands -/

/-- POWER_ON (R182, R193): the part waits in reset while RESET_N is low, and otherwise runs the start-up self-test. -/
def execPowerOn (s : State) : Host.Outcome State Fault Refusal :=
  .next (s.powerCycle (if s.resetNLow then .inReset else .selfTest))

/-- POWER_OFF (R162, R190): all volatile state is lost, and a page write in progress is cut. -/
def execPowerOff (s : State) : Host.Outcome State Fault Refusal := .next (s.powerCycle .off)

/-- RESET_N_ASSERT (R182, R190, R193). -/
def execResetNAssert (s : State) : Host.Outcome State Fault Refusal :=
  if s.resetNLow then .next s
  else if s.phase = .off then .next { s with resetNLow := true }
  else .next { s.resetN with resetNLow := true }

/-- RESET_N_RELEASE (R182): the start-up sequence begins. -/
def execResetNRelease (s : State) : Host.Outcome State Fault Refusal :=
  if s.resetNLow then
    .next { s with resetNLow := false, phase := if s.phase = .inReset then .selfTest else s.phase }
  else .next s

/-- The detail of a POST_FAIL record: MEMORY 0, LOGIC 1 (R182; log 23). -/
def postDetail (memoryPass : Bool) : Nat := if memoryPass then 1 else 0

/-- The result of the start-up self-test recorded (R182). -/
def State.recordPost (s : State) (memoryPass logicPass : Bool) : State :=
  let s1 := { s with postFail := !(memoryPass && logicPass) }
  if s1.postFail then s1.logPartFault .device .postFail (some (postDetail memoryPass)) else s1

/-- START_UP_SELF_TEST_COMPLETE (R182 to R184): the result, then the pin pass and the zone pass. -/
def execStartUpSelfTestComplete (memoryPass logicPass : Bool) (pins : Straps) (s : State) :
    Host.Outcome State Fault Refusal :=
  if s.phase = .selfTest then .next ({ s.recordPost memoryPass logicPass with straps := pins }.zonePass false)
  else .next s

/-- WEAR raised for a wear table that holds a CROSSED attribute (R163). -/
def State.raiseStanding (s : State) (b : Boom) : State :=
  if (s.boom b).wear.anyCrossed then (s.raise b .wear).raiseMachine .wear else s

/-- The link of an enabled boom starts (R17). -/
def State.startLink (s : State) (b : Boom) : State :=
  if s.enabled b then s.modLink b fun l => { l with running := true, pollTimer := 0 } else s

/-- The three ports open (R174). -/
def State.openPorts (s : State) : State :=
  { s with
    portLeft := { s.portLeft with isOpen := true }, portRight := { s.portRight with isOpen := true }
    portMachine := { s.portMachine with isOpen := true } }

/-- The opening of the part (R118, R147, R163, R186). -/
def State.openPart (s : State) (afterRequest : Bool) : State :=
  let s1 := (((s.openPorts.startLink .left).startLink .right).modMonitor Monitor.startRound).refreshFlow
  let s2 := (s1.raiseStanding .left).raiseStanding .right
  let s3 := if afterRequest && !s2.rowMap.tramPermitted then s2.raiseReady else s2
  { s3 with phase := .operating }

/-- OPENING (R186). -/
def execOpening (s : State) : Host.Outcome State Fault Refusal :=
  match s.phase with
  | .zonesRead afterRequest => .next (s.openPart afterRequest)
  | _ => .next s

/-- A claimed hole closed by a RESET request (R193, step 1): a stage in progress ends without its step 3. -/
def State.closeForReset (s : State) (b : Boom) : State :=
  let st := (s.boom b).ctl.state
  if st = .idle then s
  else if st.isStage then s.endStage b .resetAbort none (s.stance b)
  else (s.markFault b .resetAbort).closeHole b .givenUp st (some .resetAbort)

/-- A running front-end check stopped by a RESET request with result 2 (R192). -/
def SelfCheck.stopForReset (c : SelfCheck) : SelfCheck :=
  if c.running then { c with running := false, last := some { result := 2, detail := none } } else c

/-- A RESET request carried out (R193): the holes, the check and the memory, the column of the request, then the pin pass and the
zone pass. -/
def State.requestReset (s : State) (pins : Straps) : State :=
  let s1 := (s.closeForReset .left).closeForReset .right
  let s2 := { s1 with check := s1.check.stopForReset }.cutMemory.resetCommon
  { s2 with straps := pins }.zonePass true

/-- RESET (R172, R193). It is answered by the NO_REPLY that the closed ports hold (R174). -/
def execReset (pins : Straps) (s : State) : Host.Outcome State Fault Refusal :=
  match s.held .machine .reset with
  | none => .next s
  | some q =>
    if RequestKind.reset.sizeOk .machine q then .next (s.requestReset pins)
    else .next (s.finish .machine q .reset .range [])

end Sys2Proof.Machine
end

