-- ==== Sys2Proof/Machine/Take.lean ====
section
/-! DEFINITION. The depth tracker's take of a FIFO entry (R6): the work on one sample (chapter 2), the judging of the stage on it
(chapter 5), the head status (R14), and the commands whose events come about in a take. -/
namespace Sys2Proof.Machine

/-! ## Samples (R18) -/

/-- A sample as received, its pressures and speed clamped (R18). -/
structure Sample where
  feed : Nat
  rotation : Nat
  speed : Nat
  count : BitVec 16
  collar : Bool
  plate : Bool
  atStop : Bool
  cartridges : Nat
  deriving DecidableEq, Repr

/-- The sample in a payload of 11 bytes (section 10.8, R18). -/
def readSample (p : List Byte) : Sample :=
  let two (i : Nat) : Nat := numberLE ((p.drop i).take 2)
  let switches := p.getD 8 0
  { feed := min 25000 (two 0), rotation := min 25000 (two 2), speed := min 1200 (two 4), count := BitVec.ofNat 16 (two 6)
    collar := switches.getLsbD 0, plate := switches.getLsbD 1, atStop := switches.getLsbD 2
    cartridges := (p.getD 9 0).toNat }

/-- The encoder delta, in −32,768 to 32,767; 0 with the reference absent (R19). -/
def encoderDelta (ref : Option (BitVec 16)) (count : BitVec 16) : Int :=
  match ref with
  | some r => (count - r).toInt
  | none => 0

/-- A delta of magnitude above 2,000 marks a glitch (R19). -/
def isGlitch (delta : Int) : Bool := decide (2000 < delta.natAbs)

/-- A glitch brings the glitch run to 16 (R19). -/
def dropsReference (t : DepthTracker) : Bool := decide (16 ≤ t.glitchRun + 1)

/-- The tracker after a glitch (R19). -/
def DepthTracker.glitched (t : DepthTracker) : DepthTracker :=
  if dropsReference t then { t with encoderRef := none, glitchRun := 0 } else { t with glitchRun := t.glitchRun + 1 }

/-- Depth kept within −8,388,608 to 8,388,607 units (R20). -/
def clampDepth (d : Int) : Int := max (-8388608) (min 8388607 d)

/-- 8M + N units a count (R20). -/
def Calib.scale (c : Calib) : Nat := 8 * c.m + c.n

/-- The deepest point: 2,040,000 units, 2,550 mm (R23, R85). -/
def depthLimitUnits : Nat := 2040000

/-! ## The tracker's work on a processed sample -/

/-- The reference, the depth and the cartridge count follow the sample (R19, R20, R33). The glitch run returns to 0 on a delta that is
no glitch; with the reference absent there is no delta, and the run keeps its count (R19). -/
def DepthTracker.move (t : DepthTracker) (scale : Nat) (x : Sample) : DepthTracker :=
  { t with
    encoderRef := some x.count
    glitchRun := if t.encoderRef.isSome then 0 else t.glitchRun
    depth := clampDepth (t.depth + encoderDelta t.encoderRef x.count * scale)
    latestCartridge := some x.cartridges }

/-- The sample gives collar contact (R22). -/
def DepthTracker.contactDue (t : DepthTracker) (st : BoomState) (x : Sample) : Bool :=
  x.collar && st == .collaring && !t.contactSeen

/-- Collar contact: depth 0, contact seen, the first slice opened at depth 0 (R22). -/
def DepthTracker.contact (t : DepthTracker) : DepthTracker :=
  { t with depth := 0, contactSeen := true, slice := some (OpenSlice.fresh 0 0) }

/-- The feed window in HOLE_OPEN keeps the most recent 25 feed pressures (R24). -/
def DepthTracker.feedWindow (t : DepthTracker) (st : BoomState) (x : Sample) : DepthTracker :=
  if st = .holeOpen then { t with window := appendCapped 25 t.window x.feed } else t

/-- Whether the at-face and new-ground tests are made (R23). -/
def DepthTracker.tests (t : DepthTracker) (st : BoomState) : Bool := t.contactSeen && st.cutsGround

/-- The at-face test (R23). Where R23 makes no test, in another state or before contact, R34 hands a value on all the same and the manual
gives none: the sample then counts as not at the face (DESIGN CHOICE, log 40). -/
def DepthTracker.atFace (t : DepthTracker) (st : BoomState) : Bool :=
  t.tests st && decide ((t.maxDepth : Int) - 800 ≤ t.depth)

/-- The sample extends new ground (R23). -/
def DepthTracker.extends (t : DepthTracker) (st : BoomState) : Bool :=
  t.tests st && decide ((t.maxDepth : Int) < t.depth) && decide (t.maxDepth < depthLimitUnits)

/-- Maximum depth raised (R23). -/
def DepthTracker.raiseMax (t : DepthTracker) (st : BoomState) : DepthTracker :=
  if t.extends st then { t with maxDepth := min t.depth.toNat depthLimitUnits } else t

/-- The corrected feed pressure max(0, p_f − z) (R25). -/
def DepthTracker.corrected (t : DepthTracker) (x : Sample) : Nat := x.feed - t.z

/-- A sample added to a slice (R27). -/
def OpenSlice.add (o : OpenSlice) (feed work : Nat) : OpenSlice :=
  if o.saturated then o
  else
    { o with
      sf := o.sf + feed, sr := o.sr + work, n := o.n + 1, nSpan := satInc 65535 o.nSpan, saturated := decide (65535 ≤ o.n + 1) }

/-- Accumulation into the open slice: at the face, COLLARING or DRILLING, RUNNING (R27). -/
def DepthTracker.accumulate (t : DepthTracker) (atFace running : Bool) (x : Sample) : DepthTracker :=
  if atFace && running then { t with slice := t.slice.map fun o => o.add (t.corrected x) (x.rotation * x.speed) } else t

/-- The slices that maximum depth has closed, in order of depth: the open slice at its boundary, then each skipped span of
8,000 units with no samples (R29). `k` boundaries are reached. -/
def boundaryCloses (o : OpenSlice) : Nat → List ClosedSlice
  | 0 => []
  | k + 1 =>
    o.close (o.start + 8000) ::
      (List.range k).map fun i => (OpenSlice.fresh 0 (o.start + 8000 * (i + 1))).close (o.start + 8000 * (i + 2))

/-- The number of boundaries that a maximum depth reaches (R29). -/
def OpenSlice.reached (o : OpenSlice) (maxDepth : Nat) : Nat := (maxDepth - o.start) / 8000

/-- The closes at slice boundaries, each handed on in order, and the slice opened at the last boundary (R26, R29). -/
def State.closeAtBoundaries (s : State) (b : Boom) : State :=
  match (s.boom b).tracker.slice with
  | none => s
  | some o =>
    let k := o.reached (s.boom b).tracker.maxDepth
    if k = 0 then s
    else
      let last := o.start + 8000 * k
      ((boundaryCloses o k).foldl (fun s c => s.handSlice b c) s).modTracker b fun t =>
        { t with slice := some (OpenSlice.fresh last last) }

/-- The stall run on a sample in DRILLING RUNNING (R31): the new count and base, and whether STALL is reported.
`before` is maximum depth as it stood before the sample. -/
def stallStep (count base before maxDepth : Nat) (qualifies : Bool) : Nat × Nat × Bool :=
  if qualifies then
    let base := if count = 0 then before else base
    if 800 ≤ maxDepth - base then (0, base, false)
    else if 250 ≤ count + 1 then (0, base, true)
    else (count + 1, base, false)
  else (0, base, false)

/-- The insert line (D − 150) × 800 in units (R32); D of the latest anchorage evaluation. -/
def BoomUnit.insertLine (u : BoomUnit) : Int := (((u.anchorage.map Anchorage.d).getD 0 : Nat) - 150) * 800

/-- The block run on a sample in INSERTING RUNNING (R32): the new run, and whether BLOCK is reported. -/
def blockStep (run : Nat) (qualifies : Bool) : Nat × Bool :=
  if qualifies then (if 150 ≤ run + 1 then (0, true) else (run + 1, false)) else (0, false)

/-- A plate report (R32). -/
inductive Plate where
  | none | early | inPlace
  deriving DecidableEq, Repr

/-- What the tracker makes of one entry: the state after its work, and the reports it hands to the controller (R34). -/
structure Tracked where
  state : State
  refDropped : Bool
  processed : Bool
  raisedMax : Bool
  stall : Bool
  block : Bool
  plate : Plate

/-- The tracker's work on a glitch (R19, R28): discarded, counted, and taken as a missing poll. -/
def State.trackGlitch (s : State) (b : Boom) : State :=
  let s1 := s.modLink b fun l => { l with stats := { l.stats with glitch := count16 l.stats.glitch } }
  (s1.missingPoll b).modTracker b DepthTracker.glitched

/-- The runs of the tracker on a processed sample, and the reports they give (R31, R32). `before` is maximum depth before the sample. -/
def State.trackRuns (s : State) (b : Boom) (x : Sample) (atFace raised : Bool) (before : Nat) : Tracked :=
  let u := s.boom b
  let feed := u.tracker.corrected x
  let none := { state := s, refDropped := false, processed := true, raisedMax := raised, stall := false, block := false, plate := .none }
  if u.ctl.run ≠ some .running then none
  else if u.ctl.state = .drilling then
    let r := stallStep u.tracker.stallCount u.tracker.stallBase before u.tracker.maxDepth
      (atFace && decide (s.params.plan.stallPressure ≤ feed))
    { none with state := s.modTracker b fun t => { t with stallCount := r.1, stallBase := r.2.1 }, stall := r.2.2 }
  else if u.ctl.state = .inserting then
    let above := decide (u.tracker.depth < u.insertLine)
    let r := blockStep u.tracker.blockRun (above && decide (s.params.plan.blockPressure ≤ feed))
    { none with
      state := s.modTracker b fun t => { t with blockRun := r.1 }
      block := r.2
      plate := if x.plate then (if above then .early else .inPlace) else .none }
  else none

/-- The tracker's work on one sample, in the order of R19 to R34. -/
def State.track (s : State) (b : Boom) (x : Sample) : Tracked :=
  let u := s.boom b
  let t0 := u.tracker
  let st := u.ctl.state
  if isGlitch (encoderDelta t0.encoderRef x.count) then
    { state := s.trackGlitch b, refDropped := dropsReference t0, processed := false, raisedMax := false, stall := false
      block := false, plate := .none }
  else
    let t1 := t0.move (s.calib b).scale x
    let met := t1.contactDue st x
    let t2 := (if met then t1.contact else t1).feedWindow st x
    let face := t2.atFace st
    let raised := t2.extends st
    let t3 := ((t2.raiseMax st).accumulate face (u.ctl.run == some .running) x)
    let t4 := { t3 with
      lastSample :=
        { atFace := face, feed := t3.corrected x, rotation := x.rotation, speed := x.speed, collar := x.collar
          plate := x.plate, atStop := x.atStop } }
    let s1 := s.modTracker b fun _ => t4
    let s2 := if met then s1.modCtl b fun c => { c with collarTimer := none } else s1
    let s3 := if raised then s2.closeAtBoundaries b else s2
    s3.trackRuns b x face raised t0.maxDepth

/-! ## The controller's judgement of a sample (R84 to R89) -/

/-- The ends that a processed sample can bring to the stage in progress. -/
inductive SampleEnd where
  | collarDepth | depthReached | depthLimit | stalled | clear | blockedByRun | blockedEarly | inPlace | mixed
  | achieved | slippedByPressure | slippedByTurns
  deriving DecidableEq, Repr

/-- The reach level ceil(p_tq × 60 / 100) (R88). -/
def reachLevel (pTq : Nat) : Nat := ceilDiv (pTq * 60) 100

/-- "Saturating at 4,294,967,295" (R66, R88). -/
def satAdd32 (a x : Nat) : Nat := min 4294967295 (a + x)

/-- The five torque counts updated in the order of R88; the hole record's peak follows the first (R76). -/
def Controller.torqueSample (c : Controller) (pTq : Nat) (x : Sample) : Controller :=
  let peak := max c.peak x.rotation
  let reach := c.reachMark || decide (reachLevel pTq ≤ x.rotation)
  { c with
    peak
    hole := c.hole.map fun h => { h with peak := some peak }
    torqueAcc := satAdd32 c.torqueAcc x.speed
    holdRun := if pTq ≤ x.rotation then c.holdRun + 1 else 0
    reachMark := reach
    slipRun := if reach && decide (x.rotation * 100 < pTq * 40) then c.slipRun + 1 else 0 }

/-- The torque tests, the first that applies (R89). -/
def torqueEnd (c : Controller) (rTq : Nat) : Option SampleEnd :=
  if 250 ≤ c.holdRun then some .achieved
  else if 100 ≤ c.slipRun then some .slippedByPressure
  else if rTq * 30000 < c.torqueAcc then some .slippedByTurns
  else none

/-- The revolutions and the torque counts follow a sample of a RUNNING stage (R66, R88). -/
def State.countSample (s : State) (b : Boom) (x : Sample) : State :=
  let u := s.boom b
  if u.ctl.run ≠ some .running then s
  else if u.ctl.state = .spinning then s.modCtl b fun c => { c with mix := satAdd32 c.mix x.speed }
  else if u.ctl.state = .torquing then
    s.modCtl b fun c => c.torqueSample ((u.anchorage.map Anchorage.pTq).getD 0) x
  else s

/-- The end that the sample brings, judged on the state after the counts (R84 to R89). -/
def sampleEnd (s : State) (b : Boom) (t : Tracked) : Option SampleEnd :=
  let u := s.boom b
  let z := s.params.plan
  let running := u.ctl.run = some .running
  match u.ctl.state with
  | .collaring =>
    if u.tracker.contactSeen ∧ ((z.collarDepth * 800 : Nat) : Int) ≤ u.tracker.depth then some .collarDepth else none
  | .drilling =>
    if depthLimitUnits ≤ u.tracker.maxDepth then some .depthLimit
    else if t.raisedMax ∧ ((u.ctl.hole.map HoleRecord.planDepth).getD 0) * 800 ≤ u.tracker.maxDepth then some .depthReached
    else if t.stall then some .stalled else none
  | .retracting => if u.tracker.depth ≤ -((z.clearDistance * 800 : Nat) : Int) then some .clear else none
  | .inserting =>
    if t.block then some .blockedByRun
    else match t.plate with
      | .early => some .blockedEarly
      | .inPlace => some .inPlace
      | .none => none
  | .spinning => if running ∧ (u.anchorage.map Anchorage.mixTarget).getD 0 ≤ u.ctl.mix then some .mixed else none
  | .torquing => if running then torqueEnd u.ctl z.rTq else none
  | _ => none

/-- A sample's end acted on by the controller (R83). -/
def State.endOnSample (s : State) (b : Boom) (e : SampleEnd) : State :=
  let stance := s.stance b
  match e with
  | .collarDepth => s.endStage b .success none stance
  | .depthReached => s.endStage b .success none stance
  | .depthLimit => s.endStage b (.fault .depthLimit) none stance
  | .stalled => s.endStage b (.fault .stall) none stance
  | .clear =>
    (s.modTracker b fun t => { t with cartridgeBase := t.latestCartridge }).endStage b .success none stance
  | .blockedByRun => s.endStage b (.fault .insertBlocked) none stance
  | .blockedEarly => s.endStage b (.fault .insertBlocked) none stance
  | .inPlace => s.endStage b .success none stance
  | .mixed => s.spinToHold b
  | .achieved => s.endStage b .success none stance
  | .slippedByPressure => s.endStage b (.fault .slipped) none stance
  | .slippedByTurns => s.endStage b (.fault .slipped) none stance

/-! ## Taking an entry (R6) -/

/-- What a FIFO entry is to the depth tracker (R6). -/
inductive Taken where
  | sample (x : Sample)
  | headStatus (code : Nat)
  | dropped
  deriving DecidableEq, Repr

/-- The table of R6; a head-status code of 16 to 255 is dropped (R14). -/
def classifyEntry (e : FifoEntry) : Taken :=
  match e.status, e.payload with
  | .good, some p =>
    if e.kind = some kindSample ∧ p.length = 11 ∧ e.answer = true then .sample (readSample p)
    else if e.kind = some kindHeadStatus ∧ p.length = 2 ∧ (p.getD 1 0).toNat ≤ 15 then .headStatus (p.getD 1 0).toNat
    else .dropped
  | _, _ => .dropped

/-- The oldest entry removed; a take that lowers the occupancy to 1 or 0 clears HOLD_OFF (R6, R7). -/
def HeadLink.takeOldest (l : HeadLink) : HeadLink :=
  { l with fifo := l.fifo.drop 1, holdOff := if l.fifo.length ≤ 2 then false else l.holdOff }

/-- A head status applied (R14): onset, change or recovery. -/
def State.headStatus (s : State) (b : Boom) (code : Nat) : State :=
  let held := (s.boom b).link.headFault
  if held = 0 ∧ code ≠ 0 then
    (s.modLink b fun l => { l with headFault := code, stopLatch := true }).linkFault b .headFault (some code)
  else s.modLink b fun l => { l with headFault := code }

/-- The whole of one take, with what came about in it: whether the encoder reference was dropped, and the end of a stage. -/
structure TakeResult where
  state : State
  refDropped : Bool
  ended : Option SampleEnd

/-- The take of the oldest entry (R6). -/
def State.take (s : State) (b : Boom) : TakeResult :=
  match (s.boom b).link.fifo with
  | [] => { state := s, refDropped := false, ended := none }
  | e :: _ =>
    let s1 := s.modLink b HeadLink.takeOldest
    match classifyEntry e with
    | .dropped => { state := s1, refDropped := false, ended := none }
    | .headStatus code => { state := s1.headStatus b code, refDropped := false, ended := none }
    | .sample x =>
      let t := s1.track b x
      if t.processed then
        let s2 := t.state.countSample b x
        match sampleEnd s2 b t with
        | some e => { state := s2.endOnSample b e, refDropped := false, ended := some e }
        | none => { state := s2, refDropped := false, ended := none }
      else { state := t.state, refDropped := t.refDropped, ended := none }

/-! ## The commands -/

/-- FIFO_TAKE (R6). -/
def execFifoTake (b : Boom) (s : State) : Host.Outcome State Fault Refusal := .next (s.take b).state

/-- A take that is the event named: its effect where the event comes about in it, nothing otherwise. -/
def takeWhen (s : State) (b : Boom) (due : Bool) : State := if due then (s.take b).state else s

/-- ENCODER_REFERENCE_DROP (R19): the take whose glitch brings the glitch run to 16. -/
def execEncoderReferenceDrop (b : Boom) (s : State) : Host.Outcome State Fault Refusal :=
  .next (takeWhen s b (s.take b).refDropped)

/-- BLOCK (R32): the take whose sample brings the block run to 150. -/
def execBlock (b : Boom) (s : State) : Host.Outcome State Fault Refusal :=
  .next (takeWhen s b ((s.take b).ended == some .blockedByRun))

/-- STALL (R31): the take whose sample brings the stall run to 250 and ends DRILLING with it. -/
def execStall (b : Boom) (s : State) : Host.Outcome State Fault Refusal :=
  .next (takeWhen s b ((s.take b).ended == some .stalled))

/-- MIX_TARGET_REACHED (R87): the take whose sample brings the mix accumulator to the mix target. -/
def execMixTargetReached (b : Boom) (s : State) : Host.Outcome State Fault Refusal :=
  .next (takeWhen s b ((s.take b).ended == some .mixed))

/-- TORQUE_ACHIEVED (R89): the take whose sample brings the hold run to 250. -/
def execTorqueAchieved (b : Boom) (s : State) : Host.Outcome State Fault Refusal :=
  .next (takeWhen s b ((s.take b).ended == some .achieved))

/-- SLIPPED (R89): the take whose sample brings the slip run to 100 or the torque accumulator past R_tq revolutions. -/
def execSlipped (b : Boom) (s : State) : Host.Outcome State Fault Refusal :=
  .next (takeWhen s b ((s.take b).ended == some .slippedByPressure || (s.take b).ended == some .slippedByTurns))

end Sys2Proof.Machine
end

