-- ==== Sys2Proof/Machine/Dispatch.lean ====
section
/-! DEFINITION. The dispatch of a command to its meaning, one arm a command. -/
namespace Sys2Proof.Machine

/-- The effect of a command on everything but the queue. -/
def exec (i : Instr) (s : State) : Host.Outcome State Fault Refusal :=
  match i with
  | .powerOn => Sys2Proof.Machine.execPowerOn s
  | .resetNAssert => Sys2Proof.Machine.execResetNAssert s
  | .resetNRelease => Sys2Proof.Machine.execResetNRelease s
  | .startUpSelfTestComplete memoryPass logicPass pins => Sys2Proof.Machine.execStartUpSelfTestComplete memoryPass logicPass pins s
  | .opening => Sys2Proof.Machine.execOpening s
  | .frameClose b bits => Sys2Proof.Machine.execFrameClose b bits s
  | .frameAbort b bits => Sys2Proof.Machine.execFrameAbort b bits s
  | .fifoTake b => Sys2Proof.Machine.execFifoTake b s
  | .encoderReferenceDrop b => Sys2Proof.Machine.execEncoderReferenceDrop b s
  | .block b => Sys2Proof.Machine.execBlock b s
  | .stall b => Sys2Proof.Machine.execStall b s
  | .mixTargetReached b => Sys2Proof.Machine.execMixTargetReached b s
  | .torqueAchieved b => Sys2Proof.Machine.execTorqueAchieved b s
  | .slipped b => Sys2Proof.Machine.execSlipped b s
  | .pollExpiry b => Sys2Proof.Machine.execPollExpiry b s
  | .linkUp b => Sys2Proof.Machine.execLinkUp b s
  | .linkLost b => Sys2Proof.Machine.execLinkLost b s
  | .qualityBlockEnd b => Sys2Proof.Machine.execQualityBlockEnd b s
  | .noContact b => Sys2Proof.Machine.execNoContact b s
  | .holdTimeElapsed b => Sys2Proof.Machine.execHoldTimeElapsed b s
  | .torqueTimeout b => Sys2Proof.Machine.execTorqueTimeout b s
  | .spinLate b => Sys2Proof.Machine.execSpinLate b s
  | .mixIncomplete b => Sys2Proof.Machine.execMixIncomplete b s
  | .torqueMissed b => Sys2Proof.Machine.execTorqueMissed b s
  | .waitTimeout b => Sys2Proof.Machine.execWaitTimeout b s
  | .conversionEnd code => Sys2Proof.Machine.execConversionEnd code s
  | .roundStart => Sys2Proof.Machine.execRoundStart s
  | .breachChange code => Sys2Proof.Machine.execBreachChange code s
  | .monitorFault code => Sys2Proof.Machine.execMonitorFault code s
  | .monitorFaultClear code => Sys2Proof.Machine.execMonitorFaultClear code s
  | .warmupEnd code => Sys2Proof.Machine.execWarmupEnd code s
  | .transferBegin p => Sys2Proof.Machine.execTransferBegin p s
  | .transferEnd p received => Sys2Proof.Machine.execTransferEnd p received s
  | .frameError p => Sys2Proof.Machine.execFrameError p s
  | .unknownKind p => Sys2Proof.Machine.execUnknownKind p s
  | .nop p => Sys2Proof.Machine.execNop p s
  | .clearCause p => Sys2Proof.Machine.execClearCause p s
  | .readStatus p => Sys2Proof.Machine.execReadStatus p s
  | .readLive p => Sys2Proof.Machine.execReadLive p s
  | .readHole p => Sys2Proof.Machine.execReadHole p s
  | .readRow p => Sys2Proof.Machine.execReadRow p s
  | .readFault p => Sys2Proof.Machine.execReadFault p s
  | .readAttributes p => Sys2Proof.Machine.execReadAttributes p s
  | .readMonitor p => Sys2Proof.Machine.execReadMonitor p s
  | .readLink p => Sys2Proof.Machine.execReadLink p s
  | .beginHole b => Sys2Proof.Machine.execBeginHole b s
  | .collar b => Sys2Proof.Machine.execCollar b s
  | .drill b => Sys2Proof.Machine.execDrill b s
  | .retract b => Sys2Proof.Machine.execRetract b s
  | .insert b => Sys2Proof.Machine.execInsert b s
  | .spin b => Sys2Proof.Machine.execSpin b s
  | .torque b => Sys2Proof.Machine.execTorque b s
  | .stop b => Sys2Proof.Machine.execStop b s
  | .abandon b => Sys2Proof.Machine.execAbandon b s
  | .resume b => Sys2Proof.Machine.execResume b s
  | .bitChanged b => Sys2Proof.Machine.execBitChanged b s
  | .supportSet => Sys2Proof.Machine.execSupportSet s
  | .supportReleased => Sys2Proof.Machine.execSupportReleased s
  | .rowAdvance => Sys2Proof.Machine.execRowAdvance s
  | .tramDone => Sys2Proof.Machine.execTramDone s
  | .waive => Sys2Proof.Machine.execWaive s
  | .clearOverflow => Sys2Proof.Machine.execClearOverflow s
  | .setPlan => Sys2Proof.Machine.execSetPlan s
  | .flowTram => Sys2Proof.Machine.execFlowTram s
  | .flowSupport => Sys2Proof.Machine.execFlowSupport s
  | .flowRelease => Sys2Proof.Machine.execFlowRelease s
  | .writeZone => Sys2Proof.Machine.execWriteZone s
  | .loadZone => Sys2Proof.Machine.execLoadZone s
  | .saveWear => Sys2Proof.Machine.execSaveWear s
  | .pageWriteComplete => Sys2Proof.Machine.execPageWriteComplete s
  | .loadComplete => Sys2Proof.Machine.execLoadComplete s
  | .saveComplete => Sys2Proof.Machine.execSaveComplete s
  | .selfCheck => Sys2Proof.Machine.execSelfCheck s
  | .checkStepEnd code => Sys2Proof.Machine.execCheckStepEnd code s
  | .reset pins => Sys2Proof.Machine.execReset pins s
  | .flagSeen b bits => Sys2Proof.Machine.execFlagSeen b bits s
  | .frameStart b bits => Sys2Proof.Machine.execFrameStart b bits s
  | .syncLostToHunt b bits => Sys2Proof.Machine.execSyncLostToHunt b bits s
  | .powerOff => Sys2Proof.Machine.execPowerOff s

end Sys2Proof.Machine
end

