-- ==== Sys2Proof/Machine/Tick.lean ====
section
/-! DEFINITION. One millisecond of the free-running counter: every timer that runs counts, and the expiries that need nothing from
outside join the queue (DESIGN CHOICE, log 5). -/
namespace Sys2Proof.Machine

/-- A running timer one millisecond on. -/
def Controller.countMechanical (c : Controller) : Controller :=
  if c.run = some .running then
    { c with
      collarTimer := c.collarTimer.map (· + 1), torqueTime := c.torqueTime.map (· + 1), holdTimer := c.holdTimer.map (· + 1) }
  else c

/-- The resin timers and the between-stage timer count in every run condition (R92, R93). -/
def Controller.countAlways (c : Controller) : Controller :=
  { c with
    insertToSpin := c.insertToSpin.map (· + 1), gelDeadline := c.gelDeadline.map (· + 1)
    torqueWindow := c.torqueWindow.map (· + 1), betweenStage := c.betweenStage.map (· + 1) }

/-- The poll timer of a running link (R8). -/
def HeadLink.count (l : HeadLink) : HeadLink := if l.running then { l with pollTimer := l.pollTimer + 1 } else l

/-- A boom's timers (section 1.4, section 5.6). -/
def BoomUnit.count (u : BoomUnit) : BoomUnit := { u with link := u.link.count, ctl := u.ctl.countMechanical.countAlways }

/-- The conversion or the sleep in progress (R140). -/
def Monitor.count (m : Monitor) : Monitor := if m.round = .stopped then m else { m with roundTimer := m.roundTimer + 1 }

/-- The memory operation in flight (section 11.3). -/
def MemoryController.count (m : MemoryController) : MemoryController :=
  if m.op = .none then m else { m with opTimer := m.opTimer + 1 }

/-- The step of a running check (R191). -/
def SelfCheck.count (c : SelfCheck) : SelfCheck := if c.running then { c with stepTimer := c.stepTimer + 1 } else c

/-- A command, where it is due. -/
def dueCommand (due : Bool) (c : Instr) : List Instr := if due then [c] else []

/-- The expiries of a boom's timers that are due. -/
def State.boomDue (s : State) (b : Boom) : List Instr :=
  dueCommand (s.boom b).link.pollDue (.pollExpiry b) ++ dueCommand (s.noContactDue b) (.noContact b) ++
    dueCommand (s.holdDue b) (.holdTimeElapsed b) ++ dueCommand (s.torqueTimeoutDue b) (.torqueTimeout b) ++
    dueCommand (s.spinLateDue b) (.spinLate b) ++ dueCommand (s.mixIncompleteDue b) (.mixIncomplete b) ++
    dueCommand (s.torqueMissedDue b) (.torqueMissed b) ++ dueCommand (s.waitTimeoutDue b) (.waitTimeout b)

/-- Every expiry that is due and needs nothing from outside. -/
def State.due (s : State) : List Instr :=
  s.boomDue .left ++ s.boomDue .right ++ dueCommand s.monitor.roundDue .roundStart ++
    dueCommand s.mem.pageDue .pageWriteComplete ++ dueCommand s.mem.loadDue .loadComplete ++
    dueCommand s.mem.saveDue .saveComplete

/-- A list in an order that free values give: each place takes one of what is left (R83, R110). `n` is the first free value used. -/
def freeOrder : Nat → Nat → List Instr → List Instr
  | 0, _, _ => []
  | _ + 1, _, [] => []
  | _ + 1, _, [c] => [c]
  | k + 1, n, c :: d :: cs =>
    let i := Config.dueOrder n % (cs.length + 2)
    ((c :: d :: cs)[i]?).toList ++ freeOrder k (n + 1) ((c :: d :: cs).eraseIdx i)

/-- Every running timer one millisecond on. -/
def State.countTimers (s : State) : State :=
  { s with
    left := s.left.count, right := s.right.count, monitor := s.monitor.count, mem := s.mem.count, check := s.check.count }

/-- One millisecond. Without power nothing counts, and in reset the counter stands at its reset value. -/
def State.tick (s : State) : State :=
  match s.phase with
  | .off => s
  | .inReset => s
  | .selfTest => { s with millis := s.millis + 1 }
  | .zonesRead _ => { s with millis := s.millis + 1 }
  | .operating =>
    let s1 := { s with millis := s.millis + 1 }.countTimers
    { s1 with pending := freeOrder s1.due.length s1.free s1.due, free := s1.free + s1.due.length }

end Sys2Proof.Machine
end

