-- ==== Sys2Proof/Safety.lean ====
section
/-! DEFINITION. The terms that the statements use: the laws that the manual says its rules keep, what a command leaves alone, and when a
port's request is taken. -/
namespace Sys2Proof.Machine

/-! ## Laws of the state -/

/-- The configuration memory and the zone image stand in canonical form. -/
def State.memorySound (s : State) : Prop := Memory.wf s.mem.memory = true ∧ Memory.wf s.mem.image = true

/-- The zone image holds exactly what the memory holds, from the zone pass on (section 11.2). -/
def State.imageCurrent (s : State) : Prop := s.phase = .operating ∨ (∃ a, s.phase = .zonesRead a) → s.mem.image = s.mem.memory

/-- "The sum of all grants held by the two booms and the machine never exceeds Q_avail." (R105) -/
def State.flowSound (s : State) : Prop := grantSum s.arbiter.demands ≤ s.arbiter.qAvail

/-- Both logs keep their places, pointers and counts within bounds (R134, R166). -/
def State.logsSound (s : State) : Prop :=
  (s.holeLog.places.length = 32 ∧ s.holeLog.pointer ≤ 32 ∧ s.holeLog.count ≤ 65535) ∧
    (s.faultLog.places.length = 8 ∧ s.faultLog.pointer ≤ 8 ∧ s.faultLog.count ≤ 65535)

/-- Depth and maximum depth lie within their ranges (R20, R23). -/
def DepthTracker.depthSound (t : DepthTracker) : Prop :=
  -8388608 ≤ t.depth ∧ t.depth ≤ 8388607 ∧ t.maxDepth ≤ 2040000

/-- Each receive FIFO holds at most four entries (section 1.3), and both depths lie within their ranges. -/
def State.headsSound (s : State) : Prop :=
  ∀ b, (s.boom b).link.fifo.length ≤ 4 ∧ (s.boom b).tracker.depthSound

/-- Each recent-request list holds at most four entries (R176). -/
def State.listsSound (s : State) : Prop := ∀ p, (s.port p).recent.length ≤ 4

/-- The demand list agrees with the stages (R106, R107): a boom has one entry, of its stage's kind, while a stage is in progress and
not SUSPENDED, and none otherwise. -/
def State.demandsSound (s : State) : Prop :=
  ∀ b, (s.arbiter.demands.filter fun d => d.owner == b.port).map Demand.kind =
    if (s.boom b).ctl.state.isStage = true ∧ (s.boom b).ctl.run ≠ some .suspended
    then [(s.boom b).ctl.state.demandKind] else []

/-- One boom's stage and hole agree with the rest of the machine. A run condition stands exactly in a stage state (R74). A stage in
progress has its link UP and a head without a fault (R75), and unless it is SUSPENDED none of its suspending interlocks is active (R98).
While the stage is RUNNING the stop latch is clear (R9) and the first-run mark set (R75). The boom holds a hole record and claims a slot
exactly when it is not IDLE (R74, R119). A peak in the hole record is the controller's peak (R76, R88). -/
def State.boomLawful (s : State) (b : Boom) : Prop :=
  let u := s.boom b
  u.ctl.run.isSome = u.ctl.state.isStage ∧
    (u.ctl.state.isStage = true → u.link.state = .up ∧ u.link.headFault = 0 ∧
      (u.ctl.run ≠ some .suspended → s.interlocks.inter (suspenders u.ctl.state) = Interlocks.empty)) ∧
    (u.ctl.run = some .running → u.link.stopLatch = false ∧ u.ctl.firstRun = true) ∧
    (u.ctl.hole = none ↔ u.ctl.state = .idle) ∧
    (u.ctl.hole.bind HoleRecord.peak = none ∨ u.ctl.hole.bind HoleRecord.peak = some u.ctl.peak) ∧
    ((∀ sl ∈ s.rowMap.slots, sl.state ≠ .claimed b) ↔ u.ctl.state = .idle)

/-- The row keeps its numbers (R119): planned slots from 0, at most 8; supplementary slots from 8. A pending plan has at most 8 slots.
With the tram permitted no slot is claimed, and a TRAM demand stands in the list only with the tram permitted (R108). -/
def State.rowLawful (s : State) : Prop :=
  let m := s.rowMap
  m.planned.map Slot.number = List.range m.planned.length ∧ m.planned.length ≤ 8 ∧
    m.supplementary.map Slot.number = (List.range m.supplementary.length).map (8 + ·) ∧
    (∀ plan, m.pendingPlan = some plan → plan.length ≤ 8) ∧
    (m.tramPermitted = true → ∀ sl ∈ m.slots, ∀ b, sl.state ≠ .claimed b) ∧
    ∀ d ∈ s.arbiter.demands, d.owner = .machine → d.kind = .tram → m.tramPermitted = true

/-- Outside operation the demand list is empty, every port is closed, holds a reply and has no transfer begun in PENDING, and both booms
are IDLE (R118, R174, R193). -/
def State.phaseLawful (s : State) : Prop :=
  s.phase ≠ .operating →
    s.arbiter.demands = [] ∧
    (∀ p, (s.port p).isOpen = false ∧ (∃ r, (s.port p).reply = .pending r) ∧ (s.port p).transfer ≠ some .begunPending) ∧
      ∀ b, (s.boom b).ctl.state = .idle

/-- A head link runs exactly in operation, with its boom enabled, and a stopped one has no frame on its line: stopped by each reset, it
starts with the opening, and the link of a disabled boom stays stopped (R17). -/
def State.linksLawful (s : State) : Prop :=
  ∀ b, (s.boom b).link.running = (s.phase == .operating && s.enabled b) ∧
    ((s.boom b).link.running = false → (s.boom b).link.sent = none)

/-- The laws that tie the booms, the row, the arbiter, the ports and the head links together. -/
def State.lawful (s : State) : Prop := (∀ b, s.boomLawful b) ∧ s.rowLawful ∧ s.phaseLawful ∧ s.linksLawful

/-- The run conditions agree with the grants (R75): a boom with an entry in the demand list is RUNNING exactly while its grant is at least
the entry's floor. Every floor, in the list and in the live zone 5, is above 0 (section 6.1). -/
def State.grantsRun (s : State) : Prop :=
  (∀ k, 0 < (flowOf s.params.plan k).floor) ∧ (∀ d ∈ s.arbiter.demands, 0 < d.floor) ∧
    ∀ b d, boomDemand s.arbiter.demands b = some d → ((s.boom b).ctl.run = some .running ↔ d.floor ≤ d.grant)

/-- A stage in progress follows its grant from one state to the next (R75, R92): with an entry in the list it is RUNNING where the grant
is at least the floor, and otherwise PAUSED if it was RUNNING or PAUSED and WAIT_FLOW if not. A stage that becomes RUNNING has its
first-run mark set and its stop latch clear; its first run stops insert-to-spin and starts the gel deadline in SPINNING, and stops the
torque window in TORQUING. -/
def State.runFollows (s t : State) (b : Boom) : Prop :=
  let c := (s.boom b).ctl
  let k := (t.boom b).ctl
  c.state.isStage = true → k.state = c.state → ∀ d, boomDemand t.arbiter.demands b = some d →
    k.run = some (if d.floor ≤ d.grant then .running else if c.run = some .running ∨ c.run = some .paused then .paused else .waitFlow) ∧
      (k.run = some .running → c.run ≠ some .running →
        k.firstRun = true ∧ (t.boom b).link.stopLatch = false ∧
          (c.firstRun = false → (c.state = .spinning → k.insertToSpin = none ∧ k.gelDeadline = some 0) ∧
            (c.state = .torquing → k.torqueWindow = none)))

/-- The part drives a head link (R1): its clock at the HEAD_RATE rate, and on data, from bit 0 on, the bits named and behind them flags
back to back. -/
def State.drives (s : State) (b : Boom) (bits : List Bool) : Prop :=
  let flag := [false, true, true, true, true, true, true, false]
  s.headClock b = some (if s.straps.fast then 2000 else 1000) ∧
    (∀ i x, bits[i]? = some x → s.headData b i = some x) ∧
    ∀ j k x, flag[k]? = some x → s.headData b (bits.length + 8 * j + k) = some x

/-- The part drives neither clock nor data on a head link (R17). -/
def State.drivesNothing (s : State) (b : Boom) : Prop := s.headClock b = none ∧ ∀ i, s.headData b i = none

/-- The layer list of a boom keeps its laws (R49): at most 16 layers, the first from depth 0, each from the bottom of the one before
it and of another class. The ground handed on reaches to the bottom of the last layer, the open slice begins there, and before contact,
which COLLARED and every later state has behind it, there is neither. -/
def BoomUnit.layersSound (u : BoomUnit) : Prop :=
  let ls := u.classifier.layers
  ls.length ≤ 16 ∧ (∀ l, ls.head? = some l → l.top = 0) ∧
    (∀ i a b, ls[i]? = some a → ls[i + 1]? = some b → b.top = a.bottom ∧ a.ground ≠ b.ground) ∧
    ls.getLast?.map Layer.bottom = u.tracker.handedBottom ∧
    (∀ o, u.tracker.slice = some o → o.top = u.tracker.handedBottom.getD 0) ∧
    (u.tracker.contactSeen = false → u.tracker.handedBottom = none ∧ u.tracker.slice = none ∧
      (u.ctl.state = .idle ∨ u.ctl.state = .holeOpen ∨ u.ctl.state = .collaring))

/-! ## What a command leaves alone -/

/-- A port but for its cause flags. -/
def MasterPort.quiet (port : MasterPort) : MasterPort := { port with causes := Causes.clear }

/-- What no stage, slice, grant, close or interlock touches: the phase and the pins, the counter, the configuration, the memory
controller, the self-check unit, the queue, and every port but for its cause flags. -/
structure Backdrop where
  phase : Phase
  resetNLow : Bool
  straps : Straps
  postFail : Bool
  millis : Millis
  params : Params
  mem : MemoryController
  check : SelfCheck
  free : Nat
  pending : List Instr
  portLeft : MasterPort
  portRight : MasterPort
  portMachine : MasterPort
  deriving DecidableEq, Repr

/-- The backdrop of a state. -/
def State.backdrop (s : State) : Backdrop :=
  { phase := s.phase, resetNLow := s.resetNLow, straps := s.straps, postFail := s.postFail, millis := s.millis
    params := s.params, mem := s.mem, check := s.check, free := s.free, pending := s.pending
    portLeft := s.portLeft.quiet, portRight := s.portRight.quiet, portMachine := s.portMachine.quiet }

/-- A boom but for what a changed grant can move (R9, R75, R92): the run condition, the first-run mark, the resin timers and the
stop latch. -/
def BoomUnit.ungranted (u : BoomUnit) : BoomUnit :=
  { u with
    link := { u.link with stopLatch := false }
    ctl :=
      { u.ctl with run := none, firstRun := false, insertToSpin := none, gelDeadline := none, torqueWindow := none } }

/-- A command of one boom leaves the rest of the machine: the backdrop, the monitor, and of the other boom all but what a changed
grant moves. -/
def State.elsewhere (s t : State) (b : Boom) : Prop :=
  t.backdrop = s.backdrop ∧ t.monitor = s.monitor ∧ (t.boom (otherBoom b)).ungranted = (s.boom (otherBoom b)).ungranted

/-- Every slot of the row but the one that a boom claims stays in the row as it was. -/
def State.otherSlotsKept (s t : State) (b : Boom) : Prop :=
  ∀ sl ∈ s.rowMap.slots, sl.state ≠ .claimed b → sl ∈ t.rowMap.slots

/-! ## Samples -/

/-- The oldest entry of a boom's FIFO is a sample that answers its poll (R6), with its fields as R18 reads them. -/
def State.nextSample (s : State) (b : Boom) (x : Sample) : Prop :=
  ∃ p rest, (s.boom b).link.fifo = { status := .good, kind := some 0x10, payload := some p, answer := true } :: rest ∧
    p.length = 11 ∧ x = readSample p

/-- A sample that is no glitch: the reference is absent, or the delta has magnitude 2,000 or less (R19). -/
def DepthTracker.accepts (t : DepthTracker) (x : Sample) : Prop :=
  ∀ r, t.encoderRef = some r → -2000 ≤ (x.count - r).toInt ∧ (x.count - r).toInt ≤ 2000

/-- Depth after a sample that is no glitch (R20, R22): 0 at collar contact; otherwise moved by the encoder delta times 8M + N, the delta
0 without a reference, and kept within its range. -/
def State.depthAfter (s : State) (b : Boom) (x : Sample) : Int :=
  let u := s.boom b
  if u.ctl.state = .collaring ∧ x.collar = true ∧ u.tracker.contactSeen = false then 0
  else max (-8388608) (min 8388607 (u.tracker.depth +
    (match u.tracker.encoderRef with
      | some r => (x.count - r).toInt
      | none => 0) * (8 * (s.calib b).m + (s.calib b).n : Nat)))

/-- Maximum depth after a sample behind contact in COLLARING or DRILLING (R23): raised to the new depth, at most 2,550 mm. -/
def State.deepestAfter (s : State) (b : Boom) (x : Sample) : Nat :=
  max (s.boom b).tracker.maxDepth (min (s.depthAfter b x).toNat 2040000)

/-- The open slice after a sample (R23, R27): it is added if the bit is at the face, within 1 mm of maximum depth, the stage is RUNNING
and the slice is not saturated. -/
def State.sliceAfter (s : State) (b : Boom) (x : Sample) (o : OpenSlice) : OpenSlice :=
  let u := s.boom b
  if (u.tracker.maxDepth : Int) - 800 ≤ s.depthAfter b x ∧ u.ctl.run = some .running ∧ o.saturated = false then
    { o with
      sf := o.sf + (x.feed - u.tracker.z), sr := o.sr + x.rotation * x.speed, n := o.n + 1, nSpan := min 65535 (o.nSpan + 1)
      saturated := decide (65535 ≤ o.n + 1) }
  else o

/-- A missing poll counted in the open slice (R28), while the stage cuts ground RUNNING and the slice is not saturated. -/
def State.sliceMissed (s : State) (b : Boom) : Option OpenSlice :=
  let u := s.boom b
  u.tracker.slice.map fun o =>
    if (u.ctl.state = .collaring ∨ u.ctl.state = .drilling) ∧ u.ctl.run = some .running ∧ o.saturated = false
    then { o with nSpan := min 65535 (o.nSpan + 1) } else o

/-- Slices handed on, shallowest first (R29, R43, R156): each is classified with the W that the lengths before it gave, and its length
then joins the ground drilled on the bit. -/
def State.handed (s : State) (b : Boom) (cs : List ClosedSlice) : Classifier × WearTable :=
  cs.foldl (fun r c =>
    ((classify s.params.classifier (s.calib b) r.2.w r.1 c).classifier, r.2.addGround s.params.classifier.wearRate (c.bottom - c.top)))
    ((s.boom b).classifier, (s.boom b).wear)

/-- One of the slices handed on raises LAYER (R52, R54). -/
def State.raisesLayer (s : State) (b : Boom) (cs : List ClosedSlice) : Prop :=
  ∃ pre c post, cs = pre ++ c :: post ∧
    (classify s.params.classifier (s.calib b) (s.handed b pre).2.w (s.handed b pre).1 c).raiseLayer = true

/-- The ground of one of the slices handed on makes BIT_WEAR cross or recover (R154, R156). -/
def State.crossesWear (s : State) (b : Boom) (cs : List ClosedSlice) : Prop :=
  ∃ pre c post, cs = pre ++ c :: post ∧ (s.handed b pre).2.bitWear.crossed ≠ (s.handed b (pre ++ [c])).2.bitWear.crossed

/-- One of the slices handed on brings more than 16 layers, so that a merge marks the hole (R53). -/
def State.overflowsLayers (s : State) (b : Boom) (cs : List ClosedSlice) : Prop :=
  ∃ pre c post, cs = pre ++ c :: post ∧
    (classify s.params.classifier (s.calib b) (s.handed b pre).2.w (s.handed b pre).1 c).overflow = true

/-- LAYER after slices are handed on: set where it was, and raised on the boom's port where a slice calls for it and the boom's pin
enables it (R52, R54, R177). -/
def State.layerFlag (s t : State) (b : Boom) (cs : List ClosedSlice) : Prop :=
  (t.port b.port).causes.c5 = true ↔ (s.port b.port).causes.c5 = true ∨ (s.enabled b = true ∧ s.raisesLayer b cs)

/-- WEAR after an act that makes an attribute of the boom cross or recover, or does not: set where it was, and raised for it on the boom's
port, where its pin enables it, and on the machine port (R154, R177). -/
def State.wearFlags (s t : State) (b : Boom) (turned : Prop) : Prop :=
  ((t.port b.port).causes.c6 = true ↔ (s.port b.port).causes.c6 = true ∨ (s.enabled b = true ∧ turned)) ∧
    (t.portMachine.causes.c7 = true ↔ s.portMachine.causes.c7 = true ∨ turned)

/-- LAYER and WEAR after slices are handed on. -/
def State.sliceFlags (s t : State) (b : Boom) (cs : List ClosedSlice) : Prop :=
  s.layerFlag t b cs ∧ s.wearFlags t b (s.crossesWear b cs)

/-- A sample that is no glitch and finds no test to make: it leaves the FIFO, with HOLD_OFF, and moves the boom, the cartridge count, the
feed window in HOLE_OPEN and the sample that READ_LIVE shows (as not at the face: log 40) (R6, R7, R19, R20, R24, R33, R34). -/
def State.sampled (s : State) (b : Boom) (x : Sample) : State :=
  (s.modLink b fun l =>
    { l with fifo := l.fifo.drop 1, holdOff := if l.fifo.length ≤ 2 then false else l.holdOff }).modTracker b fun k =>
      { k with
        encoderRef := some x.count, glitchRun := if k.encoderRef.isSome then 0 else k.glitchRun
        latestCartridge := some x.cartridges, depth := s.depthAfter b x
        window := if (s.boom b).ctl.state = .holeOpen then appendCapped 25 k.window x.feed else k.window
        lastSample :=
          { atFace := false, feed := x.feed - k.z, rotation := x.rotation, speed := x.speed, collar := x.collar
            plate := x.plate, atStop := x.atStop } }

/-- The open slice that a stage end settles where no sample goes before it (R30): closed with 1 mm or more of ground. -/
def State.settledNow (s : State) (b : Boom) : List ClosedSlice :=
  let t := (s.boom b).tracker
  if (s.boom b).ctl.state = .collaring ∨ (s.boom b).ctl.state = .drilling then
    match t.slice with
    | some o =>
      if 800 ≤ t.maxDepth - o.top then
        [ { top := o.top, bottom := t.maxDepth, sf := o.sf, sr := o.sr, n := o.n, nSpan := o.nSpan, saturated := o.saturated } ]
      else []
    | none => []
  else []

/-- The open slice that the loss of a link settles, with the missed poll that brings it about counted in it (R12, R28, R30). -/
def State.settledLost (s : State) (b : Boom) : List ClosedSlice :=
  (s.modTracker b fun k => { k with slice := s.sliceMissed b }).settledNow b

/-- How many slice boundaries a sample reaches, where it extends new ground (R23, R29). -/
def State.boundariesReached (s : State) (b : Boom) (x : Sample) (o : OpenSlice) : Nat :=
  if (s.boom b).tracker.maxDepth < s.deepestAfter b x then (s.deepestAfter b x - o.start) / 8000 else 0

/-- The slices that a sample closes at boundaries, shallowest first (R29): the open slice with the sample in it, then each skipped span,
which has no samples. -/
def State.cutsAt (s : State) (b : Boom) (x : Sample) : List ClosedSlice :=
  match (s.boom b).tracker.slice with
  | none => []
  | some o =>
    let p := s.sliceAfter b x o
    match s.boundariesReached b x o with
    | 0 => []
    | k + 1 =>
      { top := p.top, bottom := o.start + 8000, sf := p.sf, sr := p.sr, n := p.n, nSpan := p.nSpan, saturated := p.saturated } ::
        (List.range k).map fun i =>
          { top := o.start + 8000 * (i + 1), bottom := o.start + 8000 * (i + 2), sf := 0, sr := 0, n := 0, nSpan := 0, saturated := false }

/-- The open slice behind a sample (R26, R27, R29): as it was with the sample in it, or a new one from the last boundary reached. -/
def State.openAfter (s : State) (b : Boom) (x : Sample) : Option OpenSlice :=
  (s.boom b).tracker.slice.map fun o =>
    let last := o.start + 8000 * s.boundariesReached b x o
    if s.boundariesReached b x o = 0 then s.sliceAfter b x o
    else { start := last, top := last, sf := 0, sr := 0, n := 0, nSpan := 0, saturated := false }

/-- The slices that a sample closes which ends the stage (R29, R30): those at boundaries, then the open slice if it holds 1 mm or more. -/
def State.settledAt (s : State) (b : Boom) (x : Sample) : List ClosedSlice :=
  s.cutsAt b x ++
    match s.openAfter b x with
    | some o =>
      if 800 ≤ s.deepestAfter b x - o.top then
        [ { top := o.top, bottom := s.deepestAfter b x, sf := o.sf, sr := o.sr, n := o.n, nSpan := o.nSpan, saturated := o.saturated } ]
      else []
    | none => []

/-- The stall run and its base after a sample that leaves DRILLING in progress (R31). In DRILLING RUNNING a sample at the face and at the
stall pressure counts, until there is 1 mm of new ground from the base, which is maximum depth before the first of them; any other ends
the run. Elsewhere both stay. -/
def State.stallAfter (s : State) (b : Boom) (x : Sample) : Nat × Nat :=
  let k := (s.boom b).tracker
  let base := if k.stallCount = 0 then k.maxDepth else k.stallBase
  if (s.boom b).ctl.state = .drilling ∧ (s.boom b).ctl.run = some .running then
    if (k.maxDepth : Int) - 800 ≤ s.depthAfter b x ∧ s.params.plan.stallPressure ≤ x.feed - k.z then
      (if s.deepestAfter b x < base + 800 then k.stallCount + 1 else 0, base)
    else (0, k.stallBase)
  else (k.stallCount, k.stallBase)

/-- The block run after a sample in INSERTING (R32): above the insert line, 150 mm before the depth of the anchorage result, and at the
block pressure it goes up by one; any other sample ends it. -/
def State.blockAfter (s : State) (b : Boom) (x : Sample) (a : Anchorage) : Nat :=
  let k := (s.boom b).tracker
  if s.depthAfter b x < ((a.d : Int) - 150) * 800 ∧ s.params.plan.blockPressure ≤ x.feed - k.z then k.blockRun + 1 else 0

/-- The five torque counts, and the peak in the hole record, after a sample of TORQUING RUNNING (R76, R88). -/
def Controller.torqued (c : Controller) (a : Anchorage) (x : Sample) : Controller :=
  let reach := c.reachMark || decide (a.pTq * 60 ≤ x.rotation * 100)
  { c with
    peak := max c.peak x.rotation, hole := c.hole.map fun h => { h with peak := some (max c.peak x.rotation) }
    torqueAcc := min 4294967295 (c.torqueAcc + x.speed)
    holdRun := if a.pTq ≤ x.rotation then c.holdRun + 1 else 0
    reachMark := reach
    slipRun := if reach = true ∧ x.rotation * 100 < a.pTq * 40 then c.slipRun + 1 else 0 }

/-! ## Polls -/

/-- The link after a poll expiry that leaves it in a state and with a stop latch, and sends a stage code and a grant (R2, R8, R11, R16):
the poll outstanding is judged in the two runs, the poll is counted, a complete block of 1,024 starting afresh with its error count kept,
the sequence goes up by one and is outstanding, and a setpoint frame is sent with its check bytes. -/
def State.expired (s : State) (b : Boom) (state : LinkState) (latch : Bool) (stage grant : Nat) : HeadLink :=
  let l := (s.boom b).link
  let body : List Byte :=
    [BitVec.ofNat 8 (s.calib b).headAddress, 0x01, l.pollSeq + 1, BitVec.ofNat 8 stage] ++ bytesLE 2 grant ++
      [BitVec.ofNat 8 (latch.toNat + 2 * l.holdOff.toNat)]
  let whole : Bool := decide (1023 ≤ l.blockPolls)
  { l with
    state, stopLatch := latch
    answeredRun := if l.outstanding = none then l.answeredRun else if l.answered then min 255 (l.answeredRun + 1) else 0
    missedRun := if l.outstanding = none then l.missedRun else if l.answered then 0 else min 255 (l.missedRun + 1)
    blockPolls := if whole then 0 else l.blockPolls + 1
    blockErrors := if whole then 0 else l.blockErrors
    lastBlockErrors := if whole then l.blockErrors else l.lastBlockErrors
    pollSeq := l.pollSeq + 1, outstanding := some (l.pollSeq + 1), answered := false, pollTimer := 0
    sent := some (body ++ bytesOfBits (checkBits (body.flatMap bitsLsb))) }

/-- LINK_QUALITY after a poll expiry (R154, R159): evaluated on the error count of the block where the expiry completes one. -/
def State.qualityAfter (s : State) (b : Boom) : Attr :=
  let l := (s.boom b).link
  let a := (s.boom b).wear.linkQuality
  let norm := 253 - min 252 (4 * l.blockErrors)
  if 1023 ≤ l.blockPolls then
    { a with raw := l.blockErrors, norm, worst := min a.worst norm, crossed := decide (norm ≤ a.threshold) }
  else a

/-- The expiry makes LINK_QUALITY cross or recover (R154). -/
def State.qualityTurns (s : State) (b : Boom) : Prop := (s.qualityAfter b).crossed ≠ (s.boom b).wear.linkQuality.crossed

/-- A poll expiry without a loss, which leaves the link as given: a missed poll counts in the open slice, LINK_QUALITY follows a complete
block with WEAR on a turn, and nothing else changes. -/
def State.expires (s t : State) (b : Boom) (link : HeadLink) : Prop :=
  let u := s.boom b
  t.backdrop = s.backdrop ∧ t.monitor = s.monitor ∧ t.rowMap = s.rowMap ∧ t.arbiter = s.arbiter ∧ t.holeLog = s.holeLog ∧
    t.faultLog = s.faultLog ∧ t.boom (otherBoom b) = s.boom (otherBoom b) ∧
    t.boom b =
      { u with
        link
        tracker :=
          { u.tracker with
            slice := if u.link.outstanding.isSome = true ∧ u.link.answered = false then s.sliceMissed b else u.tracker.slice }
        wear := { u.wear with linkQuality := s.qualityAfter b } } ∧
    s.wearFlags t b (s.qualityTurns b) ∧
    t.portMachine.causes = { s.portMachine.causes with c7 := t.portMachine.causes.c7 } ∧
    (t.port b.port).causes = { (s.port b.port).causes with c6 := (t.port b.port).causes.c6 } ∧
    (t.port (otherBoom b).port).causes = (s.port (otherBoom b).port).causes

/-! ## The layer list -/

/-- A class that may be merged: neither VOID nor UNMEASURED (R51, R53). -/
def Layer.mayMerge (l : Layer) : Prop := l.ground ≠ .void ∧ l.ground ≠ .unmeasured

/-- Two neighbouring layers as one of the class given: extents joined, counts, sums and flags added (R49, R54). -/
def Layer.joined (a b : Layer) (g : Ground) : Layer :=
  { top := a.top, bottom := b.bottom, ground := g, slices := a.slices + b.slices, measured := a.measured + b.measured
    sumH := a.sumH + b.sumH, isPartial := a.isPartial || b.isPartial, saturated := a.saturated || b.saturated }

/-- The layers at two indices may merge, `i` being closed: a candidate of R53 with its neighbour `j`. -/
def mayPair (ls : List Layer) (i j : Nat) : Prop :=
  i + 1 < ls.length ∧ (j + 1 = i ∨ j = i + 1) ∧ (∀ l, ls[i]? = some l ∨ ls[j]? = some l → l.mayMerge)

/-- The slice count at an index. -/
def slicesOf (ls : List Layer) (i : Nat) : Nat := (ls[i]?.map Layer.slices).getD 0

/-- `i` is the candidate that R53 chooses, and `j` its partner: the fewest slices, the shallowest on a tie; the neighbour with the fewer
slices, the one before it on a tie. -/
def chosenPair (ls : List Layer) (i j : Nat) : Prop :=
  mayPair ls i j ∧
    (∀ k m, mayPair ls k m → slicesOf ls i ≤ slicesOf ls k ∧ (slicesOf ls k = slicesOf ls i → i ≤ k)) ∧
    ∀ m, mayPair ls i m → slicesOf ls j ≤ slicesOf ls m ∧ (slicesOf ls m = slicesOf ls j → j ≤ m)

/-- `new` is the list after the merge of R54: the pair as one layer of the class of the one with more slices, the partner's on a tie, and
joined with the layer before it or after it where that one has the same class. -/
def mergedTo (ls new : List Layer) : Prop :=
  ∃ i j, chosenPair ls i j ∧ ∃ pre post a b c p, ls = pre ++ a :: b :: post ∧ pre.length = min i j ∧
    ls[i]? = some c ∧ ls[j]? = some p ∧
    let one := a.joined b (if p.slices < c.slices then c.ground else p.ground)
    (∀ l before, pre = before ++ [l] → l.ground = one.ground → new = before ++ l.joined one one.ground :: post) ∧
      (∀ l after, post = l :: after → l.ground = one.ground → (∀ k, pre.getLast? = some k → k.ground ≠ one.ground) →
        new = pre ++ one.joined l one.ground :: after) ∧
      ((∀ k, pre.getLast? = some k → k.ground ≠ one.ground) → (∀ k, post.head? = some k → k.ground ≠ one.ground) →
        new = pre ++ one :: post)

/-! ## What a fault leaves -/

/-- The record of a boom fault (R96, R165): the time, the boom as its source, the code and the detail, the boom's state and run condition
as they stood when the fault arose, the other boom's absent, the depth in millimetres, the interlock set and the recent-request list of
the boom's port. -/
def State.faultRecord (s t : State) (b : Boom) (f : FaultCode) (detail : Option Nat) : FaultRecord :=
  { time := s.millis, source := if b = .left then .left else .right, code := f, detail
    left := if b = .left then some ((s.boom b).ctl.state, (s.boom b).ctl.run) else none
    right := if b = .right then some ((s.boom b).ctl.state, (s.boom b).ctl.run) else none
    depth := some ((t.boom b).tracker.depth / 800), interlocks := t.interlocks, recent := (s.port b.port).recent }

/-- One record written to the fault log for a boom fault, and STAGE_FAULT raised on the boom's port (R96, R165, R166, R177). -/
def State.faultWritten (s t : State) (b : Boom) (f : FaultCode) (detail : Option Nat) : Prop :=
  t.faultLog = s.faultLog.record (s.faultRecord t b f detail) ∧ (s.enabled b = true → (t.port b.port).causes.c2 = true)

/-- FLOW after one allocation: set where it was, and raised on the port of each owner of which a grant has changed, an entry that is not
in a list holding 0; not on the port of a boom disabled by its pin (R114, R115, R177). -/
def State.flowFlags (s t : State) : Prop :=
  ∀ p, (t.port p).causes.c4 = true ↔ (s.port p).causes.c4 = true ∨
    (s.absentPort p = false ∧ ∃ k, grantOf s.arbiter.demands p k ≠ grantOf t.arbiter.demands p k)

/-- The row after a hole of a boom in a slot closes with a grade (R125, R126): the claim is released, the slot OPEN for X and BOLTED with
the grade otherwise; C and F add a supplementary slot, or set the overflow flag where there are four. -/
def State.rowClosed (s : State) (b : Boom) (sl : Slot) (g : Grade) : RowMap :=
  let free (x : Slot) : Slot := if x.state = .claimed b then { x with state := if g = .x then .isOpen else .bolted g } else x
  let m : RowMap := { s.rowMap with planned := s.rowMap.planned.map free, supplementary := s.rowMap.supplementary.map free }
  if g = .c ∨ g = .f then
    if m.supplementary.length < 4 then
      { m with
        supplementary := m.supplementary ++
          [ { number := 8 + m.supplementary.length, position := sl.position
              depth := min 2500 (sl.depth + s.params.plan.longBolt), parent := some sl.number, state := .isOpen } ] }
    else { m with overflow := true }
  else m

/-- The recent-outcome list and its two attributes after a hole closes (R160): the outcome is the newest of at most 16, and the counts of
SLIPPED and of MIX_INCOMPLETE and SPIN_LATE are evaluated. -/
def WearTable.outcomeTaken (t u : WearTable) (o : HoleOutcome) : Prop :=
  u.outcomes = t.outcomes.drop (t.outcomes.length - 15) ++ [o] ∧
    u.torqueSlip.raw = u.outcomes.countP (fun x => x.fault == some .slipped) ∧
    u.torqueSlip.norm = max 1 (253 - 15 * u.torqueSlip.raw) ∧
    u.mixShort.raw = u.outcomes.countP (fun x => x.fault == some .mixIncomplete || x.fault == some .spinLate) ∧
    u.mixShort.norm = max 1 (253 - 15 * u.mixShort.raw)

/-- Two records of one hole agree in what BEGIN_HOLE, COLLAR and INSERT recorded (R76). -/
def HoleRecord.alike (r h : HoleRecord) : Prop :=
  r.row = h.row ∧ r.slot = h.slot ∧ r.boom = h.boom ∧ r.planDepth = h.planDepth ∧ r.z = h.z ∧ r.w = h.w ∧
    r.cartridgesCounted = h.cartridgesCounted ∧ r.wornBit = h.wornBit ∧ r.sensorSuspect = h.sensorSuspect ∧
    r.resinShort = h.resinShort

/-- The archived record `r` of a hole beside its current record `h`, with the boom before the command and as the close leaves it (R57,
R66, R71, R76, R102, step 1): the close time, the plan values as the anchorage result stands, absent without one, the layer list, the
drilled depth in millimetres, the whole revolutions of the mix, the controller's peak where TORQUE began one, and what was recorded
before. -/
def HoleRecord.completes (r h : HoleRecord) (before after : BoomUnit) (now : Millis) : Prop :=
  r.alike h ∧ r.closeTime = some now ∧
    r.verdict = after.anchorage.map Anchorage.verdict ∧ r.cartridgesPlanned = after.anchorage.map Anchorage.cartridges ∧
    r.rMix = after.anchorage.map Anchorage.rMix ∧ r.resinCapped = (after.anchorage.map Anchorage.resinCapped).getD false ∧
    r.layers = after.classifier.layers.map Layer.view ∧ r.drilled = after.tracker.maxDepth / 800 ∧
    r.revolutions = after.ctl.mix / 30000 ∧
    (before.ctl.state.cutsGround = false → r.layerOverflow = h.layerOverflow) ∧
    (h.peak = some before.ctl.peak → r.peak = some after.ctl.peak) ∧
    (h.peak = none → before.ctl.state ≠ .torquing → r.peak = none)

/-- What a close leaves readable of the hole (R37, R59, R102): the layer list with the open slice settled, maximum depth, the mix, and the
anchorage result, evaluated afresh where DRILLING is abandoned. -/
def State.holeReadable (s t : State) (b : Boom) : Prop :=
  let u := s.boom b
  let v := t.boom b
  v.classifier = (s.handed b (s.settledNow b)).1 ∧ v.tracker.maxDepth = u.tracker.maxDepth ∧ v.ctl.mix = u.ctl.mix ∧
    v.anchorage = (if u.ctl.state = .drilling then
        some (evaluate s.params.plan (s.calib b).kt v.classifier.layers u.tracker.maxDepth
          ((u.anchorage.map Anchorage.evaluations).getD 0) .abandon)
      else u.anchorage)

/-- A hole closed with a grade and a fault (R102): the boom is IDLE and holds no hole, the record is completed and archived with both and
with the torque result given, the outcome joins the recent-outcome list, and the slot that the boom claimed takes its grade, with
SUPPORT_DEMAND raised for C and F and ROW_READY for a row that is then ready; every other slot stays. -/
def State.closedWith (s t : State) (b : Boom) (h : HoleRecord) (g : Grade) (f : Option FaultCode)
    (torque : Option TorqueResult) : Prop :=
  (t.boom b).ctl.state = .idle ∧ (t.boom b).ctl.run = none ∧ (t.boom b).ctl.hole = none ∧
    (∃ r, t.holeLog = s.holeLog.archive r ∧ r.grade = some g ∧ r.fault = f.or h.fault ∧ r.torque = torque ∧
      r.completes h (s.boom b) (t.boom b) s.millis) ∧
    s.holeReadable t b ∧
    (s.boom b).wear.outcomeTaken (t.boom b).wear { grade := g, fault := f } ∧
    (∀ sl, s.rowMap.claimOf b = some sl → t.rowMap = s.rowClosed b sl g ∧
      (g = .c ∨ g = .f → t.portMachine.causes.c2 = true) ∧
      ((∀ x ∈ t.rowMap.slots, x.state = .waived ∨ ∃ y, x.state = .bolted y) → t.rowMap.overflow = false →
        t.portMachine.causes.c3 = true)) ∧
    s.otherSlotsKept t b

/-- The grade of a hole given up where its boom stands (R101): F from INSERTING on, X before. -/
def BoomState.gradeGivenUp (st : BoomState) : Grade :=
  if st = .inserting ∨ st = .inserted ∨ st = .spinning ∨ st = .holding ∨ st = .set ∨ st = .torquing then .f else .x

/-- The row after a RESET request closed a boom's hole, where it held one (R125, R126, R193). -/
def State.rowGivenUp (s : State) (b : Boom) : RowMap :=
  match (s.boom b).ctl.hole, s.rowMap.claimOf b with
  | some _, some sl =>
    if (s.boom b).ctl.state = .idle then s.rowMap else s.rowClosed b sl (s.boom b).ctl.state.gradeGivenUp
  | _, _ => s.rowMap

/-! ## Requests and replies -/

/-- A port is processing a request of a kind that passes tests 1 to 4 of R172, and hands it to the block that owns it. -/
def State.taken (s : State) (p : Port) (k : RequestKind) (q : Request) : Prop :=
  s.held p k = some q ∧ (s.absentPort p = false ∨ k.isRead = true) ∧ k.sizeOk p q = true

/-- The command of the table that is the end of processing of a request of a kind: on a port, of the boom and with the strap pins given
where it has them (R172, section 10.7; log 4). -/
def RequestKind.command (p : Port) (b : Boom) (pins : Straps) : RequestKind → Instr
  | .nop => .nop p
  | .clearCause => .clearCause p
  | .readStatus => .readStatus p
  | .readLive => .readLive p
  | .readHole => .readHole p
  | .readRow => .readRow p
  | .readFault => .readFault p
  | .readAttributes => .readAttributes p
  | .readMonitor => .readMonitor p
  | .readLink => .readLink p
  | .beginHole => .beginHole b
  | .collar => .collar b
  | .drill => .drill b
  | .retract => .retract b
  | .insert => .insert b
  | .spin => .spin b
  | .torque => .torque b
  | .stop => .stop b
  | .abandon => .abandon b
  | .resume => .resume b
  | .bitChanged => .bitChanged b
  | .supportSet => .supportSet
  | .supportReleased => .supportReleased
  | .rowAdvance => .rowAdvance
  | .tramDone => .tramDone
  | .waive => .waive
  | .clearOverflow => .clearOverflow
  | .setPlan => .setPlan
  | .flowTram => .flowTram
  | .flowSupport => .flowSupport
  | .flowRelease => .flowRelease
  | .writeZone => .writeZone
  | .loadZone => .loadZone
  | .saveWear => .saveWear
  | .selfCheck => .selfCheck
  | .reset => .reset pins

/-- The length bytes that a kind takes (section 10.7): the size of its operands, for SET_PLAN by its count, for WRITE_ZONE by its data. -/
def RequestKind.takesLength (k : RequestKind) (p : Port) (q : Request) (n : Nat) : Prop :=
  if k = .setPlan then n = 1 + 3 * (q.frame.getD 2 0).toNat
  else if k = .writeZone then 3 ≤ n ∧ n ≤ 26
  else if k = .readLive then n = if p = .machine then 2 else 1
  else if k = .readHole ∨ k = .readFault ∨ k = .readAttributes ∨ k = .readLink then n = 2
  else if k = .clearCause ∨ k = .readStatus ∨ k = .readRow ∨ k = .readMonitor ∨ k = .beginHole ∨ k = .waive ∨ k = .flowRelease ∨
    k = .loadZone then n = 1
  else n = 0

/-- A port holds a reply, ready for its next transfer (R170). -/
def State.replied (s : State) (p : Port) (c : ReplyCode) (payload : List Byte) : Prop :=
  (s.port p).reply = .pending { code := c, payload }

/-- The state with a reply on a port and nothing else changed. -/
def State.onlyReply (s : State) (p : Port) (c : ReplyCode) (payload : List Byte) : State :=
  s.modPort p fun port => { port with reply := .pending { code := c, payload } }

/-- A boom's request done with: the reply stands on its port, the monitor is as it was, and of the other boom all but what a changed
grant moves. -/
def State.answers (s t : State) (b : Boom) (k : RequestKind) (q : Request) (c : ReplyCode) (payload : List Byte) : Prop :=
  t.backdrop = (s.finish b.port q k c payload).backdrop ∧ t.monitor = s.monitor ∧
    (t.boom (otherBoom b)).ungranted = (s.boom (otherBoom b)).ungranted

/-- A machine request done with: the reply stands on the machine port, and nothing that no stage, grant or interlock touches moves. -/
def State.settles (s t : State) (k : RequestKind) (q : Request) (c : ReplyCode) (payload : List Byte) : Prop :=
  t.backdrop = (s.finish .machine q k c payload).backdrop

/-- Neither log has a new record. -/
def State.logsKept (s t : State) : Prop := t.holeLog = s.holeLog ∧ t.faultLog = s.faultLog

/-- The kinds of a boom's entries in the demand list. -/
def State.demandKinds (s : State) (b : Boom) : List DemandKind :=
  (s.arbiter.demands.filter fun d => d.owner == b.port).map Demand.kind

/-- A boom enters or resumes a stage (R74, R75, R106): one demand of the stage's kind, and RUNNING with the stop latch clear where the
grant reaches the floor, WAIT_FLOW with the stop latch as it was otherwise. -/
def State.waitsOrRuns (s t : State) (b : Boom) (st : BoomState) : Prop :=
  (t.boom b).ctl.state = st ∧ t.demandKinds b = [st.demandKind] ∧ (t.boom b).ctl.suspending = Interlocks.empty ∧
    (if 0 < boomGrant t.arbiter.demands b ∧ (flowOf s.params.plan st.demandKind).floor ≤ boomGrant t.arbiter.demands b
      then (t.boom b).ctl.run = some .running ∧ (t.boom b).link.stopLatch = false
      else (t.boom b).ctl.run = some .waitFlow ∧ (t.boom b).link.stopLatch = (s.boom b).link.stopLatch)

/-- A boom may enter or resume a stage (R77, R99): its link is UP, its head reports no fault, and no interlock blocks the stage.
It has no demand in the list. -/
def State.mayStart (s : State) (b : Boom) (st : BoomState) : Prop :=
  (s.boom b).link.state = .up ∧ (s.boom b).link.headFault = 0 ∧ s.interlocks.inter (blockers st) = Interlocks.empty ∧
    s.demandKinds b = []

/-- A boom whose stage interlocks suspend (R97): the stop latch is set if the stage was RUNNING, those of the interlocks that suspend the
stage join its suspending set, and everything else stays. -/
def BoomUnit.suspendedBy (u : BoomUnit) (onset : Interlocks) : BoomUnit :=
  { u with
    link := { u.link with stopLatch := u.link.stopLatch || u.ctl.run == some .running }
    ctl :=
      { u.ctl with run := some .suspended, suspending := u.ctl.suspending.union (onset.inter (suspenders u.ctl.state)) } }

/-- A stage in progress stands SUSPENDED by the interlocks that have become active, out of the demand list (R97). -/
def State.suspends (s t : State) (b : Boom) : Prop :=
  t.demandKinds b = [] ∧ t.boom b = (s.boom b).suspendedBy (t.interlocks.minus s.interlocks)

/-- INTERLOCK after a change of the interlock set (R150): raised on the machine port for every change, and on the port of each boom that
its pin enables where one of the seven interlocks that refuse a boom's requests has changed. -/
def State.interlockFlags (s t : State) : Prop :=
  let refusing (i : Interlocks) : List Bool :=
    [i.gas, i.dustLow, i.supportLost, i.monitorFault, i.supplyLow, i.monitorWarmup, i.tramming]
  (t.portMachine.causes.c1 = true ↔ s.portMachine.causes.c1 = true ∨ t.interlocks ≠ s.interlocks) ∧
    ∀ b, (t.port b.port).causes.c1 = true ↔ (s.port b.port).causes.c1 = true ∨
      (s.enabled b = true ∧ refusing t.interlocks ≠ refusing s.interlocks)

/-- A stage that ends with its hole left open (R30, R83 to R86, R93): COLLARING in COLLARED or, before contact, HOLE_OPEN, DRILLING and
RETRACTING in DRILLED, with the between-stage timer at 0. The slices given are settled in COLLARING and DRILLING, classified and worn, and
DRILLING evaluates the anchorage with the reason. LINK_QUALITY is not theirs. -/
def State.leavesHole (s t : State) (b : Boom) (cs : List ClosedSlice) (reason : EndReason) : Prop :=
  let u := s.boom b
  let v := t.boom b
  v.ctl.state =
      (if u.ctl.state = .collaring then (if u.tracker.contactSeen then .collared else .holeOpen) else .drilled) ∧
    v.ctl.betweenStage = (if s.params.plan.betweenCode = 0 then none else some 0) ∧
    (v.classifier, { v.wear with linkQuality := u.wear.linkQuality }) = s.handed b cs ∧ s.layerFlag t b cs ∧
    (u.ctl.state ≠ .retracting → v.tracker.slice = none ∧ v.tracker.stallCount = 0) ∧
    v.anchorage = (if u.ctl.state = .drilling then
        some (evaluate s.params.plan (s.calib b).kt v.classifier.layers u.tracker.maxDepth
          ((u.anchorage.map Anchorage.evaluations).getD 0) reason)
      else u.anchorage)

/-- A stage ended by a fault of the link, the head or the supply (R12, R14, R83 to R87, R98). Its demand leaves, STAGE_END is raised, and
FLOW for a changed grant. COLLARING, DRILLING and RETRACTING leave the hole open, with the fault in its record and the slices given
settled; WEAR is raised as they call for it, and where LINK_QUALITY turns in the same act. A stage from INSERTING on closes its hole with
grade F. -/
def State.stageLost (s t : State) (b : Boom) (f : FaultCode) (reason : EndReason) (cs : List ClosedSlice) (turned : Prop) : Prop :=
  let st := (s.boom b).ctl.state
  (t.boom b).ctl.run = none ∧ t.demandKinds b = [] ∧ (t.boom b).link.stopLatch = true ∧ s.flowFlags t ∧
    (s.enabled b = true → (t.port b.port).causes.c3 = true) ∧
    (st = .collaring ∨ st = .drilling ∨ st = .retracting →
      s.leavesHole t b cs reason ∧ s.wearFlags t b (s.crossesWear b cs ∨ turned) ∧
      (t.boom b).ctl.hole.map HoleRecord.fault = (s.boom b).ctl.hole.map (fun _ => some f) ∧
      t.rowMap = s.rowMap ∧ t.holeLog = s.holeLog) ∧
    ∀ h, (s.boom b).ctl.hole = some h → st = .inserting ∨ st = .spinning ∨ st = .holding ∨ st = .torquing →
      s.closedWith t b h .f (some f) h.torque

/-- The row after a lost supply closed the hole of a boom in INSERTING or a later stage (R98, R125, R126). -/
def State.rowSupplyLost (s : State) (b : Boom) : RowMap :=
  let st := (s.boom b).ctl.state
  match (s.boom b).ctl.hole, s.rowMap.claimOf b with
  | some _, some sl =>
    if st = .inserting ∨ st = .spinning ∨ st = .holding ∨ st = .torquing then s.rowClosed b sl .f else s.rowMap
  | _, _ => s.rowMap

/-- The supply lost (R98): every stage in progress ends with fault SUPPLY, the left boom's first, each with its fault record, STAGE_FAULT
and STAGE_END; COLLARING, DRILLING and RETRACTING leave their holes open, and INSERTING and every later stage close them with grade F. A
wait state is not changed. That the left boom's end comes first is the model's choice (log 12), as is the run condition of the records,
which is the one before the change (log 11). -/
def State.supplyEnds (s t : State) : Prop :=
  let late (b : Boom) : Prop :=
    let st := (s.boom b).ctl.state
    st = .inserting ∨ st = .spinning ∨ st = .holding ∨ st = .torquing
  let record (b : Boom) : List FaultRecord :=
    if (s.boom b).ctl.state.isStage then [s.faultRecord t b .supply none] else []
  t.faultLog = (record .left ++ record .right).foldl FaultLog.record s.faultLog ∧
    (∃ hs : Boom → List HoleRecord, t.holeLog = (hs .left ++ hs .right).foldl HoleLog.archive s.holeLog ∧
      ∀ b, (¬ late b ∨ (s.boom b).ctl.hole = none → hs b = []) ∧
        ∀ h, (s.boom b).ctl.hole = some h → late b → ∃ r, hs b = [r] ∧ r.grade = some .f ∧ r.fault = some .supply ∧
          r.torque = h.torque ∧ r.completes h (s.boom b) (t.boom b) s.millis) ∧
    t.rowMap = State.rowSupplyLost { s with rowMap := s.rowSupplyLost .left } .right ∧
    ∀ b, ((s.boom b).ctl.state.isStage = false → (t.boom b).ctl.state = (s.boom b).ctl.state ∧ (t.boom b).ctl.hole = (s.boom b).ctl.hole) ∧
      ((s.boom b).ctl.state.isStage = true →
        (t.boom b).ctl.run = none ∧ t.demandKinds b = [] ∧ (t.boom b).link.stopLatch = true ∧
          (s.enabled b = true → (t.port b.port).causes.c2 = true ∧ (t.port b.port).causes.c3 = true) ∧
          (¬ late b →
            s.leavesHole t b (s.settledNow b) .supply ∧ (s.crossesWear b (s.settledNow b) → t.portMachine.causes.c7 = true) ∧
            ((t.port b.port).causes.c6 = true ↔
              (s.port b.port).causes.c6 = true ∨ (s.enabled b = true ∧ s.crossesWear b (s.settledNow b))) ∧
            (t.boom b).ctl.hole.map HoleRecord.fault = (s.boom b).ctl.hole.map fun _ => some .supply) ∧
          (late b → (t.boom b).ctl.state = .idle ∧ (t.boom b).ctl.hole = none ∧
            ∀ h, (s.boom b).ctl.hole = some h →
              (s.boom b).wear.outcomeTaken (t.boom b).wear { grade := .f, fault := some .supply }))

/-- The booms stay in their states, holes and depths, and both logs and the row stay as they were. -/
def State.holesStand (s t : State) : Prop :=
  (∀ b, (t.boom b).ctl.state = (s.boom b).ctl.state ∧ (t.boom b).ctl.hole = (s.boom b).ctl.hole ∧
    (t.boom b).tracker = (s.boom b).tracker) ∧ t.holeLog = s.holeLog

/-- The arbiter stands as the interlocks and the run conditions call for (R105, R107). -/
def State.flowCurrent (s : State) : Prop :=
  s.arbiter.qAvail = availableFlow s.params.plan.qPump s.interlocks ∧ ∀ d ∈ s.arbiter.demands, s.suspendedOwner d = false

/-! ## The payloads of the reads (section 10.8), as the statements write them -/

/-- A number in one byte. -/
def byteOf (n : Nat) : Byte := BitVec.ofNat 8 n

/-- Truth values as the bits of a number, the first as bit 0. -/
def bitsNat (bits : List Bool) : Nat := (bits.zipIdx.map fun f => f.1.toNat * 2 ^ f.2).sum

/-- A field that may be absent: all 1s when absent. -/
def orOnes (k : Nat) (v : Option Nat) : List Byte := (v.map (bytesLE k)).getD (List.replicate k 0xFF)

/-- A group that may be absent: led by 1 when present, and 0 when absent, its present byte too. -/
def ledBy (k : Nat) (v : Option (List Byte)) : List Byte := (v.map fun bytes => 1 :: bytes).getD (List.replicate (k + 1) 0)

/-- An interlock set, GAS as bit 0 and TRAMMING as bit 8. -/
def Interlocks.field (i : Interlocks) : List Byte :=
  bytesLE 2 (bitsNat [i.gas, i.pumpLow, i.oilHot, i.supportLost, i.dustLow, i.supplyLow, i.monitorFault, i.monitorWarmup, i.tramming])

/-- A boom's state and run condition. -/
def stancePair (x : BoomState × Option RunCondition) : List Byte :=
  [ byteOf (([.idle, .holeOpen, .collared, .drilled, .retracted, .inserted, .set, .collaring, .drilling, .retracting, .inserting,
      .spinning, .holding, .torquing] : List BoomState).idxOf x.1) ] ++
    orOnes 1 (x.2.map ([.waitFlow, .running, .paused, .suspended] : List RunCondition).idxOf)

/-- A fault code, 0 when absent. -/
def faultNumber (f : Option FaultCode) : Nat :=
  (f.map fun f => 1 + ([.noContact, .stall, .depthLimit, .insertBlocked, .mixIncomplete, .spinLate, .slipped, .torqueTimeout,
    .torqueMissed, .waitTimeout, .supply, .linkLost, .headFault, .resetAbort, .configZoneBad, .postFail, .monitorFault,
    .checkFail] : List FaultCode).idxOf f).getD 0

/-- A class. -/
def groundNumber (g : Ground) : Nat := ([.void, .soft, .firm, .hard, .unmeasured] : List Ground).idxOf g

/-- A verdict, 0 when absent. -/
def verdictNumber (v : Option Verdict) : Nat := (v.map fun v => 1 + ([.good, .extraResin, .poor] : List Verdict).idxOf v).getD 0

/-- A grade, 7 when absent. -/
def gradeNumber (g : Option Grade) : Nat := (g.map ([.a, .b, .c, .f, .x] : List Grade).idxOf).getD 7

/-- READ_STATUS (R117): parts 0, 1 and 2. -/
def State.statusLayout (s : State) (p : Port) (part : Nat) : List Byte :=
  let c := (s.port p).causes
  let i := s.interlocks
  let entry (d : Demand) : List Byte :=
    [ byteOf (([.left, .right, .machine] : List Port).idxOf d.owner),
      byteOf (([.collar, .drill, .retract, .insert, .spin, .hold, .torque, .tram, .support] : List DemandKind).idxOf d.kind),
      byteOf (([.normal, .critical, .machine] : List DemandClass).idxOf d.kind.cls) ] ++
      bytesLE 2 d.demand ++ bytesLE 2 d.floor ++ bytesLE 2 d.grant
  let ds := s.arbiter.demands
  if part = 0 then
    bytesLE 4 s.millis.toNat ++ bytesLE 2 s.params.machineNumber ++ stancePair (s.stance .left) ++ stancePair (s.stance .right) ++
      i.field ++ s.mem.zones.map (fun z => byteOf (([.good, .clamped, .defaulted] : List ZoneState).idxOf z)) ++
      [ byteOf (match s.mem.op with
          | .none => 0
          | .write _ => 1
          | .load _ => 2
          | .save _ => 3),
        byteOf s.mem.pendingSave.toNat, byteOf s.check.running.toNat, byteOf s.check.remaining ] ++
      orOnes 1 (s.check.last.map CheckResult.result) ++ orOnes 1 (s.check.last.bind CheckResult.detail) ++
      [byteOf s.postFail.toNat, byteOf (bitsNat [c.c1, c.c2, c.c3, c.c4, c.c5, c.c6, c.c7])]
  else if part = 1 then
    bytesLE 2 s.params.plan.qPump ++ bytesLE 2 s.arbiter.qAvail ++
      [byteOf (bitsNat [i.pumpLow, i.oilHot, i.supplyLow]), byteOf ds.length] ++ (ds.take 2).flatMap entry
  else byteOf ds.length :: ((ds.drop 2).take 2).flatMap entry

/-- The hole header from byte 3 on. Bytes 13 to 15 of a record without z and W at collar are 0 (log 24), and so is byte 18 of one without
cartridges counted (log 41). -/
def HoleRecord.headerLayout (h : HoleRecord) : List Byte :=
  let torque := (h.torque.map fun v =>
    1 + ([.achieved, .slipped, .torqueTimeout, .torqueMissed] : List TorqueResult).idxOf v).getD 0
  bytesLE 2 h.row ++ [byteOf (h.slot + 16 * (if h.boom = .left then 0 else 1))] ++ orOnes 4 (h.closeTime.map BitVec.toNat) ++
    bytesLE 3 (h.planDepth + 2 ^ 12 * h.drilled) ++ bytesLE 2 ((h.z.map (· + 2 ^ 15)).getD 0) ++
    [ byteOf (h.w.getD 256 - 256), byteOf (verdictNumber h.verdict + 4 * torque + 32 * gradeNumber h.grade),
      byteOf (h.cartridgesPlanned.getD 0 + 8 * h.layers.length), byteOf (h.cartridgesCounted.getD 0) ] ++
    bytesLE 2 (h.rMix.getD 0) ++ bytesLE 3 h.revolutions ++ orOnes 2 h.peak ++
    [ byteOf (bitsNat [h.wornBit, h.sensorSuspect, h.layerOverflow, h.resinShort, h.resinCapped, h.cartridgesCounted.isSome]),
      byteOf (faultNumber h.fault) ]

/-- Bytes 7 to 24 of a layer part: the top of the first entry with the SATURATED bits, and four entries, those beyond the last 0. -/
def layersLayout (ls : List LayerView) : List Byte :=
  bytesLE 2 ((ls.head?.map LayerView.topMm).getD 0 + 2 ^ 12 * bitsNat (ls.map LayerView.saturated)) ++
    ls.flatMap (fun l => bytesLE 2 (l.bottomMm + 2 ^ 12 * groundNumber l.ground + 2 ^ 15 * l.isPartial.toNat) ++
      [byteOf (l.meanH.getD 0), byteOf (min 255 l.slices)]) ++ List.replicate (16 - 4 * ls.length) 0

/-- READ_HOLE (R136): the header with the pointer and the count, and layers 4 × part − 3 to 4 × part. -/
def State.holeLayout (s : State) (h : HoleRecord) (part : Nat) : List Byte :=
  if part = 0 then byteOf s.holeLog.pointer :: bytesLE 2 s.holeLog.count ++ h.headerLayout
  else
    let ls := (h.layers.drop (4 * part - 4)).take 4
    bytesLE 2 h.row ++ [byteOf (h.slot + 16 * (if h.boom = .left then 0 else 1) + 32 * ls.length)] ++
      orOnes 4 (h.closeTime.map BitVec.toNat) ++ layersLayout ls

/-- READ_LIVE (R34, R56, R72, R103): parts 0 to 10. The limit of the stage's own timer stands behind the listed fields of part 4 (log
34), the torque accumulator in part 4 (log 35); the depths of parts 1 and 2 are in whole millimetres in 2 bytes each (log 22); which
fields form a group is log 39, the present byte of part 4 log 33, the at-face byte of a sample that makes no test log 40, the zeros of an
UNMEASURED slice log 32, the further byte of the cartridges counted log 21. -/
def State.liveLayout (s : State) (b : Boom) (part : Nat) : List Byte :=
  let u := s.boom b
  let k := u.ctl
  let t := u.tracker
  let z := s.params.plan
  let timer (v : Option (Nat × Nat)) : List Byte := ledBy 6 (v.map fun v => bytesLE 3 v.1 ++ bytesLE 3 v.2)
  let counted : List Byte :=
    ((t.cartridgeBase.map fun base => [byteOf ((t.latestCartridge.getD 0 + 256 - base) % 256), 0]).getD [0xFF, 0xFF])
  if part = 0 then
    stancePair (s.stance b) ++ k.suspending.field ++ bytesLE 2 (boomGrant s.arbiter.demands b) ++ [byteOf k.firstRun.toNat] ++
      orOnes 2 (if k.state = .collaring then k.collarTimer else if k.state = .holding then k.holdTimer
        else if k.state = .torquing then k.torqueTime else none) ++
      timer (((k.insertToSpin.map (·, z.insertToSpin)).or (k.gelDeadline.map (·, z.gelDeadline))).or
        (k.torqueWindow.map (·, z.torqueWindow))) ++
      timer (if z.betweenCode = 0 then none
        else k.betweenStage.map (·, if z.betweenCode ≤ 240 then z.betweenCode * 5000 else (z.betweenCode - 240) * 60000)) ++
      bytesLE 2 k.peak ++ [byteOf k.holdRun, byteOf k.reachMark.toNat, byteOf k.slipRun]
  else if part = 1 then
    let x := t.lastSample
    signedLE 2 (t.depth / 800) ++ bytesLE 2 (t.maxDepth / 800) ++ [byteOf x.atFace.toNat] ++ bytesLE 2 x.feed ++ bytesLE 2 x.rotation ++
      bytesLE 2 x.speed ++ [byteOf (bitsNat [x.collar, x.plate, x.atStop])] ++ bytesLE 2 t.z ++ [byteOf t.contactSeen.toNat] ++ counted
  else if part = 2 then
    ledBy 21 (t.slice.map fun o =>
      bytesLE 2 (o.start / 800) ++ bytesLE 2 (o.top / 800) ++ bytesLE 4 o.sf ++ bytesLE 8 o.sr ++ bytesLE 2 o.n ++ bytesLE 2 o.nSpan ++
        [byteOf o.saturated.toNat])
  else if part = 3 then
    ledBy 17 (u.anchorage.map fun a =>
      [ byteOf a.evaluations,
        byteOf (([.depthReached, .stall, .depthLimit, .stop, .linkLost, .headFault, .supply, .abandon] : List EndReason).idxOf a.reason) ] ++
        [a.d, a.bondTop, a.lb, a.competent, a.voidLen, a.softLen, a.unmeasuredLen].flatMap (bytesLE 2) ++
        [byteOf (verdictNumber (some a.verdict))])
  else if part = 4 then
    ledBy 15 (u.anchorage.map fun a =>
      bytesLE 4 a.vNeed ++ bytesLE 2 a.unclamped ++ [byteOf a.cartridges, byteOf a.resinCapped.toNat] ++ bytesLE 2 a.rMix ++
        bytesLE 3 a.mixTarget ++ bytesLE 2 a.pTq) ++ bytesLE 4 k.mix ++ bytesLE 4 k.torqueAcc ++ counted ++
      orOnes 2 (if k.state = .collaring then k.collarTimer.map fun _ => 3000
        else if k.state = .holding then k.holdTimer.map fun _ => z.holdTime
        else if k.state = .torquing then k.torqueTime.map fun _ => 8000 else none)
  else if part = 5 then
    (k.hole.map fun h => [0, 0, 0] ++
      { h with drilled := t.maxDepth / 800, revolutions := k.mix / 30000, layers := u.classifier.layers.map Layer.view }.headerLayout).getD []
  else if part ≤ 9 then
    let ls := (u.classifier.layers.drop (4 * part - 24)).take 4
    byteOf u.classifier.layers.length :: ls.map (fun l => byteOf (min 255 l.measured)) ++ List.replicate (4 - ls.length) 0 ++
      [0, 0] ++ layersLayout (ls.map Layer.view)
  else
    (u.classifier.last.map fun r =>
      let m := r.measure.getD { ef := 0, er := 0, se10 := 0, w := 0, sec := 0, h := 0, raw := .unmeasured }
      bytesLE 2 (r.top / 800) ++ bytesLE 2 (r.bottom / 800) ++ [byteOf ((r.bottom - r.top) / 800)] ++ bytesLE 2 r.n ++
        bytesLE 2 r.nSpan ++ [byteOf (bitsNat [r.isPartial, r.saturated, true])] ++ bytesLE 4 (min 4294967295 m.ef) ++
        bytesLE 4 (min 4294967295 m.er) ++ bytesLE 2 m.se10 ++ bytesLE 2 m.w ++ bytesLE 2 m.sec ++ [byteOf m.h] ++
        orOnes 1 (r.measure.map fun m => groundNumber m.raw) ++
        [ byteOf (groundNumber r.given),
          byteOf (([.extended, .opened, .absorbed, .merged, .forced] : List Placement).idxOf r.placement) ]).getD
      (List.replicate 28 0)

/-- READ_ROW (R133): the row, slots 3 × part − 2 to 3 × part as many as exist (log 36), and the pending plan. -/
def State.rowLayout (s : State) (part : Nat) : List Byte :=
  let m := s.rowMap
  if part = 0 then
    bytesLE 2 m.rowNumber ++
      [ byteOf m.tramPermitted.toNat, byteOf (if m.supportSet then 0 else 1), byteOf m.overflow.toNat, byteOf m.ready.toNat,
        byteOf m.planned.length, byteOf m.supplementary.length, byteOf m.pendingPlan.isSome.toNat,
        byteOf ((m.pendingPlan.map List.length).getD 0) ]
  else if part = 5 then
    byteOf ((m.pendingPlan.map List.length).getD 0) ::
      (m.pendingPlan.getD []).flatMap fun p => byteOf p.position :: bytesLE 2 p.depth
  else
    (((m.planned ++ m.supplementary).drop (3 * part - 3)).take 3).flatMap fun sl =>
      [byteOf sl.number, byteOf sl.position] ++ bytesLE 2 sl.depth ++ orOnes 1 sl.parent ++
        match sl.state with
        | .isOpen => [0, 0xFF, 0xFF]
        | .claimed b => [1, if b = .left then 0 else 1, 0xFF]
        | .bolted g => [2, 0xFF, byteOf (gradeNumber (some g))]
        | .waived => [3, 0xFF, 0xFF]

/-- READ_FAULT (R167): the record, and its recent requests two by two. The depth takes a further byte (log 21). -/
def State.faultLayout (s : State) (r : FaultRecord) (part : Nat) : List Byte :=
  let mark : List Byte :=
    bytesLE 4 r.time.toNat ++
      [byteOf (([.left, .right, .machine, .device] : List FaultSource).idxOf r.source), byteOf (faultNumber (some r.code))]
  if part = 0 then
    byteOf s.faultLog.pointer :: bytesLE 2 s.faultLog.count ++ mark ++ orOnes 2 r.detail ++ ledBy 2 (r.left.map stancePair) ++
      ledBy 2 (r.right.map stancePair) ++ ((r.depth.map fun d => signedLE 2 d ++ [0]).getD [0xFF, 0xFF, 0xFF]) ++
      r.interlocks.field ++ [byteOf r.recent.length]
  else
    mark ++ ((r.recent.drop (2 * part - 2)).take 2).flatMap fun e =>
      e.kind :: e.payload ++ [byteOf e.code.toNat] ++ bytesLE 4 e.time.toNat

/-- READ_ATTRIBUTES (R164): the five attributes, and the recent-outcome list. -/
def WearTable.attributeLayout (w : WearTable) (part : Nat) : List Byte :=
  let as := [w.bitWear, w.feedZero, w.linkQuality, w.torqueSlip, w.mixShort]
  if part = 0 then
    bytesLE 2 w.bitWear.raw ++ bytesLE 2 w.feedZero.raw ++ bytesLE 2 w.linkQuality.raw ++
      [byteOf w.torqueSlip.raw, byteOf w.mixShort.raw] ++ as.map (fun a => byteOf a.norm) ++ as.map (fun a => byteOf a.worst) ++
      as.map (fun a => byteOf a.threshold) ++ [byteOf (bitsNat (as.map Attr.crossed)), 0b11100] ++ bytesLE 3 w.cmDrilled
  else
    byteOf w.outcomes.length :: w.outcomes.map fun o => byteOf (gradeNumber (some o.grade) + 8 * faultNumber o.fault)

/-- READ_MONITOR (R153): the rounds and the reference, and channels 2 × part − 2 and 2 × part − 1 (logs 37 and 39). -/
def State.monitorLayout (s : State) (part : Nat) : List Byte :=
  let m := s.monitor
  let breach (v : Breach) : Byte := byteOf (([.inside, .hi, .lo] : List Breach).idxOf v)
  if part = 0 then
    (match m.round with
      | .stopped => [0, 0xFF]
      | .converting k => [1, byteOf k]
      | .sleeping => [2, 0xFF]) ++ [byteOf m.warmup] ++ orOnes 2 m.refLast ++ bytesLE 2 m.refExp ++
      [byteOf m.refTol, byteOf m.passRun, byteOf m.failRun] ++ bytesLE 2 m.sleep ++ s.interlocks.field ++
      [byteOf (if s.rowMap.supportSet then 0 else 1), byteOf (bitsNat [m.breach 3 == .lo, !s.rowMap.supportSet])]
  else
    ((m.channels.drop (2 * part - 2)).take 2).flatMap fun c =>
      [byteOf c.limits.enabled.toNat] ++ bytesLE 2 c.limits.hi ++ bytesLE 2 c.limits.lo ++ [byteOf c.limits.hyst] ++ orOnes 2 c.last ++
        [breach c.breach] ++ ledBy 2 (c.debounce.map fun v => [breach v, 1])

/-- READ_LINK (R15): the link, and its eight counters. -/
def HeadLink.linkLayout (l : HeadLink) (part : Nat) : List Byte :=
  if part = 0 then
    [ byteOf (([.down, .up, .lost] : List LinkState).idxOf l.state), byteOf (([.hunt, .sync, .frame] : List ReceiverState).idxOf l.receiver),
      byteOf l.fifo.length, byteOf l.holdOff.toNat, byteOf l.stopLatch.toNat, l.pollSeq, byteOf l.answeredRun, byteOf l.missedRun,
      byteOf l.headFault ] ++ bytesLE 2 l.blockPolls ++ bytesLE 2 l.blockErrors ++ bytesLE 2 l.lastBlockErrors
  else
    [l.stats.good, l.stats.checkErrors, l.stats.residue, l.stats.long, l.stats.abort, l.stats.mismatch, l.stats.overrun,
      l.stats.glitch].flatMap (bytesLE 2)

/-! ## The ranges of the live values -/

/-- The classifier constants and the thresholds of the wear tables lie in their ranges, and the three thresholds rise (R36, R155). -/
def Zone1.inRange (z : Zone1) : Prop :=
  100 ≤ z.consts.seFull ∧ z.consts.seFull ≤ 65535 ∧ 1 ≤ z.consts.tVoid ∧ z.consts.tVoid ≤ 253 ∧ z.consts.tVoid < z.consts.tSoft ∧
    z.consts.tSoft ≤ 254 ∧ z.consts.tSoft < z.consts.tHard ∧ z.consts.tHard ≤ 255 ∧ z.consts.hyst ≤ 31 ∧ 1 ≤ z.consts.lMin ∧
    z.consts.lMin ≤ 8 ∧ z.consts.wearRate ≤ 255 ∧ z.thresholds.bitWear ≤ 252 ∧ z.thresholds.feedZero ≤ 252 ∧
    z.thresholds.linkQuality ≤ 252 ∧ z.thresholds.torqueSlip ≤ 252 ∧ z.thresholds.mixShort ≤ 252

/-- A calibration lies in its ranges (R184). -/
def Calib.inRange (c : Calib) : Prop :=
  1 ≤ c.m ∧ c.m ≤ 31 ∧ c.n ≤ 7 ∧ 1 ≤ c.kf ∧ c.kf ≤ 5000 ∧ 1 ≤ c.kt ∧ c.kt ≤ 255 ∧ 200 ≤ c.aHole ∧ c.aHole ≤ 2000 ∧
    0x01 ≤ c.headAddress ∧ c.headAddress ≤ 0xFE

/-- The monitor's values lie in their ranges; LO lies below HI, and h is at most half the distance between them (R138). -/
def Zone4.inRange (z : Zone4) : Prop :=
  (∀ c ∈ z.channels, 1 ≤ c.hi ∧ c.hi ≤ 1023 ∧ c.lo < c.hi ∧ c.hyst ≤ 255 ∧ c.hyst ≤ (c.hi - c.lo) / 2) ∧
    400 ≤ z.refExp ∧ z.refExp ≤ 900 ∧ 1 ≤ z.refTol ∧ z.refTol ≤ 100 ∧ 1 ≤ z.sleep ∧ z.sleep ≤ 1000

/-- A demand with a floor of its own: 1 L/min at least, 400 L/min at most, the floor at most the demand (R104). -/
def Flow.inRange (f : Flow) : Prop := 10 ≤ f.floor ∧ f.floor ≤ f.demand ∧ f.demand ≤ 4000

/-- The plan and flow table lies in its ranges (R58, R89, R93, R104, R123, R126, R184). -/
def Zone5.inRange (z : Zone5) : Prop :=
  100 ≤ z.qPump ∧ z.qPump ≤ 4000 ∧ z.collar.inRange ∧ z.drill.inRange ∧ z.retract.inRange ∧ z.insert.inRange ∧ z.tram.inRange ∧
    (∀ q, q = z.spin ∨ q = z.hold ∨ q = z.torque ∨ q = z.support → 10 ≤ q ∧ q ≤ 4000) ∧
    300 ≤ z.bReq ∧ z.bReq ≤ 1500 ∧ 1 ≤ z.pMin ∧ z.pMin ≤ 100 ∧ 1 ≤ z.aAnn ∧ z.aAnn ≤ 2000 ∧ z.aVoid ≤ 20000 ∧
    10000 ≤ z.vC ∧ z.vC ≤ 1000000 ∧ 1 ≤ z.cMax ∧ z.cMax ≤ 6 ∧ 1 ≤ z.rBase ∧ z.rBase ≤ 200 ∧ z.rStep ≤ 50 ∧
    50 ≤ z.tTarget ∧ z.tTarget ≤ 600 ∧ 1 ≤ z.rTq ∧ z.rTq ≤ 50 ∧ 10 ≤ z.collarDepth ∧ z.collarDepth ≤ 200 ∧
    10 ≤ z.clearDistance ∧ z.clearDistance ≤ 200 ∧ 1000 ≤ z.stallPressure ∧ z.stallPressure ≤ 25000 ∧
    1000 ≤ z.blockPressure ∧ z.blockPressure ≤ 25000 ∧ 1000 ≤ z.holdTime ∧ z.holdTime ≤ 20000 ∧
    1000 ≤ z.insertToSpin ∧ z.insertToSpin ≤ 30000 ∧ 2000 ≤ z.gelDeadline ∧ z.gelDeadline ≤ 60000 ∧
    5000 ≤ z.torqueWindow ∧ z.torqueWindow ≤ 120000 ∧ z.betweenCode ≤ 251 ∧ z.separation ≤ 7 ∧ z.longBolt ≤ 1000

/-! ## The monitor -/

/-- Channel k is enabled. -/
def Monitor.isOn (m : Monitor) (k : Nat) : Prop := m.channels[k]?.map (fun c => c.limits.enabled) = some true

/-- The channel converted next from channel j on: the first enabled one, or channel 6 (R140). -/
def Monitor.nextFrom (m : Monitor) (j k : Nat) : Prop :=
  (j ≤ k ∧ k < 6 ∧ m.isOn k ∧ ∀ i, j ≤ i → i < k → ¬ m.isOn i) ∨ (k = 6 ∧ ∀ i, j ≤ i → i < 6 → ¬ m.isOn i)

/-- The code lies in the clear window (R141). -/
def ChannelLimits.isClear (l : ChannelLimits) (code : Nat) : Prop :=
  (code + l.hyst ≤ l.hi ∨ l.hi = 1023) ∧ (l.lo + l.hyst ≤ code ∨ l.lo = 0)

/-- The table of R141: the target of a code from the channel's breach state. -/
def Channel.sees (c : Channel) (code : Nat) : Option Breach → Prop
  | some .hi => c.breach ≠ .hi ∧ c.limits.hi < code
  | some .lo => c.breach ≠ .lo ∧ code < c.limits.lo ∧ (c.breach = .inside → code ≤ c.limits.hi)
  | some .inside => c.breach ≠ .inside ∧ c.limits.isClear code ∧ (c.breach = .hi → c.limits.lo ≤ code) ∧
      (c.breach = .lo → code ≤ c.limits.hi)
  | none => (c.breach = .inside → c.limits.lo ≤ code ∧ code ≤ c.limits.hi) ∧
      (c.breach = .hi → c.limits.lo ≤ code ∧ ¬ c.limits.isClear code) ∧
      (c.breach = .lo → code ≤ c.limits.hi ∧ ¬ c.limits.isClear code)

end Sys2Proof.Machine
end

