-- ==== Sys2Proof/Certificates/Slice0/Obligations.lean ====
section
/-! DEFINITION. The statements for the provers. -/

open Sys2Proof Sys2Proof.Machine

/-! ## The step, the queue and the millisecond -/

/-- A step with a command at the front of the queue is exec of that command on the state with the queue's rest. -/
def Obligations.StepRunsTheFrontCommand : Prop :=
  ∀ (c : Instr) (rest : List Instr) (s : State), s.pending = c :: rest → step s = exec c { s with pending := rest }

/-- Every command of the table completes, from every state, and leaves the queue as it is (logs 1 and 6). -/
def Obligations.EveryCommandCompletesAndKeepsTheQueue : Prop :=
  ∀ (c : Instr) (s : State), ∃ t, exec c s = .next t ∧ t.pending = s.pending

/-- A millisecond with nothing waiting (the model's choice, log 5). In operation the free-running counter goes one on, and with it the poll
timer of a running link, the collar, torque and hold timers of a RUNNING stage, the resin and between-stage timers of every boom, and
the timers of a round, of a memory operation and of a check in progress; the expiries that then stand at their limits join the queue,
each once, and nothing else changes. In the start-up sequence the counter alone counts; without power and in reset nothing does. -/
def Obligations.AMillisecondCountsTheTimersAndQueuesWhatIsDue : Prop :=
  ∀ s : State, s.pending = [] →
    (s.phase = .off ∨ s.phase = .inReset → step s = .next s) ∧
    (s.phase = .selfTest ∨ (∃ a, s.phase = .zonesRead a) → step s = .next { s with millis := s.millis + 1 }) ∧
    (s.phase = .operating →
      let z := s.params.plan
      let counted (u : BoomUnit) : BoomUnit :=
        let one (t : Option Nat) : Option Nat := t.map (· + 1)
        let whileRunning (t : Option Nat) : Option Nat := if u.ctl.run = some .running then one t else t
        { u with
          link := { u.link with pollTimer := if u.link.running then u.link.pollTimer + 1 else u.link.pollTimer }
          ctl :=
            { u.ctl with
              collarTimer := whileRunning u.ctl.collarTimer, torqueTime := whileRunning u.ctl.torqueTime
              holdTimer := whileRunning u.ctl.holdTimer
              insertToSpin := one u.ctl.insertToSpin, gelDeadline := one u.ctl.gelDeadline
              torqueWindow := one u.ctl.torqueWindow, betweenStage := one u.ctl.betweenStage } }
      let m : State :=
        { s with
          millis := s.millis + 1, left := counted s.left, right := counted s.right
          monitor := { s.monitor with
            roundTimer := if s.monitor.round = .stopped then s.monitor.roundTimer else s.monitor.roundTimer + 1 }
          mem := { s.mem with opTimer := if s.mem.op = .none then s.mem.opTimer else s.mem.opTimer + 1 }
          check := { s.check with stepTimer := if s.check.running then s.check.stepTimer + 1 else s.check.stepTimer } }
      let reaches (t : Option Nat) (limit : Nat) : Prop := ∃ n, t = some n ∧ limit ≤ n
      let dueOf (b : Boom) (c : Instr) : Prop :=
        let u := m.boom b
        let st := u.ctl.state
        (c = .pollExpiry b ∧ u.link.running = true ∧ 2 ≤ u.link.pollTimer) ∨
          (c = .noContact b ∧ st = .collaring ∧ u.tracker.contactSeen = false ∧ reaches u.ctl.collarTimer 3000) ∨
          (c = .holdTimeElapsed b ∧ st = .holding ∧ reaches u.ctl.holdTimer z.holdTime) ∨
          (c = .torqueTimeout b ∧ st = .torquing ∧ reaches u.ctl.torqueTime 8000) ∨
          (c = .spinLate b ∧ (st = .inserted ∨ st = .spinning) ∧ reaches u.ctl.insertToSpin z.insertToSpin) ∨
          (c = .mixIncomplete b ∧ st = .spinning ∧ reaches u.ctl.gelDeadline z.gelDeadline) ∨
          (c = .torqueMissed b ∧ (st = .set ∨ st = .torquing) ∧ reaches u.ctl.torqueWindow z.torqueWindow) ∨
          (c = .waitTimeout b ∧ (st = .holeOpen ∨ st = .collared ∨ st = .drilled ∨ st = .retracted) ∧ 0 < z.betweenCode ∧
            reaches u.ctl.betweenStage (if z.betweenCode ≤ 240 then z.betweenCode * 5000 else (z.betweenCode - 240) * 60000))
      let due (c : Instr) : Prop :=
        (∃ b, dueOf b c) ∨ (c = .roundStart ∧ m.monitor.round = .sleeping ∧ m.monitor.sleepLimit ≤ m.monitor.roundTimer) ∨
          (c = .pageWriteComplete ∧ (∃ pages, m.mem.op = .write pages) ∧ 5 ≤ m.mem.opTimer) ∨
          (c = .loadComplete ∧ (∃ n, m.mem.op = .load n) ∧ 2 ≤ m.mem.opTimer) ∨
          (c = .saveComplete ∧ (∃ page, m.mem.op = .save page) ∧ 5 ≤ m.mem.opTimer)
      ∃ queue : List Instr, queue.Nodup ∧ (∀ c, c ∈ queue ↔ due c) ∧
        step s = .next { m with pending := queue, free := s.free + queue.length })

/-! ## Laws that every step keeps -/

/-- "The sum of all grants held by the two booms and the machine never exceeds Q_avail." -/
def Obligations.EveryStepKeepsTheGrantsWithinTheAvailableFlow : Prop :=
  ∀ s t : State, s.flowSound → step s = .next t → t.flowSound

/-- The configuration memory and the zone image keep their canonical form, and from the zone pass on the image holds exactly what the
memory holds. -/
def Obligations.EveryStepKeepsTheMemoryCanonical : Prop :=
  ∀ s t : State, step s = .next t → (s.memorySound → t.memorySound) ∧ (s.imageCurrent → t.imageCurrent)

/-- The hole log keeps 32 places and the fault log 8, with pointer and count in range, each port's recent-request list keeps at
most four entries, and the cause flags of the port of a boom disabled by its pin stay clear. -/
def Obligations.EveryStepKeepsTheLogsAndTheRecentListsInBounds : Prop :=
  ∀ s t : State, step s = .next t → (s.logsSound → t.logsSound) ∧ (s.listsSound → t.listsSound) ∧
    ∀ b, t.enabled b = false → (s.port b.port).causes = Causes.clear → (t.port b.port).causes = Causes.clear

/-- Each receive FIFO keeps at most four entries, depth stays within −8,388,608 to 8,388,607 units, and maximum depth within 2,550 mm;
and each layer list keeps its laws: at most 16 layers, the first from depth 0, without a gap, and no two neighbours of one class. -/
def Obligations.EveryStepKeepsTheReceiveQueuesAndDepthsInRange : Prop :=
  ∀ s t : State, step s = .next t → (s.headsSound → t.headsSound) ∧
    ((∀ b, (s.boom b).layersSound) → ∀ b, (t.boom b).layersSound)

/-- A boom's place in the demand list agrees with its stage: one entry, of the stage's kind, while a stage is in progress and not
suspended, and none otherwise. And the booms, the row and the ports keep the laws that tie them together: a stage in progress has its
link UP, and none of its suspending interlocks is active while it is not SUSPENDED; the stop latch is clear and the first-run mark set
while it is RUNNING; a boom is IDLE exactly when it claims no slot; a peak in its hole record is the controller's; no slot is claimed while
the tram is permitted, and a TRAM demand stands only then; a head link runs exactly in operation with its boom enabled. And the run
condition follows the grant: whatever the command, a stage with an entry in the list is RUNNING exactly while its grant is at least the
entry's floor; one that was RUNNING and falls below it is PAUSED, one that waits or is PAUSED and reaches it becomes RUNNING with its
first-run mark set and the stop latch clear, and the first run of SPINNING and TORQUING moves the resin timers. -/
def Obligations.EveryStepKeepsOneDemandForEveryStageInProgress : Prop :=
  ∀ s t : State, step s = .next t → (s.demandsSound → t.demandsSound) ∧ (s.lawful → t.lawful) ∧
    (s.lawful → s.demandsSound → s.grantsRun → t.grantsRun ∧ ∀ b, s.runFollows t b)

/-- Within a hole the drilled depth never goes back: whatever the command, while the boom holds an open hole before and after it,
maximum depth does not fall. -/
def Obligations.DrilledDepthNeverGoesBackWithinAHole : Prop :=
  ∀ (c : Instr) (s t : State) (b : Boom), exec c s = .next t → (s.boom b).ctl.state ≠ .idle → (t.boom b).ctl.state ≠ .idle →
    (s.boom b).tracker.maxDepth ≤ (t.boom b).tracker.maxDepth

/-- The two logs only grow: but for power-on and power-off, whatever the command, each log afterwards is the log before with some
records added, each at the place after the newest (from 0 to 1, and from the last place to 1), and the count one higher up to 65,535. -/
def Obligations.TheLogsOnlyEverGrowByRecordsInTheirPlaces : Prop :=
  (∀ (c : Instr) (s t : State), c ≠ .powerOn → c ≠ .powerOff → exec c s = .next t →
    ∃ (holes : List HoleRecord) (faults : List FaultRecord),
      t.holeLog = holes.foldl HoleLog.archive s.holeLog ∧ t.faultLog = faults.foldl FaultLog.record s.faultLog) ∧
    (∀ (l : HoleLog) (r : HoleRecord), l.places.length = 32 → l.pointer ≤ 32 →
      1 ≤ (l.archive r).pointer ∧ (l.archive r).pointer ≤ 32 ∧ (l.archive r).places[(l.archive r).pointer - 1]? = some (some r) ∧
      (l.pointer < 32 → (l.archive r).pointer = l.pointer + 1) ∧ (l.pointer = 32 → (l.archive r).pointer = 1) ∧
      (l.archive r).count = min 65535 (l.count + 1) ∧
      ∀ i, i ≠ (l.archive r).pointer - 1 → (l.archive r).places[i]? = l.places[i]?) ∧
    ∀ (l : FaultLog) (r : FaultRecord), l.places.length = 8 → l.pointer ≤ 8 →
      1 ≤ (l.record r).pointer ∧ (l.record r).pointer ≤ 8 ∧ (l.record r).places[(l.record r).pointer - 1]? = some (some r) ∧
      (l.pointer < 8 → (l.record r).pointer = l.pointer + 1) ∧ (l.pointer = 8 → (l.record r).pointer = 1) ∧
      (l.record r).count = min 65535 (l.count + 1) ∧
      ∀ i, i ≠ (l.record r).pointer - 1 → (l.record r).places[i]? = l.places[i]?

/-- The machine right after the power-on reset meets every law above. The values before the passes are the model's (log 17). -/
def Obligations.ThePowerOnResetMeetsEveryLaw : Prop :=
  State.reset.flowSound ∧ State.reset.memorySound ∧ State.reset.imageCurrent ∧ State.reset.logsSound ∧ State.reset.headsSound ∧
    State.reset.demandsSound ∧ State.reset.listsSound ∧ State.reset.lawful ∧
    State.reset.grantsRun ∧ (∀ b, (State.reset.boom b).layersSound) ∧
    ∀ p, (State.reset.port p).causes = Causes.clear

/-! ## Power, the resets and the start-up sequence -/

/-- POWER_ON and POWER_OFF: every volatile field stands at its power-on value, and of the configuration memory only the page in
progress may change. With power the part waits in reset while RESET_N is low and otherwise runs the start-up self-test. No head link has
its clock or its data driven. That a transfer in progress is forgotten is the model's choice (log 42). The values before the passes are
the model's (logs 7, 8 and 17). -/
def Obligations.PowerOnAndPowerOffKeepOnlyTheConfigurationMemory : Prop :=
  ∀ s : State,
    (∃ t, exec .powerOn s = .next t ∧
      t = { State.reset with
            phase := if s.resetNLow then .inReset else .selfTest
            resetNLow := s.resetNLow, mem := { State.reset.mem with memory := t.mem.memory }
            free := t.free, pending := s.pending } ∧ (∀ b, t.drivesNothing b) ∧
      ∀ a, (∀ c ∈ s.mem.op.pageInProgress, c.1 ≠ a) → Memory.read t.mem.memory a = Memory.read s.mem.memory a) ∧
    ∃ t, exec .powerOff s = .next t ∧
      t = { State.reset with
            phase := .off
            resetNLow := s.resetNLow, mem := { State.reset.mem with memory := t.mem.memory }
            free := t.free, pending := s.pending } ∧ (∀ b, t.drivesNothing b) ∧
      ∀ a, (∀ c ∈ s.mem.op.pageInProgress, c.1 ≠ a) → Memory.read t.mem.memory a = Memory.read s.mem.memory a

/-- "A page in progress may hold its old bytes, its new bytes or a mixture": each bit of a cut page stands at its old or at its new
value, whatever the free values are. Which of the two is a free value (log 7). -/
def Obligations.ACutPageHoldsOldBitsOrNewBits : Prop :=
  ∀ (mem page : List Host.Cell) (n a : Nat) (v : Byte), Memory.wf mem = true → (page.map Prod.fst).Nodup → (a, v) ∈ page →
    ∀ i, (Memory.read (cutPage mem n page) a).getLsbD i = v.getLsbD i ∨
      (Memory.read (cutPage mem n page) a).getLsbD i = (Memory.read mem a).getLsbD i

/-- RESET_N asserted with power: the column of RESET_N. The row starts again at row 0, the counter at 0, every boom block, port and check
at its reset value (a transfer in progress goes on as one on a closed port, log 19), no head link driven; the two logs, the recorded
self-test result and the configuration memory outside a page in progress are kept. Row 0 stands on the built-in plan until the zone pass
opens it again (log 17). Its release begins the start-up self-test in a part that waits in reset, and changes nothing else. The values
before the passes are the model's (logs 8 and 17). -/
def Obligations.ResetNResetsTheBlocksAndItsReleaseStartsThePart : Prop :=
  (∀ s : State, s.resetNLow = false → s.phase ≠ .off →
    ∃ t, exec .resetNAssert s = .next t ∧ t.resetNLow = true ∧ t.phase = .inReset ∧ t.millis = 0 ∧ (∀ b, t.drivesNothing b) ∧
      (∀ b, t.boom b =
        { link := HeadLink.reset, tracker := DepthTracker.reset
          classifier := { Classifier.reset with cr := (s.boom b).classifier.cr }
          anchorage := none, ctl := Controller.reset, wear := WearTable.fresh Zone1.builtIn.thresholds }) ∧
      t.arbiter.demands = [] ∧ t.rowMap = RowMap.rowZero builtInPlan ∧ t.monitor = Monitor.reset s.monitor.zone4 ∧
      t.check = SelfCheck.reset ∧
      (∀ p, t.port p = { MasterPort.reset with transfer := (s.port p).transfer.map fun _ => .onClosed }) ∧ t.mem.op = .none ∧
      t.mem.pendingSave = false ∧
      (∀ a, (∀ c ∈ s.mem.op.pageInProgress, c.1 ≠ a) → Memory.read t.mem.memory a = Memory.read s.mem.memory a) ∧
      t.holeLog = s.holeLog ∧ t.faultLog = s.faultLog ∧ t.postFail = s.postFail ∧ t.straps = s.straps ∧ t.params = s.params ∧
      t.mem.image = s.mem.image ∧ t.mem.zones = s.mem.zones) ∧
  ∀ s : State, s.resetNLow = true → s.phase = .inReset →
    exec .resetNRelease s = .next { s with resetNLow := false, phase := .selfTest }

/-- The end of the start-up self-test: the result is recorded, the pins are read, each of zones 0 to 6 is judged from the memory and
its values, clamped, or the built-in ones, are live; the wear tables start with the ground of zone 6 and the thresholds of zone 1; row 0
is opened, and one record is written for a failed self-test and one for each defaulted zone. Outcomes and pins are operands (log
29). -/
def Obligations.TheStartUpPassesReadThePinsAndJudgeEveryZone : Prop :=
  ∀ (s : State) (memoryPass logicPass : Bool) (pins : Straps), s.phase = .selfTest → s.mem.zones.length = 7 →
    s.monitor.channels.length = 6 →
    ∃ t, exec (.startUpSelfTestComplete memoryPass logicPass pins) s = .next t ∧
      t.phase = .zonesRead false ∧ t.straps = pins ∧ t.postFail = !(memoryPass && logicPass) ∧
      t.mem.memory = s.mem.memory ∧ t.mem.image = s.mem.memory ∧
      (∀ z, z < 7 → t.mem.zones[z]? = some
        (if zoneSumOk s.mem.memory z then judgedState (passClamped s.mem.memory z true) else .defaulted)) ∧
      t.rowMap = RowMap.rowZero (rowZeroPlan s.mem.memory) ∧
      t.params.machineNumber = (if zoneSumOk s.mem.memory 0 then field s.mem.memory 0 0 2 else 0) ∧
      t.params.plan = (if zoneSumOk s.mem.memory 5 then (Zone5.stored s.mem.memory).settled else Zone5.builtIn) ∧
      (∀ b, t.calib b =
        (if zoneSumOk s.mem.memory (calibZone b) then (Calib.stored s.mem.memory (calibZone b)).settled else Calib.builtIn b)) ∧
      (let z1 := if zoneSumOk s.mem.memory 1 then (Zone1.stored s.mem.memory).settled else Zone1.builtIn
        let z4 := if zoneSumOk s.mem.memory 4 then (Zone4.stored s.mem.memory).settled else Zone4.builtIn
        t.params.classifier = z1.consts ∧
        (∀ b,
          let cm := startDrilled s.mem.memory b
          let w := min 511 (256 + cm * z1.consts.wearRate / 10000)
          let norm := 253 - (w - 256) * 252 / 255
          let first (norm threshold : Nat) : Attr :=
            { raw := 0, norm, worst := norm, threshold, crossed := decide (norm ≤ threshold) }
          (t.boom b).wear =
            { cmDrilled := cm, remainder := 0, w, outcomes := []
              bitWear := { first norm z1.thresholds.bitWear with raw := w }
              feedZero := first 253 z1.thresholds.feedZero, linkQuality := first 253 z1.thresholds.linkQuality
              torqueSlip := first 253 z1.thresholds.torqueSlip, mixShort := first 253 z1.thresholds.mixShort }) ∧
        t.monitor.channels.map Channel.limits = z4.channels ∧ t.monitor.refExp = z4.refExp ∧ t.monitor.refTol = z4.refTol ∧
        t.monitor.sleep = z4.sleep ∧
        t.monitor = { s.monitor with
          channels := t.monitor.channels, refExp := t.monitor.refExp, refTol := t.monitor.refTol, sleep := t.monitor.sleep }) ∧
      (s.faultLog.count ≤ 65535 → t.faultLog.count = min 65535 (s.faultLog.count + (if memoryPass && logicPass then 0 else 1) +
        ((List.range 7).countP fun z => !zoneSumOk s.mem.memory z))) ∧
      t.holeLog = s.holeLog ∧ t.millis = s.millis ∧ t.arbiter = s.arbiter ∧ t.check = s.check ∧
      (∀ b, (t.boom b).link = (s.boom b).link ∧ (t.boom b).tracker = (s.boom b).tracker ∧ (t.boom b).ctl = (s.boom b).ctl)

/-- The opening: every port opens, the link of each enabled boom starts with its poll timer at 0, its clock at the HEAD_RATE rate and
flag fill, that of a disabled boom stays stopped and is not driven, the first round starts, and Q_avail
follows Q_pump and the interlocks. WEAR is raised for each boom with an attribute CROSSED, on the port of an enabled boom and on the
machine port, and after a RESET request ROW_READY for a row that is ready with the tram not permitted; no other flag moves. -/
def Obligations.TheOpeningStartsPortsLinksAndRounds : Prop :=
  ∀ (s : State) (afterRequest : Bool), s.phase = .zonesRead afterRequest → s.arbiter.demands = [] →
    ∃ t, exec .opening s = .next t ∧ t.phase = .operating ∧ (∀ p, (t.port p).isOpen = true) ∧
      (∀ b, t.boom b = if s.enabled b
        then { s.boom b with link := { (s.boom b).link with running := true, pollTimer := 0 } } else s.boom b) ∧
      (s.linksLawful → ∀ b, if s.enabled b then t.drives b [] else t.drivesNothing b) ∧
      t.monitor = { s.monitor with round := .converting (s.monitor.channelFrom 0), roundTimer := 0 } ∧
      t.arbiter = { qAvail := availableFlow s.params.plan.qPump s.interlocks, demands := [] } ∧
      (∀ p, (t.port p).reply = (s.port p).reply ∧ (t.port p).recent = (s.port p).recent) ∧
      (let worn (b : Boom) : Bool :=
          let w := (s.boom b).wear
          [w.bitWear, w.feedZero, w.linkQuality, w.torqueSlip, w.mixShort].any Attr.crossed
        let ready : Bool := s.rowMap.slots.all (fun sl => sl.state.resolved) && !s.rowMap.overflow
        let m := s.portMachine.causes
        (∀ b, (t.port b.port).causes =
          { (s.port b.port).causes with c6 := (s.port b.port).causes.c6 || (s.enabled b && worn b) }) ∧
        t.portMachine.causes =
          { m with
            c3 := m.c3 || (afterRequest && !s.rowMap.tramPermitted && ready), c7 := m.c7 || worn .left || worn .right }) ∧
      t.rowMap = s.rowMap ∧ t.holeLog = s.holeLog ∧ t.faultLog = s.faultLog ∧ t.mem = s.mem ∧ t.check = s.check ∧
      t.params = s.params ∧ t.millis = s.millis ∧ t.straps = s.straps ∧ t.postFail = s.postFail

/-- A RESET request taken. Each claimed hole, the left first, is archived with RESET_ABORT and grade F or X, its slot released and its
outcome recorded; both booms stand IDLE with their blocks at reset, neither head link driven, every port is closed and holds NO_REPLY (all
its flags stand clear but WEAR, which a crossing in the zone pass may set; a transfer in progress goes on as one on a closed port, log
19), no demand is left, and the monitor stands at its reset column with the limits of zone 4. A running check ends with result 2. Zones 0
to 6 are read afresh, with a record for each bad one among 0 to 5. The wear counts, the row number, the declarations, the free-running
counter and the recorded self-test result are kept. Three clauses are the model's choice: that a bad zone 6 keeps its zone state (log 28),
the timers and the last sample at zero in the monitor's and the trackers' reset columns (log 17), and the cut transfers (log 19). -/
def Obligations.ARequestedResetClosesTheHolesAndRereadsTheZones : Prop :=
  ∀ (s : State) (pins : Straps) (q : Request), s.taken .machine .reset q → s.monitor.channels.length = 6 → s.mem.zones.length = 7 →
    ∃ t, exec (.reset pins) s = .next t ∧ t.phase = .zonesRead true ∧ t.straps = pins ∧ (∀ b, t.drivesNothing b) ∧
      t.resetNLow = s.resetNLow ∧ t.millis = s.millis ∧ t.postFail = s.postFail ∧
      (∀ b, t.boom b =
        { link := HeadLink.reset, tracker := DepthTracker.reset
          classifier := { layers := [], last := none, cr := (t.calib b).kt * 899536 }
          anchorage := none, ctl := Controller.reset, wear := (t.boom b).wear }) ∧
      (∀ p, (t.port p).quiet = { MasterPort.reset with transfer := (s.port p).transfer.map fun _ => .onClosed }) ∧
      (∀ b : Boom, (t.port b.port).causes = { Causes.clear with c6 := (t.port b.port).causes.c6 }) ∧
      t.portMachine.causes = { Causes.clear with c7 := t.portMachine.causes.c7 } ∧ t.arbiter.demands = [] ∧
      t.check.running = false ∧ t.check.last = (if s.check.running then some { result := 2, detail := none } else s.check.last) ∧
      t.mem.op = .none ∧ t.mem.pendingSave = false ∧ t.mem.image = t.mem.memory ∧
      (∀ a, (∀ c ∈ s.mem.op.pageInProgress, c.1 ≠ a) → Memory.read t.mem.memory a = Memory.read s.mem.memory a) ∧
      (let img := t.mem.memory
        let good (z : Nat) : Bool := zoneSumOk img z
        let z1 := if good 1 then (Zone1.stored img).settled else Zone1.builtIn
        let z4 := if good 4 then (Zone4.stored img).settled else Zone4.builtIn
        t.params =
          { machineNumber := if good 0 then field img 0 0 2 else 0
            classifier := z1.consts
            calibLeft := if good 2 then (Calib.stored img 2).settled else Calib.builtIn .left
            calibRight := if good 3 then (Calib.stored img 3).settled else Calib.builtIn .right
            plan := if good 5 then (Zone5.stored img).settled else Zone5.builtIn } ∧
        t.monitor =
          { channels := z4.channels.map fun l => { limits := l, last := none, breach := .inside, debounce := none }
            refExp := z4.refExp, refTol := z4.refTol, sleep := z4.sleep, refLast := none, passRun := 0, failRun := 0
            round := .stopped, roundTimer := 0, sleepLimit := 0, warmup := 0, fault := false, warming := true } ∧
        (∀ z, z < 6 → t.mem.zones[z]? = some (if good z then (if zoneNeedsClamp img z then .clamped else .good) else .defaulted)) ∧
        t.mem.zones[6]? = (if good 6 then some .good else s.mem.zones[6]?) ∧
        (∃ rs : List FaultRecord, t.faultLog = rs.foldl FaultLog.record s.faultLog ∧
          rs.map FaultRecord.detail = ((List.range 6).filter fun z => !good z).map some ∧
          ∀ r ∈ rs, r.code = .configZoneBad ∧ r.source = .device ∧ r.time = s.millis) ∧
        ∀ b, (t.boom b).wear.cmDrilled = (s.boom b).wear.cmDrilled ∧ (t.boom b).wear.remainder = (s.boom b).wear.remainder ∧
          (t.boom b).wear.w = min 511 (256 + (s.boom b).wear.cmDrilled * z1.consts.wearRate / 10000) ∧
          (t.boom b).wear.feedZero.raw = (s.boom b).wear.feedZero.raw ∧
          (t.boom b).wear.linkQuality.raw = (s.boom b).wear.linkQuality.raw ∧
          (((s.boom b).ctl.state = .idle ∨ (s.boom b).ctl.hole = none) → (t.boom b).wear.outcomes = (s.boom b).wear.outcomes) ∧
          ((s.boom b).ctl.state ≠ .idle → (s.boom b).ctl.hole.isSome = true → (t.boom b).wear.outcomes =
            (s.boom b).wear.outcomes.drop ((s.boom b).wear.outcomes.length - 15) ++
              [{ grade := (s.boom b).ctl.state.gradeGivenUp, fault := some .resetAbort }])) ∧
      (∃ rs : Boom → List HoleRecord, t.holeLog = (rs .left ++ rs .right).foldl HoleLog.archive s.holeLog ∧
        ∀ b, ((s.boom b).ctl.state = .idle ∨ (s.boom b).ctl.hole = none → rs b = []) ∧
          ∀ h, (s.boom b).ctl.hole = some h → (s.boom b).ctl.state ≠ .idle → ∃ r, rs b = [r] ∧
            r.grade = some (s.boom b).ctl.state.gradeGivenUp ∧ r.fault = some .resetAbort ∧ r.torque = h.torque ∧
            r.closeTime = some s.millis ∧ r.row = h.row ∧ r.slot = h.slot ∧ r.boom = h.boom ∧ r.drilled = (s.boom b).tracker.maxDepth / 800 ∧ r.layers = (s.boom b).classifier.layers.map Layer.view) ∧
      t.rowMap = State.rowGivenUp { s with rowMap := s.rowGivenUp .left } .right

/-! ## The head links -/

/-- The receiver's moves other than a closing flag, tested after each bit. In HUNT the first flag brings SYNC, and what stands behind it
is received from there; in SYNC eight bits that form neither a flag nor an abort bring FRAME, and seven consecutive 1s bring HUNT,
uncounted; in FRAME an abort brings HUNT, is counted, and joins the quality block. The bits are those since the last receiver event (log
9). -/
def Obligations.TheReceiverMovesBetweenHuntSyncAndFrame : Prop :=
  ∀ (b : Boom) (bits : List Bool) (s : State), (s.boom b).link.running = true →
    let run := (s.boom b).link.line ++ bits
    let firstFlagEnds (n : Nat) : Prop :=
      n ≤ run.length ∧ (run.take n).drop (n - 8) = flagBits ∧ ∀ i, i < n → (run.take i).drop (i - 8) ≠ flagBits
    ((s.boom b).link.receiver = .hunt → firstFlagEnds run.length →
      exec (.flagSeen b bits) s = .next (s.modLink b fun l => { l with receiver := .sync, line := [] })) ∧
    (∀ n, (s.boom b).link.receiver = .hunt → firstFlagEnds n →
      exec (.flagSeen b bits) s =
        exec (.flagSeen b (run.drop n)) (s.modLink b fun l => { l with receiver := .sync, line := [] })) ∧
    (∀ data, (s.boom b).link.receiver = .sync → scanLine 0 [] run = .collecting data → data.length = 8 →
      exec (.frameStart b bits) s = .next (s.modLink b fun l => { l with receiver := .frame, line := run })) ∧
    (∀ data, (s.boom b).link.receiver = .sync → scanLine 0 [] run = .abort data [] → data.length < 8 →
      exec (.syncLostToHunt b bits) s = .next (s.modLink b fun l => { l with receiver := .hunt, line := [] })) ∧
    (∀ data, (s.boom b).link.receiver = .frame → scanLine 0 [] run = .abort data [] →
      exec (.frameAbort b bits) s = .next (s.modLink b fun l =>
        { l with
          receiver := .hunt, line := [], stats := { l.stats with abort := min 65535 (l.stats.abort + 1) }
          blockErrors := min 65535 (l.blockErrors + 1) }))

/-- A frame as a head sends it enters the FIFO. Whatever its kind and payload of 0 to 20 bytes, with the boom's address in front, its
check bits behind, a 0 inserted after every five 1s and a flag at its end, it is entered GOOD with that kind and payload, counted,
marked ANSWER exactly if it is the first SAMPLE of 11 bytes whose last byte echoes the outstanding poll, and sets HOLD_OFF as the
occupancy becomes 3. Nothing but the link changes. The bits are those since the last receiver event (log 9). -/
def Obligations.AFrameSentByTheHeadEntersTheFifoGood : Prop :=
  ∀ (b : Boom) (bits : List Bool) (s : State) (kind : Byte) (payload : List Byte),
    (s.boom b).link.running = true → (s.boom b).link.receiver = .frame → (s.boom b).link.fifo.length < 4 →
    (s.calib b).headAddress < 256 → payload.length ≤ 20 →
    (s.boom b).link.line ++ bits =
      insertZeros 0
        (((BitVec.ofNat 8 (s.calib b).headAddress :: kind :: payload) ++
          bytesOfBits (checkBits ((BitVec.ofNat 8 (s.calib b).headAddress :: kind :: payload).flatMap bitsLsb))).flatMap bitsLsb) ++
        flagBits →
    exec (.frameClose b bits) s = .next (s.modLink b fun l =>
      { l with
        receiver := .sync
        line := []
        fifo := l.fifo ++
          [ { status := .good, kind := some kind, payload := some payload
              answer := decide (kind = 0x10 ∧ payload.length = 11 ∧ l.outstanding = payload[10]? ∧ l.answered = false) } ]
        answered := l.answered || decide (kind = 0x10 ∧ payload.length = 11 ∧ l.outstanding = payload[10]?)
        holdOff := l.holdOff || decide (l.fifo.length = 2)
        stats := { l.stats with good := min 65535 (l.stats.good + 1) } })

/-- A closing flag on a frame that is not entered GOOD. An address that does not match is counted as a mismatch alone, whatever the
status; a full FIFO loses the frame as an overrun; a frame of more than 24 bytes enters LONG without payload, one that is no whole
number of bytes RESIDUE, and one that fails the comparison or holds fewer than 4 bytes CHECK_ERROR, each counted and each marked NONE.
The bits are those since the last receiver event (log 9); a frame without a whole byte is a mismatch (log 10). -/
def Obligations.AFrameThatIsNotGoodIsDiscardedLostOrMarked : Prop :=
  ∀ (b : Boom) (bits data : List Bool) (s : State), (s.boom b).link.running = true → (s.boom b).link.receiver = .frame →
    scanLine 0 [] ((s.boom b).link.line ++ bits) = .flag data [] →
    ((bytesOfBits data).head?.map BitVec.toNat ≠ some (s.calib b).headAddress →
      exec (.frameClose b bits) s = .next (s.modLink b fun l =>
        { l with receiver := .sync, line := [], stats := { l.stats with mismatch := min 65535 (l.stats.mismatch + 1) } })) ∧
    ((bytesOfBits data).head?.map BitVec.toNat = some (s.calib b).headAddress →
      (4 ≤ (s.boom b).link.fifo.length →
        exec (.frameClose b bits) s = .next (s.modLink b fun l =>
          { l with
            receiver := .sync, line := [], stats := { l.stats with overrun := min 65535 (l.stats.overrun + 1) }
            blockErrors := min 65535 (l.blockErrors + 1) })) ∧
      ((s.boom b).link.fifo.length < 4 →
        (192 < data.length →
          exec (.frameClose b bits) s = .next (s.modLink b fun l =>
            { l with
              receiver := .sync, line := []
              fifo := l.fifo ++ [ { status := .long, kind := (bytesOfBits data)[1]?, payload := none, answer := false } ]
              holdOff := l.holdOff || decide (l.fifo.length = 2)
              stats := { l.stats with long := min 65535 (l.stats.long + 1) }
              blockErrors := min 65535 (l.blockErrors + 1) })) ∧
        (data.length ≤ 192 → data.length % 8 ≠ 0 →
          exec (.frameClose b bits) s = .next (s.modLink b fun l =>
            { l with
              receiver := .sync, line := []
              fifo := l.fifo ++
                [ { status := .residue, kind := (bytesOfBits data)[1]?
                    payload := some (((bytesOfBits data).drop 2).take ((bytesOfBits data).length - 4)), answer := false } ]
              holdOff := l.holdOff || decide (l.fifo.length = 2)
              stats := { l.stats with residue := min 65535 (l.stats.residue + 1) }
              blockErrors := min 65535 (l.blockErrors + 1) })) ∧
        (data.length ≤ 192 → data.length % 8 = 0 →
          (data.length < 32 ∨ checkBits (data.take (data.length - 16)) ≠ data.drop (data.length - 16)) →
          exec (.frameClose b bits) s = .next (s.modLink b fun l =>
            { l with
              receiver := .sync, line := []
              fifo := l.fifo ++
                [ { status := .checkError, kind := (bytesOfBits data)[1]?
                    payload := some (((bytesOfBits data).drop 2).take ((bytesOfBits data).length - 4)), answer := false } ]
              holdOff := l.holdOff || decide (l.fifo.length = 2)
              stats := { l.stats with checkErrors := min 65535 (l.stats.checkErrors + 1) }
              blockErrors := min 65535 (l.blockErrors + 1) }))))

/-- A poll expiry that changes no link state: a first poll; an answered poll of an UP link, or of one that is not UP below the fourth in
a row; a missed poll of a link that is not UP, or of an UP one below the third in a row.
The two runs follow the judgement, a missed poll counts in the open slice, the sequence goes up by one and becomes outstanding, and a
setpoint frame is sent with the address, the sequence, the stage code (PARK unless UP, unlatched and RUNNING), the grant, STOP and
HOLD_OFF, and its check bits. On the line, whose clock runs at the HEAD_RATE rate, it stands from bit 0 on between its own two flags,
each byte least significant bit first, with a 0 after every five 1s, so that no six 1s stand between the flags and the removal of R4
gives the bytes back; behind it flags go out back to back, at least one before the next frame. -/
def Obligations.AnExpiryJudgesAdvancesAndSends : Prop :=
  ∀ (b : Boom) (s : State), (s.boom b).link.running = true → 2 ≤ (s.boom b).link.pollTimer → (s.boom b).link.blockPolls < 1023 →
    ((s.boom b).link.outstanding = none ∨
      ((s.boom b).link.answered = true ∧ ((s.boom b).link.state = .up ∨ (s.boom b).link.answeredRun < 3)) ∨
      ((s.boom b).link.answered = false ∧ ((s.boom b).link.state ≠ .up ∨ (s.boom b).link.missedRun < 2))) →
    let l := (s.boom b).link
    let body : List Byte :=
      [ BitVec.ofNat 8 (s.calib b).headAddress, 0x01, l.pollSeq + 1,
        BitVec.ofNat 8 (if l.state = .up ∧ l.stopLatch = false ∧ (s.boom b).ctl.run = some .running
          then stageCode (s.boom b).ctl.state else 0) ] ++
        bytesLE 2 (boomGrant s.arbiter.demands b) ++ [BitVec.ofNat 8 (l.stopLatch.toNat + 2 * l.holdOff.toNat)]
    let frame := body ++ bytesOfBits (checkBits (body.flatMap bitsLsb))
    let data := (List.range 72).map fun i => (frame.getD (i / 8) 0).getLsbD (i % 8)
    ∃ t, exec (.pollExpiry b) s = .next t ∧
      t.drives b (flagBits ++ insertZeros 0 data ++ flagBits) ∧ scanLine 0 [] (insertZeros 0 data ++ flagBits) = .flag data [] ∧
      (∀ i, i + 6 ≤ (insertZeros 0 data).length → ((insertZeros 0 data).drop i).take 6 ≠ List.replicate 6 true) ∧
      (insertZeros 0 data).length + 24 ≤ 2 * 1000 ∧
      t = (s.modLink b fun l => { l with
        answeredRun := if l.outstanding = none then l.answeredRun else if l.answered then min 255 (l.answeredRun + 1) else 0
        missedRun := if l.outstanding = none then l.missedRun else if l.answered then 0 else min 255 (l.missedRun + 1)
        blockPolls := l.blockPolls + 1
        pollSeq := l.pollSeq + 1
        outstanding := some (l.pollSeq + 1)
        answered := false
        pollTimer := 0
        sent := some frame }).modTracker b fun t =>
      { t with
        slice := if (s.boom b).link.outstanding.isSome = true ∧ (s.boom b).link.answered = false then s.sliceMissed b else t.slice }

/-- The fourth answered poll in a row makes a DOWN or LOST link UP, and its expiry sends the setpoint frame of an UP link: the stage code
of a RUNNING stage unless the stop latch is set, and PARK otherwise. Where the expiry completes a block of 1,024 polls, LINK_QUALITY takes
the block's errors as well. Nothing else changes. The row is the whole expiry that brings it about (log 3). -/
def Obligations.TheFourthAnsweredPollMakesTheLinkUp : Prop :=
  ∀ (b : Boom) (s : State), (s.boom b).link.running = true → 2 ≤ (s.boom b).link.pollTimer →
    (s.boom b).link.outstanding.isSome = true → (s.boom b).link.answered = true → (s.boom b).link.state ≠ .up →
    3 ≤ (s.boom b).link.answeredRun →
    let u := s.boom b
    ∃ t, exec (.linkUp b) s = .next t ∧ exec (.pollExpiry b) s = .next t ∧
      (1023 ≤ u.link.blockPolls → exec (.qualityBlockEnd b) s = .next t) ∧
      s.expires t b (s.expired b .up u.link.stopLatch
        (if u.link.stopLatch = false ∧ u.ctl.run = some .running then stageCode u.ctl.state else 0)
        (boomGrant s.arbiter.demands b))

/-- The third missed poll in a row makes an UP link LOST: the stop latch is set, the encoder reference becomes absent, one fault record is
written with code LINK_LOST, and STAGE_FAULT is raised. A boom in a wait state or IDLE stays there, its hole marked with the fault. A
stage in progress ends with LINK_LOST, its demand leaves and STAGE_END is raised, with FLOW where a grant changes: COLLARING in COLLARED
or, before contact, HOLE_OPEN, DRILLING in DRILLED with its anchorage evaluated, both with the open slice, in which the missed poll
counts, settled, classified and worn, with LAYER and WEAR as it calls for; RETRACTING in DRILLED, and a stage from INSERTING on closes its
hole with grade F. The setpoint frame of this expiry carries PARK, the grant after the loss and STOP. Where the expiry completes a block
of 1,024 polls, LINK_QUALITY takes the block's errors as well, with WEAR on a turn. The other boom moves only as a grant moves it. The row
is the whole expiry that brings it about (log 3). -/
def Obligations.TheThirdMissedPollLosesTheLink : Prop :=
  ∀ (b : Boom) (s : State), (s.boom b).link.running = true → 2 ≤ (s.boom b).link.pollTimer →
    (s.boom b).link.outstanding.isSome = true → (s.boom b).link.answered = false → (s.boom b).link.state = .up →
    2 ≤ (s.boom b).link.missedRun →
    let u := s.boom b
    let cuts : Prop := u.ctl.state = .collaring ∨ u.ctl.state = .drilling
    ∃ t, exec (.linkLost b) s = .next t ∧ exec (.pollExpiry b) s = .next t ∧
      (1023 ≤ u.link.blockPolls → exec (.qualityBlockEnd b) s = .next t) ∧ s.elsewhere t b ∧
      (t.boom b).link = s.expired b .lost true 0 (boomGrant t.arbiter.demands b) ∧
      (t.boom b).tracker.encoderRef = none ∧ (t.boom b).tracker.depth = u.tracker.depth ∧
      (t.boom b).tracker.maxDepth = u.tracker.maxDepth ∧ (¬ cuts → (t.boom b).tracker = { u.tracker with encoderRef := none }) ∧
      (t.boom b).wear.linkQuality = s.qualityAfter b ∧
      (s.qualityTurns b → t.portMachine.causes.c7 = true ∧ (s.enabled b = true → (t.port b.port).causes.c6 = true)) ∧
      s.faultWritten t b .linkLost none ∧
      (u.ctl.state.isStage = true → s.stageLost t b .linkLost .linkLost (s.settledLost b) (s.qualityTurns b)) ∧
      (u.ctl.state.isStage = false →
        (t.boom b).ctl = { u.ctl with hole := u.ctl.hole.map fun h => { h with fault := some .linkLost } } ∧
        (t.boom b).classifier = u.classifier ∧ (t.boom b).anchorage = u.anchorage ∧
        (t.boom b).wear = { u.wear with linkQuality := s.qualityAfter b } ∧ s.wearFlags t b (s.qualityTurns b) ∧
        t.rowMap = s.rowMap ∧ t.holeLog = s.holeLog ∧ t.arbiter = s.arbiter ∧ s.flowFlags t)

/-- The expiry that completes a block of 1,024 polls hands the block's error count to LINK_QUALITY, which is evaluated: normalised,
its worst value kept, CROSSED at the threshold or below, and WEAR raised on a crossing or a recovery; a new block starts. This it does
whatever else it brings about: where a link becomes UP or LOST with it, the expiry is the one of that change. Where no link state changes
with it, all the rest is an expiry like any other. The row is the whole expiry that brings it about (log 3). And ground
that joins a bit is counted in centimetres, with W and BIT_WEAR worked out afresh. -/
def Obligations.TheLastPollOfABlockHandsItsErrorsToLinkQuality : Prop :=
  (∀ (b : Boom) (s : State), (s.boom b).link.running = true → 2 ≤ (s.boom b).link.pollTimer → (s.boom b).link.blockPolls = 1023 →
    let u := s.boom b
    let l := u.link
    let goesUp : Prop := l.outstanding.isSome = true ∧ l.answered = true ∧ l.state ≠ .up ∧ 3 ≤ l.answeredRun
    let isLost : Prop := l.outstanding.isSome = true ∧ l.answered = false ∧ l.state = .up ∧ 2 ≤ l.missedRun
    let a := u.wear.linkQuality
    let norm := 253 - min 252 (4 * l.blockErrors)
    let turned : Bool := decide (norm ≤ a.threshold) != a.crossed
    ∃ t, exec (.qualityBlockEnd b) s = .next t ∧ exec (.pollExpiry b) s = .next t ∧ s.elsewhere t b ∧
      (t.boom b).link.blockPolls = 0 ∧ (t.boom b).link.blockErrors = 0 ∧ (t.boom b).link.lastBlockErrors = l.blockErrors ∧
      (t.boom b).wear.linkQuality =
        { a with raw := l.blockErrors, norm, worst := min a.worst norm, crossed := decide (norm ≤ a.threshold) } ∧
      (turned = true → t.portMachine.causes.c7 = true ∧ (s.enabled b = true → (t.port b.port).causes.c6 = true)) ∧
      (goesUp → exec (.linkUp b) s = .next t ∧ (t.boom b).link.state = .up) ∧
      (isLost → exec (.linkLost b) s = .next t ∧ (t.boom b).link.state = .lost) ∧
      (¬ goesUp → ¬ isLost →
        s.expires t b (s.expired b l.state l.stopLatch
          (if l.state = .up ∧ l.stopLatch = false ∧ u.ctl.run = some .running then stageCode u.ctl.state else 0)
          (boomGrant s.arbiter.demands b)))) ∧
  ∀ (t : WearTable) (wearRate units : Nat),
    let u := t.addGround wearRate units
    let w := min 511 (256 + u.cmDrilled * wearRate / 10000)
    let norm := 253 - (w - 256) * 252 / 255
    u.remainder = (t.remainder + units) % 8000 ∧ u.cmDrilled = min 16777215 (t.cmDrilled + (t.remainder + units) / 8000) ∧
      u = { t with
            cmDrilled := u.cmDrilled, remainder := u.remainder, w
            bitWear := { t.bitWear with
              raw := w, norm, worst := min t.bitWear.worst norm, crossed := decide (norm ≤ t.bitWear.threshold) } }

/-! ## The FIFO and the depth tracker -/

/-- The take of an entry that is no sample: it leaves the FIFO and HOLD_OFF clears at an occupancy of 1 or 0. A bad status, a sample
marked NONE, any other kind or payload length of a good frame, and a head-status code above 15 are dropped; a head-status code that is no
onset is stored; an onset is stored, sets the stop latch, writes a HEAD_FAULT record with the head's code and raises STAGE_FAULT. A boom
in a wait state or IDLE stays there, its hole marked with the fault; a stage in progress ends with HEAD_FAULT, its demand leaves and
STAGE_END is raised: COLLARING in COLLARED or, before contact, HOLE_OPEN, DRILLING in DRILLED with its anchorage evaluated, both with the
open slice settled, classified and worn, with LAYER and WEAR as it calls for, RETRACTING in
DRILLED, and a stage from INSERTING on closes its hole with grade F. -/
def Obligations.ATakenEntryThatIsNoSampleIsDroppedOrApplied : Prop :=
  ∀ (b : Boom) (s : State) (e : FifoEntry) (rest : List FifoEntry), (s.boom b).link.fifo = e :: rest →
    ((e.status ≠ .good ∨ (e.kind = some 0x10 ∧ e.answer = false) ∨ (e.kind ≠ some 0x10 ∧ e.kind ≠ some 0x11) ∨
        ∃ p, e.payload = some p ∧
          ((e.kind = some 0x10 ∧ p.length ≠ 11) ∨ (e.kind = some 0x11 ∧ (p.length ≠ 2 ∨ 15 < (p.getD 1 0).toNat)))) →
      exec (.fifoTake b) s = .next (s.modLink b fun l =>
        { l with fifo := rest, holdOff := if rest.length ≤ 1 then false else l.holdOff })) ∧
    ∀ p, e.status = .good → e.kind = some 0x11 → e.payload = some p → p.length = 2 → (p.getD 1 0).toNat ≤ 15 →
      ((s.boom b).link.headFault ≠ 0 ∨ (p.getD 1 0).toNat = 0 →
        exec (.fifoTake b) s = .next (s.modLink b fun l =>
          { l with
            fifo := rest, holdOff := if rest.length ≤ 1 then false else l.holdOff, headFault := (p.getD 1 0).toNat })) ∧
      ((s.boom b).link.headFault = 0 → (p.getD 1 0).toNat ≠ 0 → (s.boom b).ctl.state.isStage = false →
        ∃ t, exec (.fifoTake b) s = .next t ∧ s.elsewhere t b ∧ (t.boom b).link.fifo = rest ∧
          (t.boom b).link.headFault = (p.getD 1 0).toNat ∧ (t.boom b).link.stopLatch = true ∧
          (t.boom b).ctl = { (s.boom b).ctl with hole := (s.boom b).ctl.hole.map fun h => { h with fault := some .headFault } } ∧
          (t.boom b).tracker = (s.boom b).tracker ∧ s.faultWritten t b .headFault (some (p.getD 1 0).toNat) ∧
          t.arbiter = s.arbiter ∧ t.rowMap = s.rowMap ∧ t.holeLog = s.holeLog) ∧
      ((s.boom b).ctl.state.isStage = true → (s.boom b).link.headFault = 0 → (p.getD 1 0).toNat ≠ 0 →
        ∃ t, exec (.fifoTake b) s = .next t ∧ s.elsewhere t b ∧ (t.boom b).link.fifo = rest ∧
          (t.boom b).link.headFault = (p.getD 1 0).toNat ∧ (t.boom b).link.stopLatch = true ∧
          (t.boom b).tracker.depth = (s.boom b).tracker.depth ∧ (t.boom b).tracker.maxDepth = (s.boom b).tracker.maxDepth ∧
          s.faultWritten t b .headFault (some (p.getD 1 0).toNat) ∧
          s.stageLost t b .headFault .headFault (s.settledNow b) False)

/-- A sample that is no glitch moves the boom: its count becomes the reference, the glitch run returns to 0 where there was one, and depth
changes by the delta times 8M + N, kept within its range, or becomes 0 at collar contact. With no stage in progress, in HOLDING, in
RETRACTING before the clear distance, in COLLARING before contact, and in INSERTING, SPINNING and TORQUING while they are not RUNNING,
nothing else changes but the FIFO with HOLD_OFF, the cartridge count, the feed window in HOLE_OPEN and the sample that READ_LIVE shows (as
not at the face: log 40). Collar contact opens the first slice at depth 0 and stops the contact timer. Behind contact, in COLLARING or
DRILLING, and where the sample does not end the stage, maximum depth follows new ground, the sample joins the open slice, each boundary
that maximum depth reaches closes a slice, which is classified and worn in turn, with LAYER and WEAR as they call for, and the stall run
follows. A sample of a RUNNING stage that does not end it adds its speed to the mix in SPINNING, moves the five counts in TORQUING, and
moves the block run in INSERTING. -/
def Obligations.ASampleMovesTheDepthByItsEncoderDelta : Prop :=
  ∀ (b : Boom) (s : State) (x : Sample), s.nextSample b x → (s.boom b).tracker.accepts x →
    let u := s.boom b
    let depth := s.depthAfter b x
    let deepest := s.deepestAfter b x
    let stall := s.stallAfter b x
    let kept (t : State) : Prop :=
      t.arbiter = s.arbiter ∧ t.rowMap = s.rowMap ∧ s.logsKept t ∧ (t.boom b).link = ((s.sampled b x).boom b).link
    ∃ t, exec (.fifoTake b) s = .next t ∧ s.elsewhere t b ∧ (t.boom b).link.fifo = u.link.fifo.drop 1 ∧
      (t.boom b).tracker.encoderRef = some x.count ∧
      (t.boom b).tracker.glitchRun = (if u.tracker.encoderRef.isSome then 0 else u.tracker.glitchRun) ∧
      (t.boom b).tracker.latestCartridge = some x.cartridges ∧ (t.boom b).tracker.depth = depth ∧
      (t.boom b).tracker.window =
        (if u.ctl.state = .holeOpen then appendCapped 25 u.tracker.window x.feed else u.tracker.window) ∧
      (u.ctl.state.isStage = false ∨ u.ctl.state = .holding ∨
          (u.ctl.state = .retracting ∧ -((s.params.plan.clearDistance * 800 : Nat) : Int) < depth) ∨
          (u.ctl.state = .collaring ∧ u.tracker.contactSeen = false ∧ x.collar = false) ∨
          ((u.ctl.state = .inserting ∨ u.ctl.state = .spinning ∨ u.ctl.state = .torquing) ∧ u.ctl.run ≠ some .running) →
        t = s.sampled b x) ∧
      (u.ctl.state = .collaring → x.collar = true → u.tracker.contactSeen = false → 0 < s.params.plan.collarDepth →
        (t.boom b).tracker.contactSeen = true ∧ (t.boom b).tracker.maxDepth = u.tracker.maxDepth ∧
          (t.boom b).tracker.slice =
            some (s.sliceAfter b x { start := 0, top := 0, sf := 0, sr := 0, n := 0, nSpan := 0, saturated := false }) ∧
          (t.boom b).ctl = { u.ctl with collarTimer := none } ∧ (t.boom b).classifier = u.classifier ∧
          (t.boom b).wear = u.wear ∧ (t.boom b).anchorage = u.anchorage ∧ kept t ∧
          ∀ p, (t.port p).causes = (s.port p).causes) ∧
      (u.tracker.contactSeen = true →
        (u.ctl.state = .collaring ∧ depth < (s.params.plan.collarDepth * 800 : Nat)) ∨
          (u.ctl.state = .drilling ∧ deepest < 2040000 ∧
            (deepest = u.tracker.maxDepth ∨ ∃ h, u.ctl.hole = some h ∧ deepest < h.planDepth * 800) ∧ stall.1 < 250) →
        (t.boom b).tracker =
            { ((s.sampled b x).boom b).tracker with
              maxDepth := deepest, slice := s.openAfter b x, stallCount := stall.1, stallBase := stall.2
              handedBottom := ((s.cutsAt b x).getLast?.map ClosedSlice.bottom).or u.tracker.handedBottom
              lastSample :=
                { ((s.sampled b x).boom b).tracker.lastSample with
                  atFace := decide ((u.tracker.maxDepth : Int) - 800 ≤ depth) } } ∧
          ((t.boom b).classifier, (t.boom b).wear) = s.handed b (s.cutsAt b x) ∧ s.sliceFlags t b (s.cutsAt b x) ∧
          (t.boom b).ctl = { u.ctl with hole := (t.boom b).ctl.hole } ∧ (t.boom b).anchorage = u.anchorage ∧
          (u.ctl.hole = none → (t.boom b).ctl.hole = none) ∧
          (∀ h, u.ctl.hole = some h → ∃ full, (t.boom b).ctl.hole = some { h with layerOverflow := full } ∧
            (full = true ↔ h.layerOverflow = true ∨ s.overflowsLayers b (s.cutsAt b x))) ∧
          kept t) ∧
      ∀ a, u.anchorage = some a → u.ctl.run = some .running →
        (u.ctl.state = .spinning → min 4294967295 (u.ctl.mix + x.speed) < a.mixTarget →
          t = (s.sampled b x).modCtl b fun c => { c with mix := min 4294967295 (c.mix + x.speed) }) ∧
        (u.ctl.state = .torquing → (u.ctl.torqued a x).holdRun < 250 → (u.ctl.torqued a x).slipRun < 100 →
          (u.ctl.torqued a x).torqueAcc ≤ s.params.plan.rTq * 30000 → t = (s.sampled b x).modCtl b fun c => c.torqued a x) ∧
        (u.ctl.state = .inserting → x.plate = false → s.blockAfter b x a < 150 →
          t = (s.sampled b x).modTracker b fun k => { k with blockRun := s.blockAfter b x a })

/-- A glitch is discarded, counted and taken as a missing poll in the open slice, and no depth moves. Below the sixteenth in a row the
glitch run goes up by one and the encoder reference stays; the sixteenth makes the reference absent and the run 0, and its row is the
whole take that brings it about (log 3). The row is the whole take that brings it about (log 3). -/
def Obligations.TheSixteenthGlitchDropsTheEncoderReference : Prop :=
  ∀ (b : Boom) (s : State) (x : Sample), s.nextSample b x → ¬ (s.boom b).tracker.accepts x →
    let leaves (o : Host.Outcome State Fault Refusal) (ref : Option (BitVec 16)) (run : Nat) : Prop :=
      o = .next ((s.modLink b fun l =>
        { l with
          fifo := l.fifo.drop 1, holdOff := if l.fifo.length ≤ 2 then false else l.holdOff
          stats := { l.stats with glitch := min 65535 (l.stats.glitch + 1) } }).modTracker b fun t =>
        { t with encoderRef := ref, glitchRun := run, slice := s.sliceMissed b })
    ((s.boom b).tracker.glitchRun = 15 → leaves (exec (.encoderReferenceDrop b) s) none 0) ∧
    ((s.boom b).tracker.glitchRun < 15 →
      leaves (exec (.fifoTake b) s) (s.boom b).tracker.encoderRef ((s.boom b).tracker.glitchRun + 1))

/-- The 250th qualifying sample without 1 mm of new ground ends DRILLING with STALL, wherever the sample finds the bit within 1 mm of the
face, at rest, moving or without an encoder reference: DRILLED with the slices that the sample closes settled and the anchorage
evaluated, the stop latch set, one fault record, the fault on the hole, STAGE_FAULT and STAGE_END raised, with FLOW for a changed grant
and LAYER and WEAR as the settled slices call for, and the row and the hole log as they were. The row is the
whole take that brings it about (log 3). -/
def Obligations.TheStallRunEndsDrilling : Prop :=
  ∀ (b : Boom) (s : State) (x : Sample), s.nextSample b x → (s.boom b).tracker.accepts x →
    let u := s.boom b
    let deepest := s.deepestAfter b x
    u.ctl.state = .drilling → u.ctl.run = some .running → u.tracker.contactSeen = true → deepest < 2040000 →
    (deepest = u.tracker.maxDepth ∨ ∃ h, u.ctl.hole = some h ∧ deepest < h.planDepth * 800) → 250 ≤ (s.stallAfter b x).1 →
    ∃ t, exec (.stall b) s = .next t ∧ exec (.fifoTake b) s = .next t ∧ s.elsewhere t b ∧ (t.boom b).ctl.state = .drilled ∧
      (t.boom b).ctl.run = none ∧ (t.boom b).tracker.slice = none ∧ (t.boom b).tracker.stallCount = 0 ∧
      (t.boom b).tracker.depth = s.depthAfter b x ∧ (t.boom b).tracker.maxDepth = deepest ∧
      (t.boom b).tracker.encoderRef = some x.count ∧
      (t.boom b).link = { ((s.sampled b x).boom b).link with stopLatch := true } ∧
      (t.boom b).anchorage = some (evaluate s.params.plan (s.calib b).kt (t.boom b).classifier.layers deepest
        ((u.anchorage.map Anchorage.evaluations).getD 0) .stall) ∧ s.faultWritten t b .stall none ∧
      ((t.boom b).classifier, (t.boom b).wear) = s.handed b (s.settledAt b x) ∧ s.sliceFlags t b (s.settledAt b x) ∧
      (s.enabled b = true → (t.port b.port).causes.c3 = true) ∧ t.demandKinds b = [] ∧ s.flowFlags t ∧
      (t.boom b).ctl.hole.map HoleRecord.fault = u.ctl.hole.map (fun _ => some .stall) ∧
      (t.boom b).ctl.betweenStage = (if s.params.plan.betweenCode = 0 then none else some 0) ∧
      t.rowMap = s.rowMap ∧ t.holeLog = s.holeLog

/-- A sample that brings a stage to its goal ends the stage with success: COLLARING in COLLARED at the collar depth, DRILLING in DRILLED
at the planned depth, with the open slice settled on it and, for DRILLING, the anchorage evaluated; RETRACTING in RETRACTED at the clear
distance, with the sample's cartridge count as the base; INSERTING in INSERTED with the plate in place, the insert-to-spin timer at 0.
Each raises STAGE_END, FLOW for a changed grant, and LAYER and WEAR as the settled slices call for. DRILLING ends with DEPTH_LIMIT at
2,550 mm, and a plate that comes too early closes the hole with INSERT_BLOCKED. -/
def Obligations.ASampleAtItsGoalEndsItsStage : Prop :=
  ∀ (b : Boom) (s : State) (x : Sample), s.nextSample b x → (s.boom b).tracker.accepts x →
    let u := s.boom b
    let depth := s.depthAfter b x
    let deepest := s.deepestAfter b x
    let ends (t : State) (st : BoomState) : Prop :=
      exec (.fifoTake b) s = .next t ∧ s.elsewhere t b ∧ (t.boom b).ctl.state = st ∧ (t.boom b).ctl.run = none ∧
        t.demandKinds b = [] ∧ (s.enabled b = true → (t.port b.port).causes.c3 = true) ∧ s.flowFlags t ∧
        (t.boom b).tracker.depth = depth ∧
        (t.boom b).ctl.betweenStage = (if st = .inserted ∨ s.params.plan.betweenCode = 0 then none else some 0) ∧
        t.rowMap = s.rowMap ∧ t.holeLog = s.holeLog
    let unfaulted (t : State) : Prop :=
      t.faultLog = s.faultLog ∧ (t.boom b).link.stopLatch = u.link.stopLatch ∧
        (t.boom b).ctl.hole.map HoleRecord.fault = u.ctl.hole.map HoleRecord.fault
    let settled (t : State) : Prop :=
      (t.boom b).tracker.maxDepth = deepest ∧ (t.boom b).tracker.slice = none ∧ (t.boom b).tracker.stallCount = 0 ∧
        ((t.boom b).classifier, (t.boom b).wear) = s.handed b (s.settledAt b x) ∧ s.sliceFlags t b (s.settledAt b x)
    let evaluated (t : State) (reason : EndReason) : Prop :=
      (t.boom b).anchorage = some (evaluate s.params.plan (s.calib b).kt (t.boom b).classifier.layers deepest
        ((u.anchorage.map Anchorage.evaluations).getD 0) reason)
    (u.ctl.state = .collaring → u.tracker.contactSeen = true → ((s.params.plan.collarDepth * 800 : Nat) : Int) ≤ depth →
      ∃ t, ends t .collared ∧ unfaulted t ∧ settled t ∧ (t.boom b).ctl.collarTimer = none ∧ (t.boom b).anchorage = u.anchorage) ∧
    (u.ctl.state = .drilling → u.tracker.contactSeen = true →
      (∀ h, u.ctl.hole = some h → deepest < 2040000 → u.tracker.maxDepth < deepest → h.planDepth * 800 ≤ deepest →
        ∃ t, ends t .drilled ∧ unfaulted t ∧ settled t ∧ evaluated t .depthReached) ∧
      (2040000 ≤ deepest → ∃ t, ends t .drilled ∧ settled t ∧ evaluated t .depthLimit ∧ s.faultWritten t b .depthLimit none ∧
        (t.boom b).link.stopLatch = true ∧
        (t.boom b).ctl.hole.map HoleRecord.fault = u.ctl.hole.map fun _ => some .depthLimit)) ∧
    (u.ctl.state = .retracting → depth ≤ -((s.params.plan.clearDistance * 800 : Nat) : Int) →
      ∃ t, ends t .retracted ∧ unfaulted t ∧ (t.boom b).tracker.cartridgeBase = some x.cartridges ∧
        (t.boom b).tracker.maxDepth = u.tracker.maxDepth ∧ (t.boom b).anchorage = u.anchorage ∧ (t.boom b).wear = u.wear) ∧
    ∀ a h, u.ctl.state = .inserting → u.ctl.run = some .running → x.plate = true → u.anchorage = some a → u.ctl.hole = some h →
      (((a.d : Int) - 150) * 800 ≤ depth →
        ∃ t, ends t .inserted ∧ unfaulted t ∧ (t.boom b).ctl.insertToSpin = some 0 ∧ (t.boom b).tracker.blockRun = 0 ∧
          (t.boom b).tracker.maxDepth = u.tracker.maxDepth ∧ (t.boom b).anchorage = u.anchorage ∧ (t.boom b).wear = u.wear) ∧
      (depth < ((a.d : Int) - 150) * 800 →
        ∃ t, exec (.fifoTake b) s = .next t ∧ s.elsewhere t b ∧ s.closedWith t b h .f (some .insertBlocked) h.torque ∧
          s.faultWritten t b .insertBlocked none ∧ (s.enabled b = true → (t.port b.port).causes.c3 = true) ∧ s.flowFlags t ∧
          (t.boom b).link.stopLatch = true ∧ (t.boom b).tracker.depth = depth)

/-- The 150th sample pressed above the insert line ends INSERTING with INSERT_BLOCKED, whether the sample moves the depth, finds no
encoder reference or comes with the plate switch closed: the hole closes with grade F, with STAGE_FAULT, STAGE_END and, for a changed
grant, FLOW. The row is the whole take that brings it about (log 3). -/
def Obligations.TheBlockRunClosesTheHole : Prop :=
  ∀ (b : Boom) (s : State) (x : Sample) (a : Anchorage) (h : HoleRecord), s.nextSample b x → (s.boom b).tracker.accepts x →
    (s.boom b).ctl.state = .inserting → (s.boom b).ctl.run = some .running → (s.boom b).anchorage = some a →
    (s.boom b).ctl.hole = some h → 150 ≤ s.blockAfter b x a →
    ∃ t, exec (.block b) s = .next t ∧ exec (.fifoTake b) s = .next t ∧ s.elsewhere t b ∧
      s.closedWith t b h .f (some .insertBlocked) h.torque ∧
      s.faultWritten t b .insertBlocked none ∧ (s.enabled b = true → (t.port b.port).causes.c3 = true) ∧ s.flowFlags t ∧
      (t.boom b).tracker.blockRun = 0 ∧ (t.boom b).tracker.depth = s.depthAfter b x ∧
      (t.boom b).tracker.encoderRef = some x.count ∧
      (t.boom b).link = { ((s.sampled b x).boom b).link with stopLatch := true }

/-- The sample that brings the mix accumulator to the mix target takes SPINNING to HOLDING in one act: the hold timer starts at 0, the
gel deadline stops, the boom's one demand is HOLD, and the sample's speed has been added. The row is the whole take that brings it
about (log 3). -/
def Obligations.TheMixTargetTakesSpinningToHolding : Prop :=
  ∀ (b : Boom) (s : State) (x : Sample) (a : Anchorage), s.nextSample b x → (s.boom b).tracker.accepts x →
    (s.boom b).ctl.state = .spinning → (s.boom b).ctl.run = some .running → (s.boom b).anchorage = some a →
    a.mixTarget ≤ min 4294967295 ((s.boom b).ctl.mix + x.speed) →
    ∃ t, exec (.mixTargetReached b) s = .next t ∧ s.elsewhere t b ∧ (t.boom b).ctl.state = .holding ∧
      (t.boom b).ctl.holdTimer = some 0 ∧ (t.boom b).ctl.gelDeadline = none ∧
      (t.boom b).ctl.mix = min 4294967295 ((s.boom b).ctl.mix + x.speed) ∧
      (t.arbiter.demands.filter fun d => d.owner == b.port).map Demand.kind = [.hold] ∧ s.flowFlags t ∧
      (s.enabled b = true → (t.port b.port).causes.c3 = true) ∧
      (t.boom b).ctl.hole = (s.boom b).ctl.hole ∧ (t.boom b).anchorage = (s.boom b).anchorage ∧ t.rowMap = s.rowMap ∧
      t.holeLog = s.holeLog ∧ t.faultLog = s.faultLog

/-- TORQUING ends on a sample, by the first of its tests on the five counts with the sample in them. The 250th sample in a row at the
target closes the hole with torque result ACHIEVED and the grade that the verdict and the resin give, without a fault. Otherwise 100
samples below 40 % of the target after the reach level, or more revolutions than R_tq, at whatever rotation pressure, close it with
SLIPPED and grade F and raise STAGE_FAULT. The peak follows the sample. Both raise STAGE_END, and FLOW for a changed grant.
The rows are the whole takes that bring them about (log 3). -/
def Obligations.TheTorqueTestsCloseTheHole : Prop :=
  ∀ (b : Boom) (s : State) (x : Sample) (a : Anchorage) (h : HoleRecord), s.nextSample b x → (s.boom b).tracker.accepts x →
    (s.boom b).ctl.state = .torquing → (s.boom b).ctl.run = some .running → (s.boom b).anchorage = some a →
    (s.boom b).ctl.hole = some h →
    let c := (s.boom b).ctl.torqued a x
    (250 ≤ c.holdRun →
      ∃ t, exec (.torqueAchieved b) s = .next t ∧ exec (.fifoTake b) s = .next t ∧ s.elsewhere t b ∧
        s.closedWith t b h
          (if a.verdict = .poor ∨ h.resinShort = true ∨ a.resinCapped = true then .c
          else if a.verdict = .extraResin then .b else .a) none (some .achieved) ∧
        (s.enabled b = true → (t.port b.port).causes.c3 = true) ∧ s.flowFlags t ∧
        t.faultLog = s.faultLog ∧ (t.boom b).link = ((s.sampled b x).boom b).link ∧
        (t.boom b).tracker.depth = s.depthAfter b x ∧ (t.boom b).ctl.peak = max (s.boom b).ctl.peak x.rotation) ∧
    (c.holdRun < 250 → 100 ≤ c.slipRun ∨ s.params.plan.rTq * 30000 < c.torqueAcc →
      ∃ t, exec (.slipped b) s = .next t ∧ exec (.fifoTake b) s = .next t ∧ s.elsewhere t b ∧
        s.closedWith t b h .f (some .slipped) (some .slipped) ∧
        s.faultWritten t b .slipped none ∧ (s.enabled b = true → (t.port b.port).causes.c3 = true) ∧ s.flowFlags t ∧
        (t.boom b).link = { ((s.sampled b x).boom b).link with stopLatch := true } ∧
        (t.boom b).tracker.depth = s.depthAfter b x ∧ (t.boom b).ctl.peak = max (s.boom b).ctl.peak x.rotation)

/-! ## The timers of the bolt cycle -/

/-- NO_CONTACT takes COLLARING back to HOLE_OPEN with a fault and its between-stage timer at 0; the end of the hold time takes HOLDING to
SET with the torque window at 0, without a fault and with the stop latch as it was. Both raise STAGE_END, the fault STAGE_FAULT, and a
changed grant FLOW. -/
def Obligations.TheCollarAndHoldTimersEndTheirStages : Prop :=
  ∀ (b : Boom) (s : State) (n : Nat),
    ((s.boom b).ctl.state = .collaring → (s.boom b).tracker.contactSeen = false → (s.boom b).ctl.collarTimer = some n →
      3000 ≤ n →
      ∃ t, exec (.noContact b) s = .next t ∧ s.elsewhere t b ∧ (t.boom b).ctl.state = .holeOpen ∧ (t.boom b).ctl.run = none ∧
        (t.boom b).ctl.collarTimer = none ∧
        (t.boom b).ctl.betweenStage = (betweenLimit s.params.plan.betweenCode).map (fun _ => 0) ∧
        (t.boom b).ctl.hole.map HoleRecord.fault = (s.boom b).ctl.hole.map (fun _ => some .noContact) ∧
        (t.boom b).link.stopLatch = true ∧ s.faultWritten t b .noContact none ∧
        (s.enabled b = true → (t.port b.port).causes.c3 = true) ∧ s.flowFlags t ∧
        (t.arbiter.demands.filter fun d => d.owner == b.port) = [] ∧ t.rowMap = s.rowMap ∧ t.holeLog = s.holeLog) ∧
    ((s.boom b).ctl.state = .holding → (s.boom b).ctl.holdTimer = some n → s.params.plan.holdTime ≤ n →
      ∃ t, exec (.holdTimeElapsed b) s = .next t ∧ s.elsewhere t b ∧ (t.boom b).ctl.state = .set ∧ (t.boom b).ctl.run = none ∧
        (t.boom b).ctl.holdTimer = none ∧ (t.boom b).ctl.torqueWindow = some 0 ∧
        (t.boom b).ctl.hole = (s.boom b).ctl.hole ∧ (t.boom b).link = (s.boom b).link ∧
        (t.boom b).tracker = (s.boom b).tracker ∧ (t.arbiter.demands.filter fun d => d.owner == b.port) = [] ∧
        (s.enabled b = true → (t.port b.port).causes.c3 = true) ∧ s.flowFlags t ∧
        t.rowMap = s.rowMap ∧ t.holeLog = s.holeLog ∧ t.faultLog = s.faultLog)

/-- The timers that close a hole: the torque time of 8,000 ms and the torque window with grade C, the insert-to-spin limit and the gel
deadline with grade F, each in its stage or its wait state, and the between-stage limit with grade X. Each raises STAGE_FAULT; STAGE_END
is raised where a stage ends, and only there, and FLOW for a changed grant. -/
def Obligations.TheResinTorqueAndWaitTimersCloseTheHole : Prop :=
  ∀ (b : Boom) (s : State) (n : Nat) (h : HoleRecord), (s.boom b).ctl.hole = some h →
    let flagged (t : State) : Prop :=
      s.flowFlags t ∧ ((t.port b.port).causes.c3 = true ↔
        (s.port b.port).causes.c3 = true ∨ (s.enabled b = true ∧ (s.boom b).ctl.state.isStage = true))
    ((s.boom b).ctl.state = .torquing → (s.boom b).ctl.torqueTime = some n → 8000 ≤ n →
      ∃ t, exec (.torqueTimeout b) s = .next t ∧ s.elsewhere t b ∧
        s.closedWith t b h .c (some .torqueTimeout) (some .torqueTimeout) ∧ s.faultWritten t b .torqueTimeout none ∧ flagged t) ∧
    ((s.boom b).ctl.state = .spinning → (s.boom b).ctl.gelDeadline = some n → s.params.plan.gelDeadline ≤ n →
      ∃ t, exec (.mixIncomplete b) s = .next t ∧ s.elsewhere t b ∧ s.closedWith t b h .f (some .mixIncomplete) h.torque ∧
        s.faultWritten t b .mixIncomplete none ∧ flagged t) ∧
    ((s.boom b).ctl.state = .inserted ∨ (s.boom b).ctl.state = .spinning → (s.boom b).ctl.insertToSpin = some n →
      s.params.plan.insertToSpin ≤ n →
      ∃ t, exec (.spinLate b) s = .next t ∧ s.elsewhere t b ∧ s.closedWith t b h .f (some .spinLate) h.torque ∧
        s.faultWritten t b .spinLate none ∧ flagged t) ∧
    ((s.boom b).ctl.state = .set ∨ (s.boom b).ctl.state = .torquing → (s.boom b).ctl.torqueWindow = some n →
      s.params.plan.torqueWindow ≤ n →
      ∃ t, exec (.torqueMissed b) s = .next t ∧ s.elsewhere t b ∧
        s.closedWith t b h .c (some .torqueMissed) (some .torqueMissed) ∧ s.faultWritten t b .torqueMissed none ∧ flagged t) ∧
    ∀ limit, (s.boom b).ctl.state.waitsBetween = true → betweenLimit s.params.plan.betweenCode = some limit →
      (s.boom b).ctl.betweenStage = some n → limit ≤ n →
      ∃ t, exec (.waitTimeout b) s = .next t ∧ s.elsewhere t b ∧ s.closedWith t b h .x (some .waitTimeout) h.torque ∧
        s.faultWritten t b .waitTimeout none ∧ flagged t

/-! ## The machine monitor -/

/-- A sleep that has run its time starts a round, which converts the enabled channels in rising order and channel 6 last; the end of a
conversion makes the code the channel's last code and, on an enabled channel, a target seen for the first time becomes the pending
debounce, and no target empties it. A disabled channel's code is kept as its last code and its debounce stays: the model's choice (log 18).
Nothing outside the monitor changes. -/
def Obligations.ARoundConvertsTheEnabledChannelsInTurn : Prop :=
  ∀ s : State,
    (s.monitor.round = .sleeping → s.monitor.sleepLimit ≤ s.monitor.roundTimer →
      ∃ k, s.monitor.nextFrom 0 k ∧
        exec .roundStart s = .next (s.modMonitor fun m => { m with round := .converting k, roundTimer := 0 })) ∧
    ∀ (code : Code) (k : Nat) (c : Channel), s.monitor.round = .converting k → k < 6 → 1 ≤ s.monitor.roundTimer →
      s.monitor.channels[k]? = some c →
      let leaves (d : Option Breach) : Prop := ∃ j, s.monitor.nextFrom (k + 1) j ∧
        exec (.conversionEnd code) s = .next (s.modMonitor fun m =>
          { m with
            channels := m.channels.set k { c with last := some code.toNat, debounce := d }
            round := .converting j, roundTimer := 0 })
      (c.limits.enabled = false → leaves c.debounce) ∧
      (c.limits.enabled = true → c.sees code.toNat none → leaves none) ∧
      ∀ target, c.limits.enabled = true → c.sees code.toNat (some target) → c.debounce ≠ some target → leaves (some target)

/-- The second conversion in a row with the same target changes the channel's breach state, and the change of the interlock set is
handed on in the same act: Q_avail follows the new set, and INTERLOCK is raised on the machine port and, where one of the seven interlocks
that refuse a boom's requests has changed, on each boom port. A gas or dust onset suspends each boom in COLLARING or DRILLING, a lost
support every stage, each joining the stage's suspending set. A lost supply ends every stage with SUPPLY and its fault record: COLLARING,
DRILLING and RETRACTING in the states that leave the hole open, the slices settled, every later stage with its hole closed with grade F.
The left boom's end before the right boom's, in the fault log, the hole log and the row, is the model's choice (log 12), and so is the run
condition in the SUPPLY records, the one before the change (log 11). The row is the whole
conversion end that brings it about (log 3). -/
def Obligations.AConfirmedTargetChangesTheInterlockSetInOneAct : Prop :=
  ∀ (s : State) (code : Code) (k : Nat) (c : Channel) (target : Breach), s.monitor.round = .converting k → k < 6 →
    1 ≤ s.monitor.roundTimer → s.monitor.channels[k]? = some c → c.limits.enabled = true → c.sees code.toNat (some target) →
    c.debounce = some target →
    ∃ t j, exec (.breachChange code) s = .next t ∧ s.monitor.nextFrom (k + 1) j ∧ t.backdrop = s.backdrop ∧
      t.monitor =
        { s.monitor with
          channels := s.monitor.channels.set k { c with last := some code.toNat, breach := target, debounce := none }
          round := .converting j, roundTimer := 0 } ∧
      (t.interlocks = s.interlocks → t = { s with monitor := t.monitor }) ∧
      (t.interlocks ≠ s.interlocks → t.arbiter.qAvail = availableFlow s.params.plan.qPump t.interlocks) ∧ s.interlockFlags t ∧
      (k ≠ 5 → s.holesStand t ∧ t.faultLog = s.faultLog ∧ t.rowMap = s.rowMap) ∧
      ((k = 0 ∧ c.breach = .inside) ∨ (k = 4 ∧ target = .lo) →
        ∀ b, (s.boom b).ctl.state = .collaring ∨ (s.boom b).ctl.state = .drilling → s.suspends t b) ∧
      (k = 3 → target = .lo → s.rowMap.supportSet = true → ∀ b, (s.boom b).ctl.state.isStage = true → s.suspends t b) ∧
      (k = 5 → target = .lo → s.supplyEnds t)

/-- The reference channel ends the round, which then sleeps. Its fail run reaches 2 with MONITOR_FAULT, which writes one record with both
booms as they stood and suspends every stage in progress; its pass run reaches 4 with the clearing, which resumes nothing; the second
complete round ends the warm-up, on a code that passes and on one that fails, with whatever that code does to the two runs and to
MONITOR_FAULT. Each raises INTERLOCK on the three ports. The rows are the whole conversion ends that bring them about
(log 3); the record's moment is log 11. -/
def Obligations.TheReferenceChannelSetsAndClearsTheMonitorFault : Prop :=
  ∀ (s : State) (code : Code), s.monitor.round = .converting 6 → 1 ≤ s.monitor.roundTimer →
    let passes : Prop := s.monitor.refExp ≤ code.toNat + s.monitor.refTol ∧ code.toNat ≤ s.monitor.refExp + s.monitor.refTol
    let slept : Monitor :=
      { s.monitor with
        refLast := some code.toNat, round := .sleeping, roundTimer := 0, sleepLimit := s.monitor.sleep
        warmup := if s.monitor.warming then min 2 (s.monitor.warmup + 1) else s.monitor.warmup
        warming := s.monitor.warming && decide (s.monitor.warmup = 0) }
    let quietRound : Prop := s.monitor.warming = true → s.monitor.warmup = 0
    let recorded (t : State) : Prop :=
      ∃ r, t.faultLog = s.faultLog.record r ∧ r.code = .monitorFault ∧ r.source = .device ∧ r.detail = some code.toNat ∧
        r.left = some (s.stance .left) ∧ r.right = some (s.stance .right) ∧ r.time = s.millis ∧ r.depth = none ∧
        r.interlocks.monitorFault = true ∧ r.recent = s.portMachine.recent
    (passes → quietRound → (s.monitor.fault = true → s.monitor.passRun < 3) →
      exec (.conversionEnd code) s =
        .next { s with monitor := { slept with passRun := min 4 (s.monitor.passRun + 1), failRun := 0 } }) ∧
    (¬ passes → quietRound → (s.monitor.fault = false → s.monitor.failRun = 0) →
      exec (.conversionEnd code) s =
        .next { s with monitor := { slept with failRun := min 2 (s.monitor.failRun + 1), passRun := 0 } }) ∧
    (¬ passes → s.monitor.fault = false → 1 ≤ s.monitor.failRun →
      ∃ t, exec (.monitorFault code) s = .next t ∧ t.monitor = { slept with failRun := 2, passRun := 0, fault := true } ∧
        t.backdrop = s.backdrop ∧ s.holesStand t ∧ t.rowMap = s.rowMap ∧ recorded t ∧ s.interlockFlags t ∧
        ∀ b, (s.boom b).ctl.state.isStage = true → s.suspends t b) ∧
    (passes → s.monitor.fault = true → 3 ≤ s.monitor.passRun →
      ∃ t, exec (.monitorFaultClear code) s = .next t ∧ t.monitor = { slept with passRun := 4, failRun := 0, fault := false } ∧
        t.backdrop = s.backdrop ∧ s.holesStand t ∧ t.rowMap = s.rowMap ∧ t.faultLog = s.faultLog ∧
        s.interlockFlags t ∧ ∀ b, (s.boom b).ctl.run = some .suspended → (t.boom b).ctl.run = some .suspended) ∧
    (s.monitor.warming = true → 1 ≤ s.monitor.warmup →
      let arises : Prop := ¬ passes ∧ s.monitor.fault = false ∧ 1 ≤ s.monitor.failRun
      ∃ t, exec (.warmupEnd code) s = .next t ∧ exec (.conversionEnd code) s = .next t ∧
        t.backdrop = s.backdrop ∧ s.holesStand t ∧ t.rowMap = s.rowMap ∧ s.interlockFlags t ∧
        (passes → t.monitor =
          { slept with
            passRun := min 4 (s.monitor.passRun + 1), failRun := 0
            fault := s.monitor.fault && decide (s.monitor.passRun < 3) }) ∧
        (¬ passes → t.monitor =
          { slept with
            failRun := min 2 (s.monitor.failRun + 1), passRun := 0
            fault := s.monitor.fault || decide (1 ≤ s.monitor.failRun) }) ∧
        (∀ b, (s.boom b).ctl.run = some .suspended → (t.boom b).ctl.run = some .suspended) ∧
        (¬ arises → t.faultLog = s.faultLog) ∧
        (arises → recorded t ∧ ∀ b, (s.boom b).ctl.state.isStage = true → s.suspends t b))

/-! ## The master ports -/

/-- A transfer. On an open port that holds a reply it drives 32 bytes, each most significant bit first, and 1s after them: status, code,
length, payload, and a CRC-8 over the 31 bytes before it; on one that is processing, NOT_READY with length 0; a closed port drives all
1s, and so does the rest of a transfer that a reset has cut. In reset a port drives nothing: section 11.1 and log 19, the model's
reading. The end of a transfer of 32 bytes or more begun with a reply puts its first 32 bytes, read most significant bit first, into
processing; any other end leaves the reply as it was. The status byte holds the code of the first flag set, the number of flags set,
POST_FAIL and ZONE_DEFAULTED. -/
def Obligations.ATransferDrivesTheReplyAndTakesTheRequest : Prop :=
  ∀ (s : State) (p : Port),
    let drives (t : State) (f : List Byte) : Prop :=
      s.phase ≠ .inReset →
        (∀ j k, j < 32 → k < 8 → t.dataOut p (8 * j + k) = some ((f.getD j 0).getLsbD (7 - k))) ∧
          ∀ i, 256 ≤ i → t.dataOut p i = some true
    (s.phase ≠ .off → (s.port p).transfer = none →
      ((s.port p).isOpen = true → ∀ r, (s.port p).reply = .pending r → r.payload.length ≤ 28 →
        ∃ f t, exec (.transferBegin p) s = .next t ∧
          t = (s.modPort p fun port => { port with transfer := some .begunPending, driven := some f }) ∧
          drives t f ∧ f.length = 32 ∧ crc8 (f.take 31) = f.getD 31 0 ∧
          f.take (3 + r.payload.length) =
            s.statusByte p :: BitVec.ofNat 8 r.code.toNat :: BitVec.ofNat 8 r.payload.length :: r.payload) ∧
      ((s.port p).isOpen = true → ∀ q, (s.port p).reply = .processing q →
        ∃ f t, exec (.transferBegin p) s = .next t ∧
          t = (s.modPort p fun port => { port with transfer := some .notReady, driven := some f }) ∧
          drives t f ∧ f.length = 32 ∧ crc8 (f.take 31) = f.getD 31 0 ∧ f.take 3 = [s.statusByte p, 0x22, 0]) ∧
      ((s.port p).isOpen = false →
        ∃ t, exec (.transferBegin p) s = .next t ∧
          t = (s.modPort p fun port =>
            { port with
              transfer := some .onClosed, driven := if s.phase = .inReset then none else some (List.replicate 32 0xFF) }) ∧
          ∀ i, t.dataOut p i = if s.phase = .inReset then none else some true)) ∧
    ((s.port p).transfer.isSome = true → (s.port p).driven = none → s.phase ≠ .off →
      ∀ i, s.dataOut p i = if s.phase = .inReset then none else some true) ∧
    (∀ (frame : List Byte) (rest : List Bool), (s.port p).transfer = some .begunPending → frame.length = 32 →
      exec (.transferEnd p (frame.flatMap bitsMsb ++ rest)) s = .next (s.modPort p fun port =>
        { port with transfer := none, driven := none, reply := .processing { frame, ended := s.millis } })) ∧
    (∀ received : List Bool, (s.port p).transfer.isSome = true →
      (s.port p).transfer ≠ some .begunPending ∨ received.length < 256 →
      exec (.transferEnd p received) s = .next (s.modPort p fun port => { port with transfer := none, driven := none })) ∧
    (let c := (s.port p).causes
      let flags := [c.c1, c.c2, c.c3, c.c4, c.c5, c.c6, c.c7]
      let status := (s.statusByte p).toNat
      status % 8 = ((flags.findIdx? id).map (· + 1)).getD 0 ∧ status / 8 % 8 = flags.countP id ∧
        (s.statusByte p).getLsbD 6 = s.postFail ∧
        ((s.statusByte p).getLsbD 7 = true ↔ ∃ z ∈ s.mem.zones, z = .defaulted))

/-- Every request kind as a master sends it on a port that takes it, with any payload of up to 29 bytes, passes the frame test and is read
as that kind with that payload as its operands. -/
def Obligations.ARequestFrameIsReadAsTheKindAndPayloadSent : Prop :=
  ∀ (p : Port) (c : Nat × RequestKind) (payload : List Byte) (ended : Millis), c ∈ RequestKind.codes → c.2.onPort p = true →
    payload.length ≤ 29 →
    (requestFrame (BitVec.ofNat 8 c.1) payload).length = 32 ∧
      (let q : Request := { frame := requestFrame (BitVec.ofNat 8 c.1) payload, ended }
       q.isFrameError = false ∧ q.kindOn p = some c.2 ∧ q.lengthByte = payload.length ∧ q.operands = payload)

/-- The requests that a port settles alone, each leaving the rest of the machine as it was. A frame that fails the CRC or whose length
byte is above 29 gets FRAME_ERROR; a kind that the port does not take gets UNKNOWN_KIND; NOP gets ACCEPTED; CLEAR_CAUSE clears the flag of
its code, or gets RANGE where no flag has that code. None joins the recent-request list. A request of any kind but a read on the port of a
disabled boom gets BOOM_ABSENT, and then one of any kind with a length byte that its kind does not take gets RANGE, with nothing else of
the machine changed. The end of processing, which every other request shares: the reply stands PENDING with its code and payload, and a
command, but no read, joins the list of the last four with its kind, its first 4 payload bytes, the code and the time at which its
transfer ended. And the attention line of a port is asserted while it is open, its boom enabled and a flag set. -/
def Obligations.ThePortSettlesBadFramesNopAndClearCause : Prop :=
  ∀ (s : State) (p : Port) (q : Request),
    ((s.port p).reply = .processing q → crc8 (q.frame.take 31) ≠ q.frame.getD 31 0 ∨ 29 < q.lengthByte →
      exec (.frameError p) s = .next (s.onlyReply p .frameError [])) ∧
    ((s.port p).reply = .processing q → crc8 (q.frame.take 31) = q.frame.getD 31 0 → q.lengthByte ≤ 29 →
      (∀ c ∈ RequestKind.codes, c.1 = q.kindByte.toNat → c.2.onPort p = false) →
      exec (.unknownKind p) s = .next (s.onlyReply p .unknownKind [])) ∧
    (s.taken p .nop q → exec (.nop p) s = .next (s.onlyReply p .accepted [])) ∧
    (∀ (k : RequestKind) (b : Boom) (pins : Straps), (k.onPort .machine = false → p = b.port) → s.held p k = some q →
      (s.absentPort p = true → k.isRead = false → exec (k.command p b pins) s = .next (s.finish p q k .boomAbsent [])) ∧
      (s.absentPort p = false ∨ k.isRead = true → ¬ k.takesLength p q q.lengthByte →
        exec (k.command p b pins) s = .next (s.finish p q k .range []))) ∧
    (s.taken p .clearCause q →
      (1 ≤ operand q.operands 0 → operand q.operands 0 ≤ 7 →
        exec (.clearCause p) s = .next ((s.onlyReply p .accepted []).modPort p fun port =>
          { port with
            causes :=
              { c1 := port.causes.c1 && operand q.operands 0 != 1, c2 := port.causes.c2 && operand q.operands 0 != 2
                c3 := port.causes.c3 && operand q.operands 0 != 3, c4 := port.causes.c4 && operand q.operands 0 != 4
                c5 := port.causes.c5 && operand q.operands 0 != 5, c6 := port.causes.c6 && operand q.operands 0 != 6
                c7 := port.causes.c7 && operand q.operands 0 != 7 } })) ∧
      (operand q.operands 0 = 0 ∨ 7 < operand q.operands 0 → exec (.clearCause p) s = .next (s.onlyReply p .range []))) ∧
    (∀ (k : RequestKind) (code : ReplyCode) (payload : List Byte),
      let asks := k ∈ ([.nop, .clearCause, .readStatus, .readLive, .readHole, .readRow, .readFault, .readAttributes, .readMonitor,
        .readLink] : List RequestKind)
      s.finish p q k code payload = s.modPort p fun port =>
        { port with
          reply := .pending { code, payload }
          recent := if asks then port.recent
            else port.recent.drop (port.recent.length - 3) ++
              [{ kind := q.frame.getD 0 0, payload := (q.frame.drop 2).take 4, code, time := q.ended }] }) ∧
    (let c := (s.port p).causes;
      s.attention p = true ↔ (s.port p).isOpen = true ∧ (∀ b, p = b.port → s.enabled b = true) ∧
        true ∈ [c.c1, c.c2, c.c3, c.c4, c.c5, c.c6, c.c7])

/-- The eight reads. Each leaves the whole machine as it was but for the asking port's reply, which is DATA for a part (and a boom) that
exists and RANGE with no payload otherwise; a read of a log gives RANGE for a record that it does not hold. The bytes of every part stand
as section 10.8 lays them out. Where that section leaves a byte open the model's choice stands: a signed depth that may be absent (log
21), the depths of parts 1 and 2 of READ_LIVE in whole millimetres in 2 bytes (log 22), the codes of the named lists and 0 for the W and z
that a record lacks (log 24), the zeros of an UNMEASURED slice (log 32), a present byte in part 4 of READ_LIVE (log 33) and the limit of
the stage's own timer at that part's end (log 34), the peak beside the other torque counts (log 35), the slots counted as they stand in
the row (log 36), the enable byte (log 37), the fields that form a group (log 39), the at-face byte of a sample that makes no test (log
40) and 0 for the cartridges counted that a record lacks (log 41). -/
def Obligations.TheEightReadsAnswerAndChangeNothingElse : Prop :=
  ∀ (s : State) (p : Port) (q : Request),
    let x := operand q.operands 0
    let y := operand q.operands 1
    let answers (o : Host.Outcome State Fault Refusal) (good : Prop) (bytes : List Byte) : Prop :=
      (good → o = .next (s.onlyReply p .data bytes)) ∧ (¬ good → o = .next (s.onlyReply p .range []))
    let booms (o : Host.Outcome State Fault Refusal) (parts : Nat) (bytes : Boom → List Byte) : Prop :=
      (x = 0 → y < parts → o = .next (s.onlyReply p .data (bytes .left))) ∧
        (x = 1 → y < parts → o = .next (s.onlyReply p .data (bytes .right))) ∧
        (1 < x ∨ parts ≤ y → o = .next (s.onlyReply p .range []))
    (s.taken p .readStatus q → answers (exec (.readStatus p) s) (x ≤ 2) (s.statusLayout p x)) ∧
    (s.taken p .readLive q → ∀ b, p = b.port → answers (exec (.readLive p) s) (x ≤ 10) (s.liveLayout b x)) ∧
    (s.taken p .readLive q → p = .machine → booms (exec (.readLive p) s) 11 fun b => s.liveLayout b y) ∧
    (s.taken p .readRow q → answers (exec (.readRow p) s) (x ≤ 5) (s.rowLayout x)) ∧
    (s.taken p .readAttributes q → booms (exec (.readAttributes p) s) 2 fun b => (s.boom b).wear.attributeLayout y) ∧
    (s.taken p .readMonitor q → answers (exec (.readMonitor p) s) (x ≤ 3) (s.monitorLayout x)) ∧
    (s.taken p .readLink q → booms (exec (.readLink p) s) 2 fun b => (s.boom b).link.linkLayout y) ∧
    (s.taken p .readHole q →
      (∀ h, s.holeLog.places[(s.holeLog.pointer + 63 - x) % 32]? = some (some h) →
        answers (exec (.readHole p) s) (x ≤ 31 ∧ y ≤ 4 ∧ x < s.holeLog.count) (s.holeLayout h y)) ∧
      ((∀ h, s.holeLog.places[(s.holeLog.pointer + 63 - x) % 32]? ≠ some (some h)) →
        exec (.readHole p) s = .next (s.onlyReply p .range []))) ∧
    (s.taken p .readFault q →
      (∀ r, s.faultLog.places[(s.faultLog.pointer + 15 - x) % 8]? = some (some r) →
        answers (exec (.readFault p) s) (x ≤ 7 ∧ y ≤ 2 ∧ x < s.faultLog.count) (s.faultLayout r y)) ∧
      ((∀ r, s.faultLog.places[(s.faultLog.pointer + 15 - x) % 8]? ≠ some (some r)) →
        exec (.readFault p) s = .next (s.onlyReply p .range [])))

/-! ## The requests of a boom -/

/-- BEGIN_HOLE refused, the first test that fails deciding, with nothing changed but the reply and the list: a boom that is not IDLE, no
such slot, a load in flight, a calibration zone at its defaults, a slot claimed or resolved, the other boom too close, or an interlock. -/
def Obligations.BeginHoleIsRefusedByItsFirstFailingTest : Prop :=
  ∀ (s : State) (b : Boom) (q : Request), s.taken b.port .beginHole q → s.check.running = false →
    let n := operand q.operands 0
    let blocking := s.interlocks.inter claimBlockers
    let refused (c : ReplyCode) (x : List Byte) : Prop := exec (.beginHole b) s = .next (s.finish b.port q .beginHole c x)
    ((s.boom b).ctl.state ≠ .idle → refused .wrongState []) ∧
    ((s.boom b).ctl.state = .idle →
      (s.rowMap.slot n = none → refused .range []) ∧
      ∀ sl, s.rowMap.slot n = some sl →
        (∀ z, s.mem.op = .load z → refused .busy []) ∧
        ((∀ z, s.mem.op ≠ .load z) →
          (s.mem.zones[calibZone b]? = some .defaulted → refused .config []) ∧
          (s.mem.zones[calibZone b]? ≠ some .defaulted →
            (∀ c, sl.state = .claimed c → refused .slotTaken []) ∧
            (∀ g, sl.state = .bolted g → refused .slotResolved []) ∧
            (sl.state = .waived → refused .slotResolved []) ∧
            (sl.state = .isOpen →
              (∀ o, s.rowMap.claimOf (otherBoom b) = some o →
                ((o.position : Int) - sl.position).natAbs < s.params.plan.separation → refused .separation []) ∧
              ((∀ o, s.rowMap.claimOf (otherBoom b) = some o →
                  s.params.plan.separation ≤ ((o.position : Int) - sl.position).natAbs) →
                blocking ≠ Interlocks.empty → refused .interlock (bytesLE 2 blocking.toNat))))))

/-- BEGIN_HOLE admitted: the slot is CLAIMED by the boom, the boom enters HOLE_OPEN with its between-stage timer at 0, the tracker starts
a new hole and keeps its reference, z and glitch run, layer list and plan are empty, the mix accumulator is 0, and a hole record
starts. Nothing else changes. -/
def Obligations.BeginHoleAdmittedClaimsTheSlotAndStartsTheHole : Prop :=
  ∀ (s : State) (b : Boom) (q : Request) (sl : Slot), s.taken b.port .beginHole q → s.check.running = false →
    (s.boom b).ctl.state = .idle → s.rowMap.slot (operand q.operands 0) = some sl → (∀ z, s.mem.op ≠ .load z) →
    s.mem.zones[calibZone b]? ≠ some .defaulted → sl.state = .isOpen →
    (∀ o, s.rowMap.claimOf (otherBoom b) = some o →
      s.params.plan.separation ≤ ((o.position : Int) - sl.position).natAbs) →
    s.interlocks.inter claimBlockers = Interlocks.empty →
    let claim (x : Slot) : Slot := if x.number = sl.number then { x with state := .claimed b } else x
    exec (.beginHole b) s = .next
      (({ s with
          rowMap := { s.rowMap with
            planned := s.rowMap.planned.map claim, supplementary := s.rowMap.supplementary.map claim } }.modBoom b fun u =>
          { u with
            tracker := { u.tracker with
              depth := 0, maxDepth := 0, contactSeen := false, window := [], slice := none, handedBottom := none
              stallCount := 0, blockRun := 0, cartridgeBase := none }
            classifier := { u.classifier with layers := [], last := none }
            anchorage := none
            ctl := { u.ctl with
              state := .holeOpen, run := none, firstRun := false, suspending := Interlocks.empty
              collarTimer := none, torqueTime := none, holdTimer := none, insertToSpin := none, gelDeadline := none
              torqueWindow := none
              betweenStage := if s.params.plan.betweenCode = 0 then none else some 0
              mix := 0
              hole := some (HoleRecord.start s.rowMap.rowNumber sl.number b sl.depth) } }).finish b.port q .beginHole
        .accepted [])

/-- A stage request taken enters its stage with the stage's demand, and FLOW is raised for each grant that its allocation changes: COLLAR
captures z from a full feed window, hands another value to FEED_ZERO, which is evaluated, with WEAR on a crossing or a recovery, records
z, W and the two wear flags in the hole, and starts the contact timer; DRILL opens a slice at maximum depth; RETRACT; INSERT reads the
cartridges counted, modulo 256, and marks the hole short; SPIN sets the mix accumulator to 0; TORQUE sets its counts to 0 and its time
running. Each stops the between-stage timer. SPIN RUNNING at once stops insert-to-spin and starts the gel deadline, TORQUE RUNNING at once
stops the torque window; in WAIT_FLOW these timers run on. RESUME taken: a SUSPENDED stage rejoins the list as its youngest entry, with
nothing of the stage reset; where it runs at once, only its first run stops or starts a resin timer. -/
def Obligations.AStageRequestTakenEntersItsStage : Prop :=
  ∀ (s : State) (b : Boom) (q : Request),
    let u := s.boom b
    let entered (v : BoomUnit) (st : BoomState) : Controller :=
      { u.ctl with
        state := st, run := v.ctl.run, firstRun := v.ctl.run == some .running, suspending := Interlocks.empty
        betweenStage := none, hole := v.ctl.hole }
    let takes (k : RequestKind) (c : Instr) (st : BoomState) (more : BoomUnit → Prop) : Prop :=
      s.taken b.port k q → s.mayStart b st → ∃ t, exec c s = .next t ∧ s.answers t b k q .accepted [] ∧ s.waitsOrRuns t b st ∧
        more (t.boom b) ∧ s.flowFlags t ∧
        (let crosses : Prop := (t.boom b).wear.feedZero.crossed ≠ u.wear.feedZero.crossed
         ((t.port b.port).causes.c6 = true ↔ (s.port b.port).causes.c6 = true ∨ crosses) ∧
          (t.portMachine.causes.c7 = true ↔ s.portMachine.causes.c7 = true ∨ crosses)) ∧
        t.arbiter.demands.map Demand.kind = s.arbiter.demands.map Demand.kind ++ [st.demandKind] ∧
        s.logsKept t ∧ t.rowMap = s.rowMap ∧ (t.boom b).classifier = u.classifier ∧
        (t.boom b).anchorage = u.anchorage ∧ (t.boom b).tracker.depth = u.tracker.depth ∧
        (t.boom b).tracker.maxDepth = u.tracker.maxDepth
    (u.ctl.state = .holeOpen → takes .collar (.collar b) .collaring fun v =>
      v.ctl = { entered v .collaring with collarTimer := some 0 } ∧
        v.tracker.z = (if u.tracker.window.length = 25 then min 500 (u.tracker.window.sum / 25) else u.tracker.z) ∧
        (v.tracker.z = u.tracker.z → v.wear = u.wear) ∧
        (v.tracker.z ≠ u.tracker.z →
          let a := u.wear.feedZero
          let norm := 253 - v.tracker.z * 252 / 500
          v.wear = { u.wear with
            feedZero := { a with raw := v.tracker.z, norm, worst := min a.worst norm, crossed := decide (norm ≤ a.threshold) } }) ∧
        v.ctl.hole = u.ctl.hole.map fun h =>
          { h with
            z := some v.tracker.z, w := some u.wear.w, wornBit := h.wornBit || u.wear.bitWear.crossed
            sensorSuspect := h.sensorSuspect || v.wear.feedZero.crossed }) ∧
    (u.ctl.state = .collared ∨ u.ctl.state = .drilled → takes .drill (.drill b) .drilling fun v =>
      v.ctl = entered v .drilling ∧ v.ctl.hole = u.ctl.hole ∧ v.wear = u.wear ∧
        v.tracker = { u.tracker with
          stallCount := 0
          slice := some
            { start := u.tracker.maxDepth, top := u.tracker.handedBottom.getD 0, sf := 0, sr := 0, n := 0, nSpan := 0
              saturated := false } }) ∧
    (u.ctl.state = .collared ∨ u.ctl.state = .drilled → takes .retract (.retract b) .retracting fun v =>
      v.ctl = entered v .retracting ∧ v.tracker = u.tracker ∧ v.ctl.hole = u.ctl.hole ∧ v.wear = u.wear) ∧
    (∀ a, u.anchorage = some a → u.ctl.state = .retracted → takes .insert (.insert b) .inserting fun v =>
      v.ctl = entered v .inserting ∧ v.tracker = { u.tracker with blockRun := 0 } ∧ v.wear = u.wear ∧
        ∀ base last, u.tracker.cartridgeBase = some base → u.tracker.latestCartridge = some last → base < 256 → last < 256 →
          let counted := if base ≤ last then last - base else last + 256 - base
          v.ctl.hole = u.ctl.hole.map fun h =>
            { h with cartridgesCounted := some counted, resinShort := h.resinShort || decide (counted < a.cartridges) }) ∧
    (u.ctl.state = .inserted → takes .spin (.spin b) .spinning fun v =>
      v.ctl =
          { entered v .spinning with
            mix := 0, insertToSpin := if v.ctl.run = some .running then none else u.ctl.insertToSpin
            gelDeadline := if v.ctl.run = some .running then some 0 else u.ctl.gelDeadline } ∧
        v.tracker = u.tracker ∧ v.ctl.hole = u.ctl.hole ∧ v.wear = u.wear) ∧
    (u.ctl.state = .set → takes .torque (.torque b) .torquing fun v =>
      v.ctl =
          { entered v .torquing with
            peak := 0, torqueAcc := 0, holdRun := 0, slipRun := 0, reachMark := false, torqueTime := some 0
            torqueWindow := if v.ctl.run = some .running then none else u.ctl.torqueWindow } ∧
        v.tracker = u.tracker ∧ v.wear = u.wear ∧ v.ctl.hole = u.ctl.hole.map fun h => { h with peak := some 0 }) ∧
    (u.ctl.state.isStage = true → u.ctl.run = some .suspended → takes .resume (.resume b) u.ctl.state fun v =>
      v.tracker = u.tracker ∧ v.wear = u.wear ∧
        (v.ctl.run = some .waitFlow → v.ctl = { u.ctl with run := some .waitFlow, suspending := Interlocks.empty }) ∧
        (v.ctl.run = some .running → v.ctl =
          { u.ctl with
            run := some .running, firstRun := true, suspending := Interlocks.empty
            insertToSpin := if u.ctl.firstRun = false ∧ u.ctl.state = .spinning then none else u.ctl.insertToSpin
            gelDeadline := if u.ctl.firstRun = false ∧ u.ctl.state = .spinning then some 0 else u.ctl.gelDeadline
            torqueWindow := if u.ctl.firstRun = false ∧ u.ctl.state = .torquing then none else u.ctl.torqueWindow }))

/-- A stage request refused, with nothing changed but the reply and the list: WRONG_STATE in any other state, with the link not UP, with
a head fault, or for INSERT without a plan; then INTERLOCK with the interlocks that block the stage. RESUME is tested alike. -/
def Obligations.AStageRequestIsRefusedByStateLinkPlanOrInterlock : Prop :=
  ∀ (s : State) (b : Boom) (q : Request),
    let u := s.boom b
    let tests (k : RequestKind) (c : Instr) (from' planOk : Prop) (st : BoomState) : Prop :=
      s.taken b.port k q →
        (¬ (from' ∧ u.link.state = .up ∧ u.link.headFault = 0 ∧ planOk) →
          exec c s = .next (s.finish b.port q k .wrongState [])) ∧
        (from' → u.link.state = .up → u.link.headFault = 0 → planOk → s.interlocks.inter (blockers st) ≠ Interlocks.empty →
          exec c s = .next (s.finish b.port q k .interlock (bytesLE 2 (s.interlocks.inter (blockers st)).toNat)))
    tests .collar (.collar b) (u.ctl.state = .holeOpen) True .collaring ∧
    tests .drill (.drill b) (u.ctl.state = .collared ∨ u.ctl.state = .drilled) True .drilling ∧
    tests .retract (.retract b) (u.ctl.state = .collared ∨ u.ctl.state = .drilled) True .retracting ∧
    tests .insert (.insert b) (u.ctl.state = .retracted) (u.anchorage.isSome = true) .inserting ∧
    tests .spin (.spin b) (u.ctl.state = .inserted) True .spinning ∧
    tests .torque (.torque b) (u.ctl.state = .set) True .torquing ∧
    tests .resume (.resume b) (u.ctl.state.isStage = true ∧ u.ctl.run = some .suspended) True u.ctl.state

/-- STOP ends COLLARING, DRILLING or RETRACTING without a fault, raises STAGE_END and sets the stop latch: in COLLARED or HOLE_OPEN, in
DRILLED with the anchorage evaluated, and in DRILLED, with the open slice settled, classified and worn; in any other state it is
refused. ABANDON closes the hole, with grade X before INSERTING and F from there on, and no fault; in IDLE it is refused. -/
def Obligations.StopEndsTheStageAndAbandonClosesTheHole : Prop :=
  ∀ (s : State) (b : Boom) (q : Request),
    let st := (s.boom b).ctl.state
    (s.taken b.port .stop q →
      (st = .collaring ∨ st = .drilling ∨ st = .retracting →
        ∃ t, exec (.stop b) s = .next t ∧ s.answers t b .stop q .accepted [] ∧ s.logsKept t ∧ t.rowMap = s.rowMap ∧ s.flowFlags t ∧
          (t.boom b).link.stopLatch = true ∧ (t.port b.port).causes.c3 = true ∧ (t.boom b).ctl.run = none ∧ t.demandKinds b = [] ∧
          (t.boom b).ctl.hole.map HoleRecord.fault = (s.boom b).ctl.hole.map HoleRecord.fault ∧
          s.leavesHole t b (s.settledNow b) .stop ∧ s.wearFlags t b (s.crossesWear b (s.settledNow b)) ∧
          (t.boom b).wear.linkQuality = (s.boom b).wear.linkQuality ∧
          (st = .retracting → (t.boom b).tracker = (s.boom b).tracker)) ∧
      (st ≠ .collaring → st ≠ .drilling → st ≠ .retracting →
        exec (.stop b) s = .next (s.finish b.port q .stop .wrongState []))) ∧
    (s.taken b.port .abandon q →
      (st = .idle → exec (.abandon b) s = .next (s.finish b.port q .abandon .wrongState [])) ∧
      ∀ h, (s.boom b).ctl.hole = some h → st ≠ .idle →
        ∃ t, exec (.abandon b) s = .next t ∧ s.answers t b .abandon q .accepted [] ∧
          s.closedWith t b h
            (if st = .inserting ∨ st = .inserted ∨ st = .spinning ∨ st = .holding ∨ st = .set ∨ st = .torquing then .f else .x)
            none h.torque ∧
          t.faultLog = s.faultLog ∧ s.flowFlags t ∧
          (st.isStage = true → (t.boom b).link.stopLatch = true ∧ (t.port b.port).causes.c3 = true ∧ t.demandKinds b = []))

/-! ## The row and the support -/

/-- SUPPORT_SET and SUPPORT_RELEASED declare the support. A declaration that leaves SUPPORT_LOST as it was changes nothing else of the
booms and the arbiter; its onset suspends every stage in progress; its clearing resumes nothing; both raise INTERLOCK on the three ports. -/
def Obligations.TheSupportDeclarationDrivesSupportLost : Prop :=
  ∀ (s : State) (q : Request),
    let declares (k : RequestKind) (c : Instr) (v : Bool) : Prop :=
      s.taken .machine k q → ∃ t, exec c s = .next t ∧ s.settles t k q .accepted [] ∧ t.rowMap = { s.rowMap with supportSet := v } ∧
        t.monitor = s.monitor ∧ s.holesStand t ∧ t.faultLog = s.faultLog ∧
        t.interlocks = { s.interlocks with supportLost := (s.monitor.breach 3 == .lo) || !v } ∧
        (t.interlocks = s.interlocks → t.arbiter = s.arbiter ∧ (∀ b, t.boom b = s.boom b)) ∧
        s.interlockFlags t ∧
        (s.interlocks.supportLost = false → t.interlocks.supportLost = true →
          ∀ b, (s.boom b).ctl.state.isStage = true → s.suspends t b) ∧
        ∀ b, (s.boom b).ctl.run = some .suspended → (t.boom b).ctl.run = some .suspended
    declares .supportSet .supportSet true ∧ declares .supportReleased .supportReleased false

/-- ROW_ADVANCE: WRONG_STATE with the tram permitted, ROW_OPEN with a slot neither BOLTED nor WAIVED or with the overflow flag, and
otherwise the tram is permitted. TRAM_DONE: WRONG_STATE without it, INTERLOCK with SUPPORT_LOST while the support is released, and
otherwise the TRAM demand leaves and the next row opens, from the pending plan or with the same slots, every one OPEN. -/
def Obligations.RowAdvanceAndTramDoneMoveTheRow : Prop :=
  ∀ (s : State) (q : Request),
    let ready : Prop := (∀ sl ∈ s.rowMap.slots, sl.state = .waived ∨ ∃ g, sl.state = .bolted g) ∧ s.rowMap.overflow = false
    (s.taken .machine .rowAdvance q → s.check.running = false →
      (s.rowMap.tramPermitted = true → exec .rowAdvance s = .next (s.finish .machine q .rowAdvance .wrongState [])) ∧
      (s.rowMap.tramPermitted = false → ¬ ready → exec .rowAdvance s = .next (s.finish .machine q .rowAdvance .rowOpen [])) ∧
      (s.rowMap.tramPermitted = false → ready →
        ∃ t, exec .rowAdvance s = .next t ∧ s.settles t .rowAdvance q .accepted [] ∧ t.rowMap = { s.rowMap with tramPermitted := true } ∧
          t.monitor = s.monitor ∧ s.holesStand t ∧ t.faultLog = s.faultLog ∧ s.interlockFlags t ∧
          (∀ b, s.enabled b = true → (t.port b.port).causes.c7 = true) ∧
          (s.flowCurrent → t.arbiter = s.arbiter ∧ ∀ b, t.boom b = s.boom b))) ∧
    (s.taken .machine .tramDone q →
      (s.rowMap.tramPermitted = false → exec .tramDone s = .next (s.finish .machine q .tramDone .wrongState [])) ∧
      (s.rowMap.tramPermitted = true → s.rowMap.supportSet = false →
        exec .tramDone s = .next (s.finish .machine q .tramDone .interlock [8, 0])) ∧
      (s.rowMap.tramPermitted = true → s.rowMap.supportSet = true →
        ∃ t, exec .tramDone s = .next t ∧ s.settles t .tramDone q .accepted [] ∧ t.monitor = s.monitor ∧ s.holesStand t ∧
          t.faultLog = s.faultLog ∧ s.interlockFlags t ∧ (∀ d ∈ t.arbiter.demands, ¬ (d.owner = .machine ∧ d.kind = .tram)) ∧
          (∀ b, s.enabled b = true → (t.port b.port).causes.c7 = true) ∧
          (∀ plan, s.rowMap.pendingPlan = some plan → t.rowMap.planned = openSlots 0 plan) ∧
          (s.rowMap.pendingPlan = none → t.rowMap.planned = s.rowMap.planned.map fun sl => { sl with state := .isOpen }) ∧
          t.rowMap =
            { rowNumber := (s.rowMap.rowNumber + 1) % 65536, planned := t.rowMap.planned, supplementary := [], pendingPlan := none
              overflow := false, tramPermitted := false, supportSet := true }))

/-- WAIVE, CLEAR_OVERFLOW and SET_PLAN. WAIVE turns an OPEN slot WAIVED; CLEAR_OVERFLOW clears a set flag; both raise ROW_READY where the
row is then ready. SET_PLAN with 1 to 8 slots of different positions within 0 to 7 clamps each depth and replaces the row's slots
while every slot is OPEN and none is supplementary, and waits as the pending plan otherwise. -/
def Obligations.WaiveClearOverflowAndSetPlanChangeTheRowMapAlone : Prop :=
  ∀ (s : State) (q : Request),
    let n := operand q.operands 0
    let refused (k : RequestKind) (c : Instr) (r : ReplyCode) : Prop := exec c s = .next (s.finish .machine q k r [])
    let changes (k : RequestKind) (c : Instr) (r : ReplyCode) (m : RowMap) (row ready : Bool) : Prop :=
      ∃ t, exec c s = .next t ∧ s.settles t k q r [] ∧ t.rowMap = m ∧ t.left = s.left ∧ t.right = s.right ∧ t.arbiter = s.arbiter ∧
        t.monitor = s.monitor ∧ s.logsKept t ∧
        (∀ p, (t.port p).causes =
          { (s.port p).causes with
            c3 := (s.port p).causes.c3 || (p == .machine && ready)
            c7 := (s.port p).causes.c7 || (p != .machine && row && !s.absentPort p) })
    let readyIn (m : RowMap) : Bool := m.slots.all (fun sl => sl.state.resolved) && !m.overflow
    (s.taken .machine .waive q →
      (s.rowMap.slot n = none → refused .waive .waive .range) ∧
      ∀ sl, s.rowMap.slot n = some sl →
        (∀ b, sl.state = .claimed b → refused .waive .waive .slotTaken) ∧
        (sl.state = .waived ∨ (∃ g, sl.state = .bolted g) → refused .waive .waive .slotResolved) ∧
        (sl.state = .isOpen →
          let m := s.rowMap.mapSlots fun x => if x.number = n then { x with state := .waived } else x
          changes .waive .waive .accepted m false (readyIn m))) ∧
    (s.taken .machine .clearOverflow q →
      (s.rowMap.overflow = false → refused .clearOverflow .clearOverflow .wrongState) ∧
      (s.rowMap.overflow = true →
        let m := { s.rowMap with overflow := false }
        changes .clearOverflow .clearOverflow .accepted m false (readyIn m))) ∧
    (s.taken .machine .setPlan q →
      let plan := planOperand (q.operands.drop 1)
      let fitted := plan.map fun p => { p with depth := max 900 (min 2500 p.depth) }
      let reply : ReplyCode := if fitted = plan then .accepted else .acceptedClamped
      let good : Prop := 1 ≤ n ∧ n ≤ 8 ∧ (∀ p ∈ plan, p.position ≤ 7) ∧ (plan.map PlanSlot.position).Nodup
      let untouched : Prop := (∀ sl ∈ s.rowMap.planned, sl.state = .isOpen) ∧ s.rowMap.supplementary = []
      (¬ good → refused .setPlan .setPlan .range) ∧
      (good → untouched →
        changes .setPlan .setPlan reply { s.rowMap with planned := openSlots 0 fitted, pendingPlan := none } true false) ∧
      (good → ¬ untouched → changes .setPlan .setPlan reply { s.rowMap with pendingPlan := some fitted } false false))

/-! ## The pump flow -/

/-- FLOW_TRAM and FLOW_SUPPORT: WRONG_STATE with a demand of that kind in the list or a slot claimed, ROW_OPEN for a tram not permitted,
and otherwise the demand joins the list as its youngest entry with an allocation. FLOW_RELEASE: RANGE for another kind, WRONG_STATE
without the demand, and otherwise the demand leaves with an allocation. FLOW is raised on the port of each owner of which a grant has
changed. Only grants and what follows from them change. -/
def Obligations.MachineDemandsJoinAndLeaveWithAnAllocation : Prop :=
  ∀ (s : State) (q : Request), s.check.running = false →
    let ds := s.arbiter.demands
    let here (k : DemandKind) : Prop := ∃ d ∈ ds, d.owner = .machine ∧ d.kind = k
    let claimed : Prop := ∃ sl ∈ s.rowMap.slots, ∃ b, sl.state = .claimed b
    let changes (k : RequestKind) (c : Instr) (new : List Demand) : Prop :=
      ∃ t, exec c s = .next t ∧ s.settles t k q .accepted [] ∧
        t.arbiter = { qAvail := s.arbiter.qAvail, demands := allocate s.arbiter.qAvail new } ∧
        s.flowFlags t ∧
        (∀ p, { (t.port p).causes with c4 := false } = { (s.port p).causes with c4 := false }) ∧
        (∀ b, (t.boom b).ungranted = (s.boom b).ungranted) ∧ t.rowMap = s.rowMap ∧ t.monitor = s.monitor ∧ s.logsKept t
    let asks (k : RequestKind) (c : Instr) (d : DemandKind) (open' : Prop) : Prop :=
      s.taken .machine k q →
        (here d ∨ claimed → exec c s = .next (s.finish .machine q k .wrongState [])) ∧
        (¬ here d → ¬ claimed → ¬ open' → exec c s = .next (s.finish .machine q k .rowOpen [])) ∧
        (¬ here d → ¬ claimed → open' →
          changes k c (ds ++
            [ { owner := .machine, kind := d, demand := (flowOf s.params.plan d).demand, floor := (flowOf s.params.plan d).floor
                grant := 0 } ]))
    asks .flowTram .flowTram .tram (s.rowMap.tramPermitted = true) ∧ asks .flowSupport .flowSupport .support True ∧
      (s.taken .machine .flowRelease q →
        (1 < operand q.operands 0 → exec .flowRelease s = .next (s.finish .machine q .flowRelease .range [])) ∧
        ∀ k, (operand q.operands 0 = 0 ∧ k = .tram) ∨ (operand q.operands 0 = 1 ∧ k = .support) →
          (¬ here k → exec .flowRelease s = .next (s.finish .machine q .flowRelease .wrongState [])) ∧
          (here k → changes .flowRelease .flowRelease (ds.filter fun d => !(d.owner == .machine && d.kind == k))))

/-! ## The configuration memory -/

/-- WRITE_ZONE and its pages. RANGE for a zone above 5 or a run past its end, BUSY with an operation in flight; otherwise the bytes are
split at the boundaries of 16 bytes alone into pages, in rising order, with nothing written yet. A page that has run its 5 ms stands in
the memory and in the image, and in them nothing else changes; the next page begins, or the operation is done, with CONFIG_DONE and a
waiting save. -/
def Obligations.AWriteReachesTheMemoryPageByPage : Prop :=
  ∀ s : State,
    (∀ q, s.taken .machine .writeZone q →
      let z := operand q.operands 0
      let offset := operand q.operands 1
      let data := q.operands.drop 2
      (5 < z ∨ zoneSize z < offset + data.length → exec .writeZone s = .next (s.finish .machine q .writeZone .range [])) ∧
      (z ≤ 5 → offset + data.length ≤ zoneSize z →
        (s.mem.op ≠ .none → exec .writeZone s = .next (s.finish .machine q .writeZone .busy [])) ∧
        (s.mem.op = .none → ∃ pages : List (List Host.Cell),
          exec .writeZone s = .next
            ((s.modMem fun m => { m with op := .write pages, opTimer := 0 }).finish .machine q .writeZone .accepted []) ∧
          pages.flatten.map Prod.fst = (List.range data.length).map (fun i => zoneBase z + offset + i) ∧
          pages.flatten.map Prod.snd = data ∧ (∀ p ∈ pages, p ≠ [] ∧ ∀ c ∈ p, ∀ d ∈ p, c.1 / 16 = d.1 / 16) ∧
          ∀ i p r, pages[i]? = some p → pages[i + 1]? = some r → ∀ c ∈ p, ∀ d ∈ r, c.1 / 16 < d.1 / 16))) ∧
    ∀ (page : List Host.Cell) (rest : List (List Host.Cell)), s.mem.op = .write (page :: rest) → 5 ≤ s.mem.opTimer →
      s.memorySound → (page.map Prod.fst).Nodup →
      ∃ t, exec .pageWriteComplete s = .next t ∧ t.mem.zones = s.mem.zones ∧ t.mem.opTimer = 0 ∧
        (∀ c ∈ page, Memory.read t.mem.memory c.1 = c.2 ∧ Memory.read t.mem.image c.1 = c.2) ∧
        (∀ a, (∀ c ∈ page, c.1 ≠ a) → Memory.read t.mem.memory a = Memory.read s.mem.memory a ∧
          Memory.read t.mem.image a = Memory.read s.mem.image a) ∧
        (rest ≠ [] → t = { s with mem := t.mem } ∧ t.mem.op = .write rest ∧ t.mem.pendingSave = s.mem.pendingSave) ∧
        (rest = [] → t = { s with mem := t.mem, portMachine := t.portMachine } ∧
          t.portMachine = { s.portMachine with causes := { s.portMachine.causes with c6 := true } } ∧ t.mem.pendingSave = false ∧
          (s.mem.pendingSave = false → t.mem.op = .none) ∧ (s.mem.pendingSave = true → ∃ p, t.mem.op = .save p))

/-- LOAD_ZONE and its end. RANGE for a zone above 6, WRONG_STATE for zones 1 to 5 with a boom not IDLE, BUSY with an operation in
flight, CHECKSUM_BAD with one CONFIG_ZONE_BAD record for a bad image; otherwise the load begins. After its 2 ms the zone's values,
clamped, are live, its state is GOOD or CLAMPED, Q_avail follows, and CONFIG_DONE is raised: for zone 1 with the five thresholds, each
attribute evaluated on its own; for zone 4 with the limits of each channel, of which a disabled one stands INSIDE with an empty debounce
and an enabled one keeps both. The booms change in their wear tables alone for zone 1, in one Cr for zones 2 and 3, as a changed grant
moves them for zones 4 and 5, and not at all for zones 0 and 6 (with an arbiter that is current). Of the flags WEAR follows the attributes
that cross or recover by the load (before against after: the model's choice, log 38), INTERLOCK a changed set, FLOW a changed grant, and
no other moves. A waiting save begins. Values settled in their ranges, as the clamps leave them: in range, and as they were if they were. -/
def Obligations.ALoadMakesAZoneLive : Prop :=
  (∀ s : State,
    (∀ q, s.taken .machine .loadZone q →
      let z := operand q.operands 0
      let idle : Prop := ∀ b, (s.boom b).ctl.state = .idle
      let refused (r : ReplyCode) : Prop := exec .loadZone s = .next (s.finish .machine q .loadZone r [])
      (6 < z → refused .range) ∧
      (z ≤ 6 → (1 ≤ z ∧ z ≤ 5 ∧ ¬ idle → refused .wrongState) ∧
        ((z = 0 ∨ z = 6 ∨ idle) → (s.mem.op ≠ .none → refused .busy) ∧
          (s.mem.op = .none → zoneSumOk s.mem.image z = false →
            ∃ r, exec .loadZone s =
                .next ({ s with faultLog := s.faultLog.record r }.finish .machine q .loadZone .checksumBad []) ∧
              r.code = .configZoneBad ∧ r.source = .device ∧ r.detail = some z ∧ r.time = s.millis) ∧
          (s.mem.op = .none → zoneSumOk s.mem.image z = true →
            exec .loadZone s =
              .next ((s.modMem fun m => { m with op := .load z, opTimer := 0 }).finish .machine q .loadZone
                (if zoneNeedsClamp s.mem.image z then .acceptedClamped else .accepted) []))))) ∧
    ∀ z, s.mem.op = .load z → 2 ≤ s.mem.opTimer → z ≤ 6 → s.mem.zones.length = 7 →
      let turns (t : State) (b : Boom) : Prop :=
        let old := (s.boom b).wear
        let new := (t.boom b).wear
        new.bitWear.crossed ≠ old.bitWear.crossed ∨ new.feedZero.crossed ≠ old.feedZero.crossed ∨
          new.linkQuality.crossed ≠ old.linkQuality.crossed ∨ new.torqueSlip.crossed ≠ old.torqueSlip.crossed ∨
          new.mixShort.crossed ≠ old.mixShort.crossed
      let rest (t : State) (b : Boom) : BoomUnit :=
        { s.boom b with classifier := (t.boom b).classifier, wear := (t.boom b).wear }
      ∃ t, exec .loadComplete s = .next t ∧ t.mem.memory = s.mem.memory ∧ t.mem.image = s.mem.image ∧
        t.mem.zones = s.mem.zones.set z (if zoneNeedsClamp s.mem.image z then .clamped else .good) ∧
        t.portMachine.causes.c6 = true ∧ (s.mem.pendingSave = false → t.mem.op = .none) ∧
        t.arbiter.qAvail = availableFlow t.params.plan.qPump t.interlocks ∧
        (z = 0 → t.params = { s.params with machineNumber := field s.mem.image 0 0 2 }) ∧
        (z = 1 → t.params = { s.params with classifier := (Zone1.stored s.mem.image).settled.consts } ∧
          ∀ b,
            let old := (s.boom b).wear
            let new := (t.boom b).wear
            let stored (k : Nat) : Nat := min 252 (field s.mem.image 1 (8 + k) 1)
            let tuned (a : Attr) (k : Nat) : Attr :=
              { a with threshold := stored k, worst := min a.worst a.norm, crossed := decide (a.norm ≤ stored k) }
            let w := min 511 (256 + old.cmDrilled * (Zone1.stored s.mem.image).settled.consts.wearRate / 10000)
            let norm := 253 - (w - 256) * 252 / 255
            new = { old with
              w
              bitWear := { raw := w, norm, worst := min (min old.bitWear.worst old.bitWear.norm) norm, threshold := stored 0
                           crossed := decide (norm ≤ stored 0) }
              feedZero := tuned old.feedZero 1, linkQuality := tuned old.linkQuality 2, torqueSlip := tuned old.torqueSlip 3
              mixShort := tuned old.mixShort 4 }) ∧
        (z = 2 → t.params = { s.params with calibLeft := (Calib.stored s.mem.image 2).settled } ∧
          t.left.classifier = { s.left.classifier with cr := (Calib.stored s.mem.image 2).settled.kt * 899536 }) ∧
        (z = 3 → t.params = { s.params with calibRight := (Calib.stored s.mem.image 3).settled } ∧
          t.right.classifier = { s.right.classifier with cr := (Calib.stored s.mem.image 3).settled.kt * 899536 }) ∧
        (z = 4 → t.params = s.params ∧ t.monitor.refExp = (Zone4.stored s.mem.image).settled.refExp ∧
          t.monitor.refTol = (Zone4.stored s.mem.image).settled.refTol ∧ t.monitor.sleep = (Zone4.stored s.mem.image).settled.sleep ∧
          t.monitor.sleepLimit = s.monitor.sleepLimit ∧ t.monitor.channels.length = min s.monitor.channels.length 6 ∧
          ∀ (k : Nat) (c : Channel), k < 6 → s.monitor.channels[k]? = some c →
            let hi := max 1 (min 1023 (field s.mem.image 4 (1 + 5 * k) 2))
            let low := min 1023 (field s.mem.image 4 (3 + 5 * k) 2)
            let lo := if hi ≤ low then 0 else low
            let l : ChannelLimits :=
              { enabled := (Memory.read s.mem.image 0x40).getLsbD k, hi, lo
                hyst := min (min 255 (field s.mem.image 4 (5 + 5 * k) 1)) ((hi - lo) / 2) }
            t.monitor.channels[k]? = some
              { limits := l, last := c.last, breach := if l.enabled then c.breach else .inside
                debounce := if l.enabled then c.debounce else none }) ∧
        (z = 5 → t.params = { s.params with plan := (Zone5.stored s.mem.image).settled }) ∧ (z = 6 → t.params = s.params) ∧
        (z ≠ 4 → t.monitor = s.monitor) ∧
        t.backdrop = { s.backdrop with params := t.params, mem := t.mem } ∧ t.rowMap = s.rowMap ∧ s.logsKept t ∧
        (s.mem.pendingSave = true → t.mem.pendingSave = false ∧ ∃ p, t.mem.op = .save p) ∧
        (z ≠ 1 → ∀ b, (t.boom b).wear = (s.boom b).wear) ∧ (z ≠ 2 → t.left.classifier = s.left.classifier) ∧
        (z ≠ 3 → t.right.classifier = s.right.classifier) ∧
        (∀ b, (t.boom b).ungranted = (rest t b).ungranted) ∧
        (z ≠ 4 → z ≠ 5 → s.flowCurrent → t.arbiter = s.arbiter ∧ ∀ b, t.boom b = rest t b) ∧
        s.interlockFlags t ∧ s.flowFlags t ∧
        (∀ b, (t.port b.port).causes.c6 = true ↔ (s.port b.port).causes.c6 = true ∨ (s.enabled b = true ∧ turns t b)) ∧
        (t.portMachine.causes.c7 = true ↔ s.portMachine.causes.c7 = true ∨ ∃ b, turns t b) ∧
        (∀ b : Boom, (t.port b.port).causes =
          { (s.port b.port).causes with
            c1 := (t.port b.port).causes.c1, c4 := (t.port b.port).causes.c4, c6 := (t.port b.port).causes.c6 }) ∧
        t.portMachine.causes =
          { s.portMachine.causes with
            c1 := t.portMachine.causes.c1, c4 := t.portMachine.causes.c4, c6 := true, c7 := t.portMachine.causes.c7 }) ∧
  ((∀ z : Zone1, z.settled.inRange ∧ (z.inRange → z.settled = z)) ∧ (∀ c : Calib, c.settled.inRange ∧ (c.inRange → c.settled = c)) ∧
    (∀ z : Zone4, z.settled.inRange ∧ (z.inRange → z.settled = z)) ∧ (∀ z : Zone5, z.settled.inRange ∧ (z.inRange → z.settled = z)) ∧
    ∀ img : List Host.Cell,
      let plan := (rowPlanSettled img).1
      1 ≤ plan.length ∧ plan.length ≤ 8 ∧ (plan.map PlanSlot.position).Nodup ∧
        ∀ p ∈ plan, p.position ≤ 7 ∧ 900 ≤ p.depth ∧ p.depth ≤ 2500)

/-- SAVE_WEAR begins a save of zone 6 with the contents taken now, or waits behind the operation in flight; BIT_CHANGED, taken in IDLE
alone, starts a new bit with W 256, with WEAR on both ports where BIT_WEAR recovers, and asks for a save. A save that has run its 5 ms
leaves its bytes in the memory and the image, and the zone then sums to 0 and holds each boom's ground drilled; CONFIG_DONE is raised, and
a waiting save begins in the same act with the contents taken then. -/
def Obligations.AWearSaveWritesZoneSix : Prop :=
  ∀ s : State,
    let cm (b : Boom) : Nat := (s.boom b).wear.cmDrilled
    let contents (page : List Host.Cell) (l r : Nat) : Prop :=
      page.map Prod.fst = (List.range 7).map (fun i => 0xD0 + i) ∧ (page.map Prod.snd).take 6 = bytesLE 3 l ++ bytesLE 3 r ∧
        (page.foldl (fun n c => n + c.2.toNat) 0) % 256 = 0
    (∀ q, s.taken .machine .saveWear q →
      (s.mem.op = .none → ∃ page, exec .saveWear s =
          .next ((s.modMem fun m => { m with op := .save page, opTimer := 0, pendingSave := false }).finish .machine q .saveWear .accepted []) ∧
        contents page (cm .left) (cm .right)) ∧
      (s.mem.op ≠ .none → exec .saveWear s =
        .next ((s.modMem fun m => { m with pendingSave := true }).finish .machine q .saveWear .accepted []))) ∧
    (∀ b q, s.taken b.port .bitChanged q →
      ((s.boom b).ctl.state ≠ .idle → exec (.bitChanged b) s = .next (s.finish b.port q .bitChanged .wrongState [])) ∧
      ((s.boom b).ctl.state = .idle →
        let a := (s.boom b).wear.bitWear
        let f := s.finish b.port q .bitChanged .accepted []
        let flips : Bool := decide (253 ≤ a.threshold) != a.crossed
        let marked (c : Causes) : Causes := { c with c6 := c.c6 || flips }
        ∃ t, exec (.bitChanged b) s = .next t ∧
          t.boom b = { s.boom b with
            wear := { (s.boom b).wear with
              cmDrilled := 0, remainder := 0, w := 256
              bitWear := { a with raw := 256, norm := 253, worst := min a.worst 253, crossed := decide (253 ≤ a.threshold) } } } ∧
          t.boom (otherBoom b) = s.boom (otherBoom b) ∧
          t.port b.port = { f.port b.port with causes := marked (f.port b.port).causes } ∧
          t.port (otherBoom b).port = s.port (otherBoom b).port ∧
          t.portMachine =
            { s.portMachine with causes := { s.portMachine.causes with c7 := s.portMachine.causes.c7 || flips } } ∧
          (s.mem.op = .none → ∃ page, t.mem = { s.mem with op := .save page, opTimer := 0, pendingSave := false } ∧
            contents page (if b = .left then 0 else cm .left) (if b = .right then 0 else cm .right)) ∧
          (s.mem.op ≠ .none → t.mem = { s.mem with pendingSave := true }) ∧
          t = { s with
                left := t.left, right := t.right, portLeft := t.portLeft, portRight := t.portRight, portMachine := t.portMachine
                mem := t.mem })) ∧
    ∀ l r : Nat, s.mem.op = .save (savePage l r) → 5 ≤ s.mem.opTimer → l < 2 ^ 24 → r < 2 ^ 24 → s.memorySound →
      ∃ t, exec .saveComplete s = .next t ∧ zoneSumOk t.mem.memory 6 = true ∧ field t.mem.memory 6 0 3 = l ∧
        field t.mem.memory 6 3 3 = r ∧ zoneSumOk t.mem.image 6 = true ∧ field t.mem.image 6 0 3 = l ∧ field t.mem.image 6 3 3 = r ∧
        (∀ a, a < 0xD0 ∨ 0xD7 ≤ a → Memory.read t.mem.memory a = Memory.read s.mem.memory a ∧
          Memory.read t.mem.image a = Memory.read s.mem.image a) ∧
        t = { s with mem := t.mem, portMachine := t.portMachine } ∧
        t.portMachine = { s.portMachine with causes := { s.portMachine.causes with c6 := true } } ∧
        t.mem.zones = s.mem.zones ∧ t.mem.pendingSave = false ∧ t.mem.opTimer = 0 ∧
        (s.mem.pendingSave = false → t.mem.op = .none) ∧
        (s.mem.pendingSave = true → ∃ page, t.mem.op = .save page ∧ contents page (cm .left) (cm .right))

/-! ## The front-end check -/

/-- SELF_CHECK is WRONG_STATE with the check running, a boom not IDLE or a machine demand in the list; otherwise it starts with 15 steps
to go and stops the rounds. A step that has run its 2 ms passes or fails by the table of R191: steps 1 to 3 by the reference and the
code of step 1, then each channel low (20 or less) and high (960 or more). The last pass, or a failure, stops the check. -/
def Obligations.TheFrontEndCheckRunsFifteenSteps : Prop :=
  ∀ s : State,
    (∀ q, s.taken .machine .selfCheck q →
      let free : Prop := s.check.running = false ∧ (∀ b, (s.boom b).ctl.state = .idle) ∧ ∀ d ∈ s.arbiter.demands, d.owner ≠ .machine
      (¬ free → exec .selfCheck s = .next (s.finish .machine q .selfCheck .wrongState [])) ∧
      (free → exec .selfCheck s = .next (({ s with
          check := { s.check with running := true, remaining := 15, c1 := 0, stepTimer := 0 }
          monitor := { s.monitor with
            round := .stopped, roundTimer := 0, channels := s.monitor.channels.map fun c => { c with debounce := none }
            passRun := 0, failRun := 0 } } : State).finish .machine q .selfCheck .accepted []))) ∧
    ∀ code : Code, s.check.running = true → 2 ≤ s.check.stepTimer → 1 ≤ s.check.remaining → s.check.remaining ≤ 15 →
      let n := code.toNat
      let step := 16 - s.check.remaining
      let near (mid tol : Nat) : Prop := mid ≤ n + tol ∧ n ≤ mid + tol
      let passes : Prop :=
        (step = 1 ∧ near s.monitor.refExp s.monitor.refTol) ∨ (step = 2 ∧ near (s.check.c1 / 2) 4) ∨
          (step = 3 ∧ near (s.check.c1 / 4) 3) ∨ (4 ≤ step ∧ step % 2 = 0 ∧ n ≤ 20) ∨ (4 ≤ step ∧ step % 2 = 1 ∧ 960 ≤ n)
      let stops (result : Nat) (detail : Option Nat) : Prop := ∃ t k, exec (.checkStepEnd code) s = .next t ∧
        t.check.running = false ∧ t.check.last = some { result, detail } ∧ t.portMachine.causes.c5 = true ∧
        s.monitor.nextFrom 0 k ∧
        t.monitor = { s.monitor with round := .converting k, roundTimer := 0, warming := true, warmup := 0 } ∧
        s.holesStand t ∧ t.rowMap = s.rowMap ∧ t.mem = s.mem ∧
        (result = 0 → t.faultLog = s.faultLog) ∧
        (result ≠ 0 → ∃ r, t.faultLog = s.faultLog.record r ∧ r.code = .checkFail ∧ r.source = .machine ∧ r.detail = detail)
      (passes → 2 ≤ s.check.remaining → exec (.checkStepEnd code) s = .next { s with
        check := { s.check with
          remaining := s.check.remaining - 1, c1 := if step = 1 then n else s.check.c1, stepTimer := 0 } }) ∧
      (passes → s.check.remaining = 1 → stops 0 none) ∧
      (¬ passes → step ≤ 3 → stops 3 (some step)) ∧
      (¬ passes → 4 ≤ step → stops 4 (some ((step - 4) / 2)))

/-- A request that could put a boom or a machine demand on the pump, taken while the check runs, stops the check with result 1 and is
refused with INTERLOCK and an empty set; the warm-up begins again with a new round, and no CHECK_FAIL is written. A FLOW_RELEASE does
so whatever its operand (log 16). -/
def Obligations.APumpRequestAbortsARunningCheck : Prop :=
  ∀ (s : State) (p : Port) (c : RequestKind × Instr) (q : Request), s.check.running = true →
    ((∃ b, p = b.port ∧ c = (.beginHole, .beginHole b) ∧ (s.boom b).ctl.state = .idle) ∨
      (p = .machine ∧ c ∈ ([(.rowAdvance, .rowAdvance), (.flowTram, .flowTram), (.flowSupport, .flowSupport),
        (.flowRelease, .flowRelease)] : List (RequestKind × Instr)))) →
    s.taken p c.1 q →
    ∃ t k, exec c.2 s = .next t ∧ t.replied p .interlock [0, 0] ∧ t.check.running = false ∧
      t.check.last = some { result := 1, detail := none } ∧ t.portMachine.causes.c5 = true ∧ s.monitor.nextFrom 0 k ∧
      t.monitor = { s.monitor with round := .converting k, roundTimer := 0, warming := true, warmup := 0 } ∧
      s.holesStand t ∧ t.rowMap = s.rowMap ∧ t.mem = s.mem ∧ t.faultLog = s.faultLog ∧
      (s.flowCurrent → t.arbiter = s.arbiter ∧ ∀ b, t.boom b = s.boom b)

/-! ## Ground, plan and allocation -/

/-- R40 to R42 and R44 to R46 for every slice with samples: E_f and E_r from the sums; SE10 from the energies and the volume, 0 without
feed and rotation work; "SE_c = floor(SE10 × 256 / W)", at most SE10; "H = min(255, floor(SE_c × 255 / SE_full))", 255 from SE_full on and
127 at half of it; and the raw class by the three thresholds, kept in the last slice result whatever class is given. -/
def Obligations.TheHardnessAndRawClassOfAMeasuredSlice : Prop :=
  ∀ (k : ClassifierConsts) (cal : Calib) (w : Nat) (cl : Classifier) (c : ClosedSlice), c.n ≠ 0 → 256 ≤ w → 1 ≤ k.seFull →
    ∃ r m, (classify k cal w cl c).classifier.last = some r ∧ r.measure = some m ∧ m.w = w ∧
      m.ef = c.sf * cal.kf * (c.length / 800) / (100 * c.n) ∧ m.er = c.sr * cl.cr * c.nSpan / (c.n * 2 ^ 32) ∧
      m.se10 = min 65535 (10 * (m.ef + m.er) / (cal.aHole * (c.length / 800))) ∧ m.se10 ≤ 65535 ∧
      (c.sf = 0 → c.sr = 0 → m.se10 = 0) ∧
      m.sec = m.se10 * 256 / w ∧ m.sec ≤ m.se10 ∧ m.sec ≤ 65535 ∧ (w = 256 → m.sec = m.se10) ∧
      m.h = min 255 (m.sec * 255 / k.seFull) ∧ m.h ≤ 255 ∧ (k.seFull ≤ m.sec → m.h = 255) ∧ (m.sec * 2 = k.seFull → m.h = 127) ∧
      (m.h < k.tVoid → m.raw = .void) ∧ (k.tVoid ≤ m.h → m.h < k.tSoft → m.raw = .soft) ∧
      (k.tVoid ≤ m.h → k.tSoft ≤ m.h → m.h < k.tHard → m.raw = .firm) ∧
      (k.tVoid ≤ m.h → k.tSoft ≤ m.h → k.tHard ≤ m.h → m.raw = .hard)

/-- The class that a slice is given: UNMEASURED without samples; VOID below T_void whatever the open layer; its raw class with no open
layer or an UNMEASURED one; the open layer's class inside that class's range widened by h; its raw class otherwise. And its place: it
extends an open layer of its class; it absorbs an open layer of fewer than L_min slices between it and a layer of its class; it opens a
layer otherwise, and LAYER is raised for any but the first; in a list of 16 two layers are merged first, or, where none can be, it is
forced into the open layer with LAYER_OVERFLOW. That a merge shows as such whatever follows it is the model's choice (log 31). -/
def Obligations.TheClassASliceIsGivenFollowsTheOpenLayer : Prop :=
  ∀ (k : ClassifierConsts) (cal : Calib) (w : Nat) (cl : Classifier) (c : ClosedSlice),
    ∃ r, (classify k cal w cl c).classifier.last = some r ∧ (c.n = 0 → r.given = .unmeasured ∧ r.measure = none) ∧
      ∀ m, r.measure = some m →
        (m.h < k.tVoid → r.given = .void) ∧
        (k.tVoid ≤ m.h →
          (cl.layers = [] → r.given = m.raw) ∧
          ∀ o, cl.layers.getLast? = some o →
            let inside : Prop :=
              (o.ground = .void ∧ m.h < k.tVoid + k.hyst) ∨
              (o.ground = .soft ∧ (k.tVoid : Int) - k.hyst ≤ m.h ∧ m.h < k.tSoft + k.hyst) ∨
              (o.ground = .firm ∧ (k.tSoft : Int) - k.hyst ≤ m.h ∧ m.h < k.tHard + k.hyst) ∨
              (o.ground = .hard ∧ (k.tHard : Int) - k.hyst ≤ m.h)
            (inside → r.given = o.ground) ∧ (¬ inside → r.given = m.raw)) ∧
      (let out := classify k cal w cl c
        let sl : Layer :=
          { top := c.top, bottom := c.bottom, ground := r.given, slices := 1, measured := if c.n = 0 then 0 else 1
            sumH := (r.measure.map Measure.h).getD 0, isPartial := decide (c.n < c.nSpan), saturated := c.saturated }
        let absorbs (ls : List Layer) : Prop :=
          ∃ pre e o, ls = pre ++ [e, o] ∧ o.slices < k.lMin ∧ o.mayMerge ∧ sl.ground = e.ground
        let places (ls new : List Layer) (how : Placement) : Prop :=
          (ls = [] ∧ new = [sl] ∧ how = .opened) ∨
            (∃ pre o, ls = pre ++ [o] ∧ sl.ground = o.ground ∧ new = pre ++ [o.joined sl o.ground] ∧ how = .extended) ∨
            (∃ pre e o, ls = pre ++ [e, o] ∧ sl.ground ≠ o.ground ∧ o.slices < k.lMin ∧ o.mayMerge ∧ sl.ground = e.ground ∧
              new = pre ++ [(e.joined o e.ground).joined sl e.ground] ∧ how = .absorbed) ∨
            (∃ pre o, ls = pre ++ [o] ∧ sl.ground ≠ o.ground ∧ ¬ absorbs ls ∧ new = ls ++ [sl] ∧ how = .opened)
        (cl.layers.length < 16 ∨ absorbs cl.layers ∨ (∃ o, cl.layers.getLast? = some o ∧ sl.ground = o.ground) →
          places cl.layers out.classifier.layers r.placement ∧ out.overflow = false ∧
            (out.raiseLayer = true ↔ r.placement = .opened ∧ cl.layers ≠ [])) ∧
        (16 ≤ cl.layers.length → ¬ absorbs cl.layers → (∀ o, cl.layers.getLast? = some o → sl.ground ≠ o.ground) →
          ((∀ i j, ¬ mayPair cl.layers i j) → r.placement = .forced ∧ out.overflow = true ∧ out.raiseLayer = false ∧
            ∃ pre o, cl.layers = pre ++ [o] ∧ out.classifier.layers = pre ++ [o.joined sl o.ground]) ∧
          ∀ i j, mayPair cl.layers i j → r.placement = .merged ∧ out.overflow = false ∧ out.raiseLayer = true ∧
            ∃ mid how, mergedTo cl.layers mid ∧ places mid out.classifier.layers how)) ∧
      (classify k cal w cl c).classifier.cr = cl.cr

/-- "So the four lengths always add up to L_b exactly": for a list of layers that follow one another without a gap, in millimetres, each
length is the sum of the overlaps of its classes with the bond zone, ground that no layer covers counting as unmeasured, and the four
add up to the length of the bond zone. -/
def Obligations.TheFourLengthsAddUpToTheBondZone : Prop :=
  ∀ (z : Zone5) (kt maxDepth before : Nat) (reason : EndReason) (layers : List Layer),
    (∀ i a b, layers[i]? = some a → layers[i + 1]? = some b → a.bottom / 800 = b.top / 800) →
    (∀ l ∈ layers, l.top ≤ l.bottom) →
    let a := evaluate z kt layers maxDepth before reason
    let inZone (l : Layer) : Nat := min (l.bottom / 800) a.d - max (l.top / 800) a.bondTop
    let len (gs : List Ground) : Nat := ((layers.filter fun l => gs.contains l.ground).map inZone).sum
    a.competent = len [.firm, .hard] ∧ a.voidLen = len [.void] ∧ a.softLen = len [.soft] ∧
      a.unmeasuredLen = len [.unmeasured] + (a.lb - len [.firm, .hard, .void, .soft, .unmeasured]) ∧
      a.lb = min a.d z.bReq ∧ a.bondTop + a.lb = a.d ∧ a.competent + a.voidLen + a.softLen + a.unmeasuredLen = a.lb

/-- The verdict, the resin and the torque target of an evaluation: V_need; the least number of cartridges that holds it, kept within 1
and C_max, with RESIN_CAPPED and POOR above C_max; POOR for too little competent ground, EXTRA_RESIN for a void, GOOD otherwise; the
mix revolutions and target; and the least pressure that reaches T_target, kept within 25,000 kPa. -/
def Obligations.TheEvaluationGivesVerdictResinMixAndTorque : Prop :=
  ∀ (z : Zone5) (kt maxDepth before : Nat) (reason : EndReason) (layers : List Layer), 1 ≤ z.cMax → 1 ≤ z.vC → 1 ≤ kt →
    let a := evaluate z kt layers maxDepth before reason
    a.reason = reason ∧ a.d = maxDepth / 800 ∧ a.evaluations = min 255 (before + 1) ∧
      a.vNeed = z.aAnn * a.lb + a.voidLen * z.aVoid ∧
      (∀ n, a.unclamped ≤ n ↔ a.vNeed ≤ n * z.vC) ∧
      1 ≤ a.cartridges ∧ a.cartridges ≤ z.cMax ∧ (1 ≤ a.unclamped → a.unclamped ≤ z.cMax → a.cartridges = a.unclamped) ∧
      (a.resinCapped = true ↔ z.cMax < a.unclamped) ∧ (a.resinCapped = true → a.cartridges = z.cMax ∧ a.verdict = .poor) ∧
      (a.resinCapped = false →
        (a.competent * 100 < a.lb * z.pMin → a.verdict = .poor) ∧
        (a.lb * z.pMin ≤ a.competent * 100 → 0 < a.voidLen → a.verdict = .extraResin) ∧
        (a.lb * z.pMin ≤ a.competent * 100 → a.voidLen = 0 → a.verdict = .good)) ∧
      (a.lb = 0 → a.verdict = .good) ∧
      a.rMix + z.rStep = z.rBase + z.rStep * a.cartridges ∧ a.mixTarget = a.rMix * 30000 ∧
      a.pTq ≤ 25000 ∧ (a.pTq < 25000 → ∀ p, a.pTq ≤ p ↔ z.tTarget * 1000 ≤ p * kt) ∧
      (a.pTq = 25000 → 24999 * kt < z.tTarget * 1000)

/-- An allocation keeps the entries and their order and looks at no earlier grant. CRITICAL entries come first, oldest first, each
granted its demand if it fits what remains, else 0; then MACHINE entries, each its demand, else its floor, else 0; then NORMAL
entries, each at least its floor where its floor fits what remains, and 0 otherwise; none above its demand, an older one at its demand
before a younger one is above its floor, and nothing left over while an entry that holds its floor wants more. -/
def Obligations.TheAllocationFollowsClassAndAge : Prop :=
  ∀ (q : Nat) (ds : List Demand), (∀ d ∈ ds, 0 < d.floor ∧ d.floor ≤ d.demand) →
    let new := allocate q ds
    let held (c : DemandClass) (l : List Demand) : Nat := grantSum (l.filter fun d => d.kind.cls == c)
    let floors (l : List Demand) : Nat := ((l.filter fun d => d.kind.cls == .normal && d.grant != 0).map Demand.floor).sum
    new.map (fun d => { d with grant := 0 }) = ds.map (fun d => { d with grant := 0 }) ∧ grantSum new ≤ q ∧
      (∀ gs : Demand → Nat, allocate q (ds.map fun d => { d with grant := gs d }) = new) ∧
      (∀ (i : Nat) (d : Demand), new[i]? = some d →
        (d.kind.cls = .critical →
          d.grant = if d.demand + held .critical (new.take i) ≤ q then d.demand else 0) ∧
        (d.kind.cls = .machine →
          d.grant =
            if d.demand + held .critical new + held .machine (new.take i) ≤ q then d.demand
            else if d.floor + held .critical new + held .machine (new.take i) ≤ q then d.floor else 0) ∧
        (d.kind.cls = .normal →
          (d.grant = 0 ∨ (d.floor ≤ d.grant ∧ d.grant ≤ d.demand)) ∧
            (d.grant ≠ 0 ↔ d.floor + held .critical new + held .machine new + floors (new.take i) ≤ q))) ∧
      (∀ (i j : Nat) (d e : Demand), i < j → new[i]? = some d → new[j]? = some e → d.kind.cls = .normal → e.kind.cls = .normal →
        d.grant ≠ 0 → e.floor < e.grant → d.grant = d.demand) ∧
      (∀ d ∈ new, d.kind.cls = .normal → d.grant ≠ 0 → d.grant < d.demand → grantSum new = q)
end

