-- ==== Sys2Proof/Laws/State.lean ====
section
/-! SUPPORT. What each update of one block leaves alone, and what it makes of the block: one lemma a field an update. -/
namespace Sys2Proof.Machine

variable (s : State) (b : Boom) (p : Port)

/-! ## The boom that an update changes -/

@[simp] theorem boom_modBoom_same (f : BoomUnit → BoomUnit) : (s.modBoom b f).boom b = f (s.boom b) := by cases b <;> rfl

theorem boom_modBoom_other {b c : Boom} (h : c ≠ b) (f : BoomUnit → BoomUnit) : (s.modBoom b f).boom c = s.boom c := by
  cases b <;> cases c <;> first | rfl | exact absurd rfl h

@[simp] theorem boom_modLink_same (f : HeadLink → HeadLink) :
    (s.modLink b f).boom b = { s.boom b with link := f (s.boom b).link } := by cases b <;> rfl

@[simp] theorem boom_modTracker_same (f : DepthTracker → DepthTracker) :
    (s.modTracker b f).boom b = { s.boom b with tracker := f (s.boom b).tracker } := by cases b <;> rfl

@[simp] theorem boom_modCtl_same (f : Controller → Controller) :
    (s.modCtl b f).boom b = { s.boom b with ctl := f (s.boom b).ctl } := by cases b <;> rfl

@[simp] theorem boom_modHole_same (f : HoleRecord → HoleRecord) :
    (s.modHole b f).boom b = { s.boom b with ctl := { (s.boom b).ctl with hole := (s.boom b).ctl.hole.map f } } := by
  cases b <;> rfl

theorem boom_modLink_other {b c : Boom} (h : c ≠ b) (f : HeadLink → HeadLink) : (s.modLink b f).boom c = s.boom c :=
  boom_modBoom_other s h _

theorem boom_modTracker_other {b c : Boom} (h : c ≠ b) (f : DepthTracker → DepthTracker) :
    (s.modTracker b f).boom c = s.boom c := boom_modBoom_other s h _

theorem boom_modCtl_other {b c : Boom} (h : c ≠ b) (f : Controller → Controller) : (s.modCtl b f).boom c = s.boom c :=
  boom_modBoom_other s h _

theorem boom_modHole_other {b c : Boom} (h : c ≠ b) (f : HoleRecord → HoleRecord) : (s.modHole b f).boom c = s.boom c :=
  boom_modBoom_other s h _

/-! ## The port that an update changes -/

@[simp] theorem port_modPort_same (f : MasterPort → MasterPort) : (s.modPort p f).port p = f (s.port p) := by
  cases p <;> rfl

theorem port_modPort_other {p q : Port} (h : q ≠ p) (f : MasterPort → MasterPort) : (s.modPort p f).port q = s.port q := by
  cases p <;> cases q <;> first | rfl | exact absurd rfl h

/-! ## What updates of other blocks leave alone -/

@[simp] theorem boom_modPort (f : MasterPort → MasterPort) : (s.modPort p f).boom b = s.boom b := by
  cases p <;> cases b <;> rfl

@[simp] theorem port_modBoom (f : BoomUnit → BoomUnit) : (s.modBoom b f).port p = s.port p := by cases p <;> cases b <;> rfl

@[simp] theorem port_modLink (f : HeadLink → HeadLink) : (s.modLink b f).port p = s.port p := port_modBoom s b p _

@[simp] theorem port_modTracker (f : DepthTracker → DepthTracker) : (s.modTracker b f).port p = s.port p :=
  port_modBoom s b p _

@[simp] theorem port_modCtl (f : Controller → Controller) : (s.modCtl b f).port p = s.port p := port_modBoom s b p _

@[simp] theorem port_modHole (f : HoleRecord → HoleRecord) : (s.modHole b f).port p = s.port p := port_modBoom s b p _

@[simp] theorem boom_modMonitor (f : Monitor → Monitor) : (s.modMonitor f).boom b = s.boom b := by cases b <;> rfl

@[simp] theorem port_modMonitor (f : Monitor → Monitor) : (s.modMonitor f).port p = s.port p := by cases p <;> rfl

@[simp] theorem boom_modMem (f : MemoryController → MemoryController) : (s.modMem f).boom b = s.boom b := by cases b <;> rfl

@[simp] theorem port_modMem (f : MemoryController → MemoryController) : (s.modMem f).port p = s.port p := by cases p <;> rfl

/-! ### State.modBoom -/

@[simp] theorem phase_modBoom (f : BoomUnit → BoomUnit) : (s.modBoom b f).phase = s.phase := by cases b <;> rfl
@[simp] theorem resetNLow_modBoom (f : BoomUnit → BoomUnit) : (s.modBoom b f).resetNLow = s.resetNLow := by cases b <;> rfl
@[simp] theorem straps_modBoom (f : BoomUnit → BoomUnit) : (s.modBoom b f).straps = s.straps := by cases b <;> rfl
@[simp] theorem postFail_modBoom (f : BoomUnit → BoomUnit) : (s.modBoom b f).postFail = s.postFail := by cases b <;> rfl
@[simp] theorem millis_modBoom (f : BoomUnit → BoomUnit) : (s.modBoom b f).millis = s.millis := by cases b <;> rfl
@[simp] theorem params_modBoom (f : BoomUnit → BoomUnit) : (s.modBoom b f).params = s.params := by cases b <;> rfl
@[simp] theorem arbiter_modBoom (f : BoomUnit → BoomUnit) : (s.modBoom b f).arbiter = s.arbiter := by cases b <;> rfl
@[simp] theorem rowMap_modBoom (f : BoomUnit → BoomUnit) : (s.modBoom b f).rowMap = s.rowMap := by cases b <;> rfl
@[simp] theorem holeLog_modBoom (f : BoomUnit → BoomUnit) : (s.modBoom b f).holeLog = s.holeLog := by cases b <;> rfl
@[simp] theorem faultLog_modBoom (f : BoomUnit → BoomUnit) : (s.modBoom b f).faultLog = s.faultLog := by cases b <;> rfl
@[simp] theorem monitor_modBoom (f : BoomUnit → BoomUnit) : (s.modBoom b f).monitor = s.monitor := by cases b <;> rfl
@[simp] theorem mem_modBoom (f : BoomUnit → BoomUnit) : (s.modBoom b f).mem = s.mem := by cases b <;> rfl
@[simp] theorem check_modBoom (f : BoomUnit → BoomUnit) : (s.modBoom b f).check = s.check := by cases b <;> rfl
@[simp] theorem portLeft_modBoom (f : BoomUnit → BoomUnit) : (s.modBoom b f).portLeft = s.portLeft := by cases b <;> rfl
@[simp] theorem portRight_modBoom (f : BoomUnit → BoomUnit) : (s.modBoom b f).portRight = s.portRight := by cases b <;> rfl
@[simp] theorem portMachine_modBoom (f : BoomUnit → BoomUnit) : (s.modBoom b f).portMachine = s.portMachine := by cases b <;> rfl
@[simp] theorem free_modBoom (f : BoomUnit → BoomUnit) : (s.modBoom b f).free = s.free := by cases b <;> rfl
@[simp] theorem pending_modBoom (f : BoomUnit → BoomUnit) : (s.modBoom b f).pending = s.pending := by cases b <;> rfl

/-! ### State.modLink -/

@[simp] theorem phase_modLink (f : HeadLink → HeadLink) : (s.modLink b f).phase = s.phase := phase_modBoom s b _
@[simp] theorem resetNLow_modLink (f : HeadLink → HeadLink) : (s.modLink b f).resetNLow = s.resetNLow := resetNLow_modBoom s b _
@[simp] theorem straps_modLink (f : HeadLink → HeadLink) : (s.modLink b f).straps = s.straps := straps_modBoom s b _
@[simp] theorem postFail_modLink (f : HeadLink → HeadLink) : (s.modLink b f).postFail = s.postFail := postFail_modBoom s b _
@[simp] theorem millis_modLink (f : HeadLink → HeadLink) : (s.modLink b f).millis = s.millis := millis_modBoom s b _
@[simp] theorem params_modLink (f : HeadLink → HeadLink) : (s.modLink b f).params = s.params := params_modBoom s b _
@[simp] theorem arbiter_modLink (f : HeadLink → HeadLink) : (s.modLink b f).arbiter = s.arbiter := arbiter_modBoom s b _
@[simp] theorem rowMap_modLink (f : HeadLink → HeadLink) : (s.modLink b f).rowMap = s.rowMap := rowMap_modBoom s b _
@[simp] theorem holeLog_modLink (f : HeadLink → HeadLink) : (s.modLink b f).holeLog = s.holeLog := holeLog_modBoom s b _
@[simp] theorem faultLog_modLink (f : HeadLink → HeadLink) : (s.modLink b f).faultLog = s.faultLog := faultLog_modBoom s b _
@[simp] theorem monitor_modLink (f : HeadLink → HeadLink) : (s.modLink b f).monitor = s.monitor := monitor_modBoom s b _
@[simp] theorem mem_modLink (f : HeadLink → HeadLink) : (s.modLink b f).mem = s.mem := mem_modBoom s b _
@[simp] theorem check_modLink (f : HeadLink → HeadLink) : (s.modLink b f).check = s.check := check_modBoom s b _
@[simp] theorem portLeft_modLink (f : HeadLink → HeadLink) : (s.modLink b f).portLeft = s.portLeft := portLeft_modBoom s b _
@[simp] theorem portRight_modLink (f : HeadLink → HeadLink) : (s.modLink b f).portRight = s.portRight := portRight_modBoom s b _
@[simp] theorem portMachine_modLink (f : HeadLink → HeadLink) : (s.modLink b f).portMachine = s.portMachine := portMachine_modBoom s b _
@[simp] theorem free_modLink (f : HeadLink → HeadLink) : (s.modLink b f).free = s.free := free_modBoom s b _
@[simp] theorem pending_modLink (f : HeadLink → HeadLink) : (s.modLink b f).pending = s.pending := pending_modBoom s b _

/-! ### State.modTracker -/

@[simp] theorem phase_modTracker (f : DepthTracker → DepthTracker) : (s.modTracker b f).phase = s.phase := phase_modBoom s b _
@[simp] theorem resetNLow_modTracker (f : DepthTracker → DepthTracker) : (s.modTracker b f).resetNLow = s.resetNLow := resetNLow_modBoom s b _
@[simp] theorem straps_modTracker (f : DepthTracker → DepthTracker) : (s.modTracker b f).straps = s.straps := straps_modBoom s b _
@[simp] theorem postFail_modTracker (f : DepthTracker → DepthTracker) : (s.modTracker b f).postFail = s.postFail := postFail_modBoom s b _
@[simp] theorem millis_modTracker (f : DepthTracker → DepthTracker) : (s.modTracker b f).millis = s.millis := millis_modBoom s b _
@[simp] theorem params_modTracker (f : DepthTracker → DepthTracker) : (s.modTracker b f).params = s.params := params_modBoom s b _
@[simp] theorem arbiter_modTracker (f : DepthTracker → DepthTracker) : (s.modTracker b f).arbiter = s.arbiter := arbiter_modBoom s b _
@[simp] theorem rowMap_modTracker (f : DepthTracker → DepthTracker) : (s.modTracker b f).rowMap = s.rowMap := rowMap_modBoom s b _
@[simp] theorem holeLog_modTracker (f : DepthTracker → DepthTracker) : (s.modTracker b f).holeLog = s.holeLog := holeLog_modBoom s b _
@[simp] theorem faultLog_modTracker (f : DepthTracker → DepthTracker) : (s.modTracker b f).faultLog = s.faultLog := faultLog_modBoom s b _
@[simp] theorem monitor_modTracker (f : DepthTracker → DepthTracker) : (s.modTracker b f).monitor = s.monitor := monitor_modBoom s b _
@[simp] theorem mem_modTracker (f : DepthTracker → DepthTracker) : (s.modTracker b f).mem = s.mem := mem_modBoom s b _
@[simp] theorem check_modTracker (f : DepthTracker → DepthTracker) : (s.modTracker b f).check = s.check := check_modBoom s b _
@[simp] theorem portLeft_modTracker (f : DepthTracker → DepthTracker) : (s.modTracker b f).portLeft = s.portLeft := portLeft_modBoom s b _
@[simp] theorem portRight_modTracker (f : DepthTracker → DepthTracker) : (s.modTracker b f).portRight = s.portRight := portRight_modBoom s b _
@[simp] theorem portMachine_modTracker (f : DepthTracker → DepthTracker) : (s.modTracker b f).portMachine = s.portMachine := portMachine_modBoom s b _
@[simp] theorem free_modTracker (f : DepthTracker → DepthTracker) : (s.modTracker b f).free = s.free := free_modBoom s b _
@[simp] theorem pending_modTracker (f : DepthTracker → DepthTracker) : (s.modTracker b f).pending = s.pending := pending_modBoom s b _

/-! ### State.modCtl -/

@[simp] theorem phase_modCtl (f : Controller → Controller) : (s.modCtl b f).phase = s.phase := phase_modBoom s b _
@[simp] theorem resetNLow_modCtl (f : Controller → Controller) : (s.modCtl b f).resetNLow = s.resetNLow := resetNLow_modBoom s b _
@[simp] theorem straps_modCtl (f : Controller → Controller) : (s.modCtl b f).straps = s.straps := straps_modBoom s b _
@[simp] theorem postFail_modCtl (f : Controller → Controller) : (s.modCtl b f).postFail = s.postFail := postFail_modBoom s b _
@[simp] theorem millis_modCtl (f : Controller → Controller) : (s.modCtl b f).millis = s.millis := millis_modBoom s b _
@[simp] theorem params_modCtl (f : Controller → Controller) : (s.modCtl b f).params = s.params := params_modBoom s b _
@[simp] theorem arbiter_modCtl (f : Controller → Controller) : (s.modCtl b f).arbiter = s.arbiter := arbiter_modBoom s b _
@[simp] theorem rowMap_modCtl (f : Controller → Controller) : (s.modCtl b f).rowMap = s.rowMap := rowMap_modBoom s b _
@[simp] theorem holeLog_modCtl (f : Controller → Controller) : (s.modCtl b f).holeLog = s.holeLog := holeLog_modBoom s b _
@[simp] theorem faultLog_modCtl (f : Controller → Controller) : (s.modCtl b f).faultLog = s.faultLog := faultLog_modBoom s b _
@[simp] theorem monitor_modCtl (f : Controller → Controller) : (s.modCtl b f).monitor = s.monitor := monitor_modBoom s b _
@[simp] theorem mem_modCtl (f : Controller → Controller) : (s.modCtl b f).mem = s.mem := mem_modBoom s b _
@[simp] theorem check_modCtl (f : Controller → Controller) : (s.modCtl b f).check = s.check := check_modBoom s b _
@[simp] theorem portLeft_modCtl (f : Controller → Controller) : (s.modCtl b f).portLeft = s.portLeft := portLeft_modBoom s b _
@[simp] theorem portRight_modCtl (f : Controller → Controller) : (s.modCtl b f).portRight = s.portRight := portRight_modBoom s b _
@[simp] theorem portMachine_modCtl (f : Controller → Controller) : (s.modCtl b f).portMachine = s.portMachine := portMachine_modBoom s b _
@[simp] theorem free_modCtl (f : Controller → Controller) : (s.modCtl b f).free = s.free := free_modBoom s b _
@[simp] theorem pending_modCtl (f : Controller → Controller) : (s.modCtl b f).pending = s.pending := pending_modBoom s b _

/-! ### State.modHole -/

@[simp] theorem phase_modHole (f : HoleRecord → HoleRecord) : (s.modHole b f).phase = s.phase := phase_modBoom s b _
@[simp] theorem resetNLow_modHole (f : HoleRecord → HoleRecord) : (s.modHole b f).resetNLow = s.resetNLow := resetNLow_modBoom s b _
@[simp] theorem straps_modHole (f : HoleRecord → HoleRecord) : (s.modHole b f).straps = s.straps := straps_modBoom s b _
@[simp] theorem postFail_modHole (f : HoleRecord → HoleRecord) : (s.modHole b f).postFail = s.postFail := postFail_modBoom s b _
@[simp] theorem millis_modHole (f : HoleRecord → HoleRecord) : (s.modHole b f).millis = s.millis := millis_modBoom s b _
@[simp] theorem params_modHole (f : HoleRecord → HoleRecord) : (s.modHole b f).params = s.params := params_modBoom s b _
@[simp] theorem arbiter_modHole (f : HoleRecord → HoleRecord) : (s.modHole b f).arbiter = s.arbiter := arbiter_modBoom s b _
@[simp] theorem rowMap_modHole (f : HoleRecord → HoleRecord) : (s.modHole b f).rowMap = s.rowMap := rowMap_modBoom s b _
@[simp] theorem holeLog_modHole (f : HoleRecord → HoleRecord) : (s.modHole b f).holeLog = s.holeLog := holeLog_modBoom s b _
@[simp] theorem faultLog_modHole (f : HoleRecord → HoleRecord) : (s.modHole b f).faultLog = s.faultLog := faultLog_modBoom s b _
@[simp] theorem monitor_modHole (f : HoleRecord → HoleRecord) : (s.modHole b f).monitor = s.monitor := monitor_modBoom s b _
@[simp] theorem mem_modHole (f : HoleRecord → HoleRecord) : (s.modHole b f).mem = s.mem := mem_modBoom s b _
@[simp] theorem check_modHole (f : HoleRecord → HoleRecord) : (s.modHole b f).check = s.check := check_modBoom s b _
@[simp] theorem portLeft_modHole (f : HoleRecord → HoleRecord) : (s.modHole b f).portLeft = s.portLeft := portLeft_modBoom s b _
@[simp] theorem portRight_modHole (f : HoleRecord → HoleRecord) : (s.modHole b f).portRight = s.portRight := portRight_modBoom s b _
@[simp] theorem portMachine_modHole (f : HoleRecord → HoleRecord) : (s.modHole b f).portMachine = s.portMachine := portMachine_modBoom s b _
@[simp] theorem free_modHole (f : HoleRecord → HoleRecord) : (s.modHole b f).free = s.free := free_modBoom s b _
@[simp] theorem pending_modHole (f : HoleRecord → HoleRecord) : (s.modHole b f).pending = s.pending := pending_modBoom s b _

/-! ### State.modPort -/

@[simp] theorem phase_modPort (f : MasterPort → MasterPort) : (s.modPort p f).phase = s.phase := by cases p <;> rfl
@[simp] theorem resetNLow_modPort (f : MasterPort → MasterPort) : (s.modPort p f).resetNLow = s.resetNLow := by cases p <;> rfl
@[simp] theorem straps_modPort (f : MasterPort → MasterPort) : (s.modPort p f).straps = s.straps := by cases p <;> rfl
@[simp] theorem postFail_modPort (f : MasterPort → MasterPort) : (s.modPort p f).postFail = s.postFail := by cases p <;> rfl
@[simp] theorem millis_modPort (f : MasterPort → MasterPort) : (s.modPort p f).millis = s.millis := by cases p <;> rfl
@[simp] theorem params_modPort (f : MasterPort → MasterPort) : (s.modPort p f).params = s.params := by cases p <;> rfl
@[simp] theorem left_modPort (f : MasterPort → MasterPort) : (s.modPort p f).left = s.left := by cases p <;> rfl
@[simp] theorem right_modPort (f : MasterPort → MasterPort) : (s.modPort p f).right = s.right := by cases p <;> rfl
@[simp] theorem arbiter_modPort (f : MasterPort → MasterPort) : (s.modPort p f).arbiter = s.arbiter := by cases p <;> rfl
@[simp] theorem rowMap_modPort (f : MasterPort → MasterPort) : (s.modPort p f).rowMap = s.rowMap := by cases p <;> rfl
@[simp] theorem holeLog_modPort (f : MasterPort → MasterPort) : (s.modPort p f).holeLog = s.holeLog := by cases p <;> rfl
@[simp] theorem faultLog_modPort (f : MasterPort → MasterPort) : (s.modPort p f).faultLog = s.faultLog := by cases p <;> rfl
@[simp] theorem monitor_modPort (f : MasterPort → MasterPort) : (s.modPort p f).monitor = s.monitor := by cases p <;> rfl
@[simp] theorem mem_modPort (f : MasterPort → MasterPort) : (s.modPort p f).mem = s.mem := by cases p <;> rfl
@[simp] theorem check_modPort (f : MasterPort → MasterPort) : (s.modPort p f).check = s.check := by cases p <;> rfl
@[simp] theorem free_modPort (f : MasterPort → MasterPort) : (s.modPort p f).free = s.free := by cases p <;> rfl
@[simp] theorem pending_modPort (f : MasterPort → MasterPort) : (s.modPort p f).pending = s.pending := by cases p <;> rfl

/-! ### State.modMonitor -/

@[simp] theorem phase_modMonitor (f : Monitor → Monitor) : (s.modMonitor f).phase = s.phase := rfl
@[simp] theorem resetNLow_modMonitor (f : Monitor → Monitor) : (s.modMonitor f).resetNLow = s.resetNLow := rfl
@[simp] theorem straps_modMonitor (f : Monitor → Monitor) : (s.modMonitor f).straps = s.straps := rfl
@[simp] theorem postFail_modMonitor (f : Monitor → Monitor) : (s.modMonitor f).postFail = s.postFail := rfl
@[simp] theorem millis_modMonitor (f : Monitor → Monitor) : (s.modMonitor f).millis = s.millis := rfl
@[simp] theorem params_modMonitor (f : Monitor → Monitor) : (s.modMonitor f).params = s.params := rfl
@[simp] theorem left_modMonitor (f : Monitor → Monitor) : (s.modMonitor f).left = s.left := rfl
@[simp] theorem right_modMonitor (f : Monitor → Monitor) : (s.modMonitor f).right = s.right := rfl
@[simp] theorem arbiter_modMonitor (f : Monitor → Monitor) : (s.modMonitor f).arbiter = s.arbiter := rfl
@[simp] theorem rowMap_modMonitor (f : Monitor → Monitor) : (s.modMonitor f).rowMap = s.rowMap := rfl
@[simp] theorem holeLog_modMonitor (f : Monitor → Monitor) : (s.modMonitor f).holeLog = s.holeLog := rfl
@[simp] theorem faultLog_modMonitor (f : Monitor → Monitor) : (s.modMonitor f).faultLog = s.faultLog := rfl
@[simp] theorem monitor_modMonitor (f : Monitor → Monitor) : (s.modMonitor f).monitor = f s.monitor := rfl
@[simp] theorem mem_modMonitor (f : Monitor → Monitor) : (s.modMonitor f).mem = s.mem := rfl
@[simp] theorem check_modMonitor (f : Monitor → Monitor) : (s.modMonitor f).check = s.check := rfl
@[simp] theorem portLeft_modMonitor (f : Monitor → Monitor) : (s.modMonitor f).portLeft = s.portLeft := rfl
@[simp] theorem portRight_modMonitor (f : Monitor → Monitor) : (s.modMonitor f).portRight = s.portRight := rfl
@[simp] theorem portMachine_modMonitor (f : Monitor → Monitor) : (s.modMonitor f).portMachine = s.portMachine := rfl
@[simp] theorem free_modMonitor (f : Monitor → Monitor) : (s.modMonitor f).free = s.free := rfl
@[simp] theorem pending_modMonitor (f : Monitor → Monitor) : (s.modMonitor f).pending = s.pending := rfl

/-! ### State.modMem -/

@[simp] theorem phase_modMem (f : MemoryController → MemoryController) : (s.modMem f).phase = s.phase := rfl
@[simp] theorem resetNLow_modMem (f : MemoryController → MemoryController) : (s.modMem f).resetNLow = s.resetNLow := rfl
@[simp] theorem straps_modMem (f : MemoryController → MemoryController) : (s.modMem f).straps = s.straps := rfl
@[simp] theorem postFail_modMem (f : MemoryController → MemoryController) : (s.modMem f).postFail = s.postFail := rfl
@[simp] theorem millis_modMem (f : MemoryController → MemoryController) : (s.modMem f).millis = s.millis := rfl
@[simp] theorem params_modMem (f : MemoryController → MemoryController) : (s.modMem f).params = s.params := rfl
@[simp] theorem left_modMem (f : MemoryController → MemoryController) : (s.modMem f).left = s.left := rfl
@[simp] theorem right_modMem (f : MemoryController → MemoryController) : (s.modMem f).right = s.right := rfl
@[simp] theorem arbiter_modMem (f : MemoryController → MemoryController) : (s.modMem f).arbiter = s.arbiter := rfl
@[simp] theorem rowMap_modMem (f : MemoryController → MemoryController) : (s.modMem f).rowMap = s.rowMap := rfl
@[simp] theorem holeLog_modMem (f : MemoryController → MemoryController) : (s.modMem f).holeLog = s.holeLog := rfl
@[simp] theorem faultLog_modMem (f : MemoryController → MemoryController) : (s.modMem f).faultLog = s.faultLog := rfl
@[simp] theorem monitor_modMem (f : MemoryController → MemoryController) : (s.modMem f).monitor = s.monitor := rfl
@[simp] theorem mem_modMem (f : MemoryController → MemoryController) : (s.modMem f).mem = f s.mem := rfl
@[simp] theorem check_modMem (f : MemoryController → MemoryController) : (s.modMem f).check = s.check := rfl
@[simp] theorem portLeft_modMem (f : MemoryController → MemoryController) : (s.modMem f).portLeft = s.portLeft := rfl
@[simp] theorem portRight_modMem (f : MemoryController → MemoryController) : (s.modMem f).portRight = s.portRight := rfl
@[simp] theorem portMachine_modMem (f : MemoryController → MemoryController) : (s.modMem f).portMachine = s.portMachine := rfl
@[simp] theorem free_modMem (f : MemoryController → MemoryController) : (s.modMem f).free = s.free := rfl
@[simp] theorem pending_modMem (f : MemoryController → MemoryController) : (s.modMem f).pending = s.pending := rfl

end Sys2Proof.Machine
end

