-- ==== Sys2Proof/Laws/Frames.lean ====
section
/-! SUPPORT. What each shared operation leaves alone, said once an operation. -/
namespace Sys2Proof.Machine

variable (s : State) (b : Boom)

/-! ## Updates of one block -/

@[simp] theorem backdrop_modBoom (f : BoomUnit → BoomUnit) : (s.modBoom b f).backdrop = s.backdrop := by cases b <;> rfl

@[simp] theorem backdrop_modLink (f : HeadLink → HeadLink) : (s.modLink b f).backdrop = s.backdrop := backdrop_modBoom s b _

@[simp] theorem backdrop_modTracker (f : DepthTracker → DepthTracker) : (s.modTracker b f).backdrop = s.backdrop :=
  backdrop_modBoom s b _

@[simp] theorem backdrop_modCtl (f : Controller → Controller) : (s.modCtl b f).backdrop = s.backdrop := backdrop_modBoom s b _

@[simp] theorem backdrop_modHole (f : HoleRecord → HoleRecord) : (s.modHole b f).backdrop = s.backdrop :=
  backdrop_modBoom s b _

@[simp] theorem backdrop_modMonitor (f : Monitor → Monitor) : (s.modMonitor f).backdrop = s.backdrop := rfl

@[simp] theorem boom_arbiter (a : Arbiter) : ({ s with arbiter := a } : State).boom b = s.boom b := by cases b <;> rfl

@[simp] theorem boom_rowMap (m : RowMap) : ({ s with rowMap := m } : State).boom b = s.boom b := by cases b <;> rfl

@[simp] theorem boom_holeLog (l : HoleLog) : ({ s with holeLog := l } : State).boom b = s.boom b := by cases b <;> rfl

@[simp] theorem boom_faultLog (l : FaultLog) : ({ s with faultLog := l } : State).boom b = s.boom b := by cases b <;> rfl

@[simp] theorem boom_check (c : SelfCheck) : ({ s with check := c } : State).boom b = s.boom b := by cases b <;> rfl

/-! ## Causes -/

/-! ### State.raise -/

@[simp] theorem phase_raise (c : BoomCause) : (s.raise b c).phase = s.phase := by unfold State.raise; split <;> (first | rfl | (cases b <;> rfl))
@[simp] theorem resetNLow_raise (c : BoomCause) : (s.raise b c).resetNLow = s.resetNLow := by unfold State.raise; split <;> (first | rfl | (cases b <;> rfl))
@[simp] theorem straps_raise (c : BoomCause) : (s.raise b c).straps = s.straps := by unfold State.raise; split <;> (first | rfl | (cases b <;> rfl))
@[simp] theorem postFail_raise (c : BoomCause) : (s.raise b c).postFail = s.postFail := by unfold State.raise; split <;> (first | rfl | (cases b <;> rfl))
@[simp] theorem millis_raise (c : BoomCause) : (s.raise b c).millis = s.millis := by unfold State.raise; split <;> (first | rfl | (cases b <;> rfl))
@[simp] theorem params_raise (c : BoomCause) : (s.raise b c).params = s.params := by unfold State.raise; split <;> (first | rfl | (cases b <;> rfl))
@[simp] theorem left_raise (c : BoomCause) : (s.raise b c).left = s.left := by unfold State.raise; split <;> (first | rfl | (cases b <;> rfl))
@[simp] theorem right_raise (c : BoomCause) : (s.raise b c).right = s.right := by unfold State.raise; split <;> (first | rfl | (cases b <;> rfl))
@[simp] theorem arbiter_raise (c : BoomCause) : (s.raise b c).arbiter = s.arbiter := by unfold State.raise; split <;> (first | rfl | (cases b <;> rfl))
@[simp] theorem rowMap_raise (c : BoomCause) : (s.raise b c).rowMap = s.rowMap := by unfold State.raise; split <;> (first | rfl | (cases b <;> rfl))
@[simp] theorem holeLog_raise (c : BoomCause) : (s.raise b c).holeLog = s.holeLog := by unfold State.raise; split <;> (first | rfl | (cases b <;> rfl))
@[simp] theorem faultLog_raise (c : BoomCause) : (s.raise b c).faultLog = s.faultLog := by unfold State.raise; split <;> (first | rfl | (cases b <;> rfl))
@[simp] theorem monitor_raise (c : BoomCause) : (s.raise b c).monitor = s.monitor := by unfold State.raise; split <;> (first | rfl | (cases b <;> rfl))
@[simp] theorem mem_raise (c : BoomCause) : (s.raise b c).mem = s.mem := by unfold State.raise; split <;> (first | rfl | (cases b <;> rfl))
@[simp] theorem check_raise (c : BoomCause) : (s.raise b c).check = s.check := by unfold State.raise; split <;> (first | rfl | (cases b <;> rfl))
@[simp] theorem free_raise (c : BoomCause) : (s.raise b c).free = s.free := by unfold State.raise; split <;> (first | rfl | (cases b <;> rfl))
@[simp] theorem pending_raise (c : BoomCause) : (s.raise b c).pending = s.pending := by unfold State.raise; split <;> (first | rfl | (cases b <;> rfl))
@[simp] theorem backdrop_raise (c : BoomCause) : (s.raise b c).backdrop = s.backdrop := by unfold State.raise; split <;> (first | rfl | (cases b <;> rfl))

/-! ### State.raiseMachine -/

@[simp] theorem phase_raiseMachine (c : MachineCause) : (s.raiseMachine c).phase = s.phase := rfl
@[simp] theorem resetNLow_raiseMachine (c : MachineCause) : (s.raiseMachine c).resetNLow = s.resetNLow := rfl
@[simp] theorem straps_raiseMachine (c : MachineCause) : (s.raiseMachine c).straps = s.straps := rfl
@[simp] theorem postFail_raiseMachine (c : MachineCause) : (s.raiseMachine c).postFail = s.postFail := rfl
@[simp] theorem millis_raiseMachine (c : MachineCause) : (s.raiseMachine c).millis = s.millis := rfl
@[simp] theorem params_raiseMachine (c : MachineCause) : (s.raiseMachine c).params = s.params := rfl
@[simp] theorem left_raiseMachine (c : MachineCause) : (s.raiseMachine c).left = s.left := rfl
@[simp] theorem right_raiseMachine (c : MachineCause) : (s.raiseMachine c).right = s.right := rfl
@[simp] theorem arbiter_raiseMachine (c : MachineCause) : (s.raiseMachine c).arbiter = s.arbiter := rfl
@[simp] theorem rowMap_raiseMachine (c : MachineCause) : (s.raiseMachine c).rowMap = s.rowMap := rfl
@[simp] theorem holeLog_raiseMachine (c : MachineCause) : (s.raiseMachine c).holeLog = s.holeLog := rfl
@[simp] theorem faultLog_raiseMachine (c : MachineCause) : (s.raiseMachine c).faultLog = s.faultLog := rfl
@[simp] theorem monitor_raiseMachine (c : MachineCause) : (s.raiseMachine c).monitor = s.monitor := rfl
@[simp] theorem mem_raiseMachine (c : MachineCause) : (s.raiseMachine c).mem = s.mem := rfl
@[simp] theorem check_raiseMachine (c : MachineCause) : (s.raiseMachine c).check = s.check := rfl
@[simp] theorem free_raiseMachine (c : MachineCause) : (s.raiseMachine c).free = s.free := rfl
@[simp] theorem pending_raiseMachine (c : MachineCause) : (s.raiseMachine c).pending = s.pending := rfl
@[simp] theorem backdrop_raiseMachine (c : MachineCause) : (s.raiseMachine c).backdrop = s.backdrop := rfl

/-! ### State.raiseBoth -/

@[simp] theorem phase_raiseBoth (c : BoomCause) : (s.raiseBoth c).phase = s.phase := by simp [State.raiseBoth]
@[simp] theorem resetNLow_raiseBoth (c : BoomCause) : (s.raiseBoth c).resetNLow = s.resetNLow := by simp [State.raiseBoth]
@[simp] theorem straps_raiseBoth (c : BoomCause) : (s.raiseBoth c).straps = s.straps := by simp [State.raiseBoth]
@[simp] theorem postFail_raiseBoth (c : BoomCause) : (s.raiseBoth c).postFail = s.postFail := by simp [State.raiseBoth]
@[simp] theorem millis_raiseBoth (c : BoomCause) : (s.raiseBoth c).millis = s.millis := by simp [State.raiseBoth]
@[simp] theorem params_raiseBoth (c : BoomCause) : (s.raiseBoth c).params = s.params := by simp [State.raiseBoth]
@[simp] theorem left_raiseBoth (c : BoomCause) : (s.raiseBoth c).left = s.left := by simp [State.raiseBoth]
@[simp] theorem right_raiseBoth (c : BoomCause) : (s.raiseBoth c).right = s.right := by simp [State.raiseBoth]
@[simp] theorem arbiter_raiseBoth (c : BoomCause) : (s.raiseBoth c).arbiter = s.arbiter := by simp [State.raiseBoth]
@[simp] theorem rowMap_raiseBoth (c : BoomCause) : (s.raiseBoth c).rowMap = s.rowMap := by simp [State.raiseBoth]
@[simp] theorem holeLog_raiseBoth (c : BoomCause) : (s.raiseBoth c).holeLog = s.holeLog := by simp [State.raiseBoth]
@[simp] theorem faultLog_raiseBoth (c : BoomCause) : (s.raiseBoth c).faultLog = s.faultLog := by simp [State.raiseBoth]
@[simp] theorem monitor_raiseBoth (c : BoomCause) : (s.raiseBoth c).monitor = s.monitor := by simp [State.raiseBoth]
@[simp] theorem mem_raiseBoth (c : BoomCause) : (s.raiseBoth c).mem = s.mem := by simp [State.raiseBoth]
@[simp] theorem check_raiseBoth (c : BoomCause) : (s.raiseBoth c).check = s.check := by simp [State.raiseBoth]
@[simp] theorem free_raiseBoth (c : BoomCause) : (s.raiseBoth c).free = s.free := by simp [State.raiseBoth]
@[simp] theorem pending_raiseBoth (c : BoomCause) : (s.raiseBoth c).pending = s.pending := by simp [State.raiseBoth]
@[simp] theorem backdrop_raiseBoth (c : BoomCause) : (s.raiseBoth c).backdrop = s.backdrop := by simp [State.raiseBoth]

@[simp] theorem boom_raise (c : BoomCause) (d : Boom) : (s.raise b c).boom d = s.boom d := by cases d <;> simp [State.boom]

@[simp] theorem boom_raiseMachine (c : MachineCause) (d : Boom) : (s.raiseMachine c).boom d = s.boom d := by cases d <;> rfl

@[simp] theorem boom_raiseBoth (c : BoomCause) (d : Boom) : (s.raiseBoth c).boom d = s.boom d := by cases d <;> simp [State.boom]

end Sys2Proof.Machine
end

