-- ==== Sys2Proof/Laws/Stages.lean ====
section
/-! SUPPORT. What the operations of a stage, a slice, a grant and a close leave alone. -/
namespace Sys2Proof.Machine

variable (s : State) (b : Boom)

/-! ### Fault records -/

@[simp] theorem backdrop_logBoomFault (f : FaultCode) (d : Option Nat) (st : BoomState × Option RunCondition) : (s.logBoomFault b f d st).backdrop = s.backdrop := rfl
@[simp] theorem arbiter_logBoomFault (f : FaultCode) (d : Option Nat) (st : BoomState × Option RunCondition) : (s.logBoomFault b f d st).arbiter = s.arbiter := rfl
@[simp] theorem rowMap_logBoomFault (f : FaultCode) (d : Option Nat) (st : BoomState × Option RunCondition) : (s.logBoomFault b f d st).rowMap = s.rowMap := rfl
@[simp] theorem holeLog_logBoomFault (f : FaultCode) (d : Option Nat) (st : BoomState × Option RunCondition) : (s.logBoomFault b f d st).holeLog = s.holeLog := rfl
@[simp] theorem monitor_logBoomFault (f : FaultCode) (d : Option Nat) (st : BoomState × Option RunCondition) : (s.logBoomFault b f d st).monitor = s.monitor := rfl
@[simp] theorem params_logBoomFault (f : FaultCode) (d : Option Nat) (st : BoomState × Option RunCondition) : (s.logBoomFault b f d st).params = s.params := rfl
@[simp] theorem straps_logBoomFault (f : FaultCode) (d : Option Nat) (st : BoomState × Option RunCondition) : (s.logBoomFault b f d st).straps = s.straps := rfl
@[simp] theorem mem_logBoomFault (f : FaultCode) (d : Option Nat) (st : BoomState × Option RunCondition) : (s.logBoomFault b f d st).mem = s.mem := rfl
@[simp] theorem check_logBoomFault (f : FaultCode) (d : Option Nat) (st : BoomState × Option RunCondition) : (s.logBoomFault b f d st).check = s.check := rfl
@[simp] theorem millis_logBoomFault (f : FaultCode) (d : Option Nat) (st : BoomState × Option RunCondition) : (s.logBoomFault b f d st).millis = s.millis := rfl

@[simp] theorem boom_logBoomFault (f : FaultCode) (d : Option Nat) (st : BoomState × Option RunCondition) (c : Boom) :
    (s.logBoomFault b f d st).boom c = s.boom c := by cases c <;> rfl

@[simp] theorem port_logBoomFault (f : FaultCode) (d : Option Nat) (st : BoomState × Option RunCondition) (p : Port) :
    (s.logBoomFault b f d st).port p = s.port p := by cases p <;> rfl

/-! ### Fault records of the part -/

@[simp] theorem backdrop_logPartFault (src : FaultSource) (f : FaultCode) (d : Option Nat) : (s.logPartFault src f d).backdrop = s.backdrop := rfl
@[simp] theorem arbiter_logPartFault (src : FaultSource) (f : FaultCode) (d : Option Nat) : (s.logPartFault src f d).arbiter = s.arbiter := rfl
@[simp] theorem rowMap_logPartFault (src : FaultSource) (f : FaultCode) (d : Option Nat) : (s.logPartFault src f d).rowMap = s.rowMap := rfl
@[simp] theorem holeLog_logPartFault (src : FaultSource) (f : FaultCode) (d : Option Nat) : (s.logPartFault src f d).holeLog = s.holeLog := rfl
@[simp] theorem monitor_logPartFault (src : FaultSource) (f : FaultCode) (d : Option Nat) : (s.logPartFault src f d).monitor = s.monitor := rfl
@[simp] theorem params_logPartFault (src : FaultSource) (f : FaultCode) (d : Option Nat) : (s.logPartFault src f d).params = s.params := rfl
@[simp] theorem straps_logPartFault (src : FaultSource) (f : FaultCode) (d : Option Nat) : (s.logPartFault src f d).straps = s.straps := rfl
@[simp] theorem mem_logPartFault (src : FaultSource) (f : FaultCode) (d : Option Nat) : (s.logPartFault src f d).mem = s.mem := rfl
@[simp] theorem check_logPartFault (src : FaultSource) (f : FaultCode) (d : Option Nat) : (s.logPartFault src f d).check = s.check := rfl
@[simp] theorem millis_logPartFault (src : FaultSource) (f : FaultCode) (d : Option Nat) : (s.logPartFault src f d).millis = s.millis := rfl

@[simp] theorem boom_logPartFault (src : FaultSource) (f : FaultCode) (d : Option Nat) (c : Boom) :
    (s.logPartFault src f d).boom c = s.boom c := by cases c <;> rfl

@[simp] theorem port_logPartFault (src : FaultSource) (f : FaultCode) (d : Option Nat) (p : Port) :
    (s.logPartFault src f d).port p = s.port p := by cases p <;> rfl

/-! ### Wear -/

@[simp] theorem backdrop_modWear (f : WearTable → WearTable) : (s.modWear b f).backdrop = s.backdrop := by unfold State.modWear; simp only []; split <;> simp
@[simp] theorem arbiter_modWear (f : WearTable → WearTable) : (s.modWear b f).arbiter = s.arbiter := by unfold State.modWear; simp only []; split <;> simp
@[simp] theorem rowMap_modWear (f : WearTable → WearTable) : (s.modWear b f).rowMap = s.rowMap := by unfold State.modWear; simp only []; split <;> simp
@[simp] theorem holeLog_modWear (f : WearTable → WearTable) : (s.modWear b f).holeLog = s.holeLog := by unfold State.modWear; simp only []; split <;> simp
@[simp] theorem faultLog_modWear (f : WearTable → WearTable) : (s.modWear b f).faultLog = s.faultLog := by unfold State.modWear; simp only []; split <;> simp
@[simp] theorem monitor_modWear (f : WearTable → WearTable) : (s.modWear b f).monitor = s.monitor := by unfold State.modWear; simp only []; split <;> simp

/-- A changed wear table changes nothing else of its boom. -/
@[simp] theorem boom_modWear_same (f : WearTable → WearTable) :
    (s.modWear b f).boom b = { s.boom b with wear := f (s.boom b).wear } := by
  unfold State.modWear; simp only []; split <;> simp

theorem boom_modWear_other {b c : Boom} (h : c ≠ b) (f : WearTable → WearTable) : (s.modWear b f).boom c = s.boom c := by
  unfold State.modWear; simp only []; split <;> simp [boom_modBoom_other s h]

/-! ### A slice handed on -/

@[simp] theorem backdrop_handSlice (c : ClosedSlice) : (s.handSlice b c).backdrop = s.backdrop := by unfold State.handSlice; simp only []; split <;> split <;> simp
@[simp] theorem arbiter_handSlice (c : ClosedSlice) : (s.handSlice b c).arbiter = s.arbiter := by unfold State.handSlice; simp only []; split <;> split <;> simp
@[simp] theorem rowMap_handSlice (c : ClosedSlice) : (s.handSlice b c).rowMap = s.rowMap := by unfold State.handSlice; simp only []; split <;> split <;> simp
@[simp] theorem holeLog_handSlice (c : ClosedSlice) : (s.handSlice b c).holeLog = s.holeLog := by unfold State.handSlice; simp only []; split <;> split <;> simp
@[simp] theorem faultLog_handSlice (c : ClosedSlice) : (s.handSlice b c).faultLog = s.faultLog := by unfold State.handSlice; simp only []; split <;> split <;> simp
@[simp] theorem monitor_handSlice (c : ClosedSlice) : (s.handSlice b c).monitor = s.monitor := by unfold State.handSlice; simp only []; split <;> split <;> simp

theorem boom_handSlice_other {b d : Boom} (h : d ≠ b) (c : ClosedSlice) : (s.handSlice b c).boom d = s.boom d := by
  unfold State.handSlice
  simp only []
  split <;> split <;> simp [boom_modWear_other _ h, boom_modHole_other _ h, boom_modBoom_other _ h]

/-- A slice handed on leaves the link, the plan and the controller but for its hole record. -/
theorem boom_handSlice_same (c : ClosedSlice) :
    ((s.handSlice b c).boom b).link = (s.boom b).link ∧ ((s.handSlice b c).boom b).anchorage = (s.boom b).anchorage ∧
      { ((s.handSlice b c).boom b).ctl with hole := none } = { (s.boom b).ctl with hole := none } := by
  unfold State.handSlice
  simp only []
  split <;> split <;> simp

/-! ### The slice of a stage that ends -/

@[simp] theorem backdrop_settleSlice  : (s.settleSlice b).backdrop = s.backdrop := by
  unfold State.settleSlice; simp only []; split <;> (try split) <;> simp
@[simp] theorem arbiter_settleSlice  : (s.settleSlice b).arbiter = s.arbiter := by
  unfold State.settleSlice; simp only []; split <;> (try split) <;> simp
@[simp] theorem rowMap_settleSlice  : (s.settleSlice b).rowMap = s.rowMap := by
  unfold State.settleSlice; simp only []; split <;> (try split) <;> simp
@[simp] theorem holeLog_settleSlice  : (s.settleSlice b).holeLog = s.holeLog := by
  unfold State.settleSlice; simp only []; split <;> (try split) <;> simp
@[simp] theorem faultLog_settleSlice  : (s.settleSlice b).faultLog = s.faultLog := by
  unfold State.settleSlice; simp only []; split <;> (try split) <;> simp
@[simp] theorem monitor_settleSlice  : (s.settleSlice b).monitor = s.monitor := by
  unfold State.settleSlice; simp only []; split <;> (try split) <;> simp

theorem boom_settleSlice_other {b d : Boom} (h : d ≠ b) : (s.settleSlice b).boom d = s.boom d := by
  unfold State.settleSlice
  simp only []
  split <;> (try split) <;> simp [boom_modTracker_other _ h, boom_handSlice_other _ h]

/-- After the settling no slice is open and the stall run stands at 0 (R30). -/
theorem settleSlice_slice : ((s.settleSlice b).boom b).tracker.slice = none ∧
    ((s.settleSlice b).boom b).tracker.stallCount = 0 := by
  simp [State.settleSlice]

theorem boom_settleSlice_same :
    ((s.settleSlice b).boom b).link = (s.boom b).link ∧ ((s.settleSlice b).boom b).anchorage = (s.boom b).anchorage ∧
      { ((s.settleSlice b).boom b).ctl with hole := none } = { (s.boom b).ctl with hole := none } := by
  unfold State.settleSlice
  simp only []
  split
  · split
    · simpa using boom_handSlice_same s b _
    · simp
  · simp

/-! ### The evaluation at a drilling end -/

@[simp] theorem backdrop_evaluatePlan (r : EndReason) : (s.evaluatePlan b r).backdrop = s.backdrop := by simp [State.evaluatePlan]
@[simp] theorem arbiter_evaluatePlan (r : EndReason) : (s.evaluatePlan b r).arbiter = s.arbiter := by simp [State.evaluatePlan]
@[simp] theorem rowMap_evaluatePlan (r : EndReason) : (s.evaluatePlan b r).rowMap = s.rowMap := by simp [State.evaluatePlan]
@[simp] theorem holeLog_evaluatePlan (r : EndReason) : (s.evaluatePlan b r).holeLog = s.holeLog := by simp [State.evaluatePlan]
@[simp] theorem faultLog_evaluatePlan (r : EndReason) : (s.evaluatePlan b r).faultLog = s.faultLog := by simp [State.evaluatePlan]
@[simp] theorem monitor_evaluatePlan (r : EndReason) : (s.evaluatePlan b r).monitor = s.monitor := by simp [State.evaluatePlan]

theorem boom_evaluatePlan_other {b d : Boom} (h : d ≠ b) (r : EndReason) : (s.evaluatePlan b r).boom d = s.boom d := by
  simp [State.evaluatePlan, boom_modBoom_other _ h]

/-! ### A missing poll -/

@[simp] theorem backdrop_missingPoll  : (s.missingPoll b).backdrop = s.backdrop := by
  unfold State.missingPoll; simp only []; split <;> (try split) <;> simp
@[simp] theorem arbiter_missingPoll  : (s.missingPoll b).arbiter = s.arbiter := by
  unfold State.missingPoll; simp only []; split <;> (try split) <;> simp
@[simp] theorem rowMap_missingPoll  : (s.missingPoll b).rowMap = s.rowMap := by
  unfold State.missingPoll; simp only []; split <;> (try split) <;> simp
@[simp] theorem holeLog_missingPoll  : (s.missingPoll b).holeLog = s.holeLog := by
  unfold State.missingPoll; simp only []; split <;> (try split) <;> simp
@[simp] theorem faultLog_missingPoll  : (s.missingPoll b).faultLog = s.faultLog := by
  unfold State.missingPoll; simp only []; split <;> (try split) <;> simp
@[simp] theorem monitor_missingPoll  : (s.missingPoll b).monitor = s.monitor := by
  unfold State.missingPoll; simp only []; split <;> (try split) <;> simp

theorem boom_missingPoll_other {b d : Boom} (h : d ≠ b) : (s.missingPoll b).boom d = s.boom d := by
  unfold State.missingPoll
  simp only []
  split <;> (try split) <;> simp [boom_modTracker_other _ h]

/-! ### A stage enters RUNNING -/

@[simp] theorem backdrop_enterRunning  : (s.enterRunning b).backdrop = s.backdrop := by simp [State.enterRunning]
@[simp] theorem arbiter_enterRunning  : (s.enterRunning b).arbiter = s.arbiter := by simp [State.enterRunning]
@[simp] theorem rowMap_enterRunning  : (s.enterRunning b).rowMap = s.rowMap := by simp [State.enterRunning]
@[simp] theorem holeLog_enterRunning  : (s.enterRunning b).holeLog = s.holeLog := by simp [State.enterRunning]
@[simp] theorem faultLog_enterRunning  : (s.enterRunning b).faultLog = s.faultLog := by simp [State.enterRunning]
@[simp] theorem monitor_enterRunning  : (s.enterRunning b).monitor = s.monitor := by simp [State.enterRunning]

theorem boom_enterRunning_other {b d : Boom} (h : d ≠ b) : (s.enterRunning b).boom d = s.boom d := by
  simp [State.enterRunning, boom_modLink_other _ h, boom_modCtl_other _ h]

theorem ungranted_enterRunning (d : Boom) : ((s.enterRunning b).boom d).ungranted = (s.boom d).ungranted := by
  by_cases h : d = b
  · subst h
    simp only [State.enterRunning, boom_modLink_same, boom_modCtl_same, BoomUnit.ungranted]
    split <;> (try split) <;> (try split) <;> rfl
  · rw [boom_enterRunning_other s h]

/-! ### A grant acted on -/

@[simp] theorem backdrop_applyGrant (d : Demand) : (s.applyGrant b d).backdrop = s.backdrop := by
  unfold State.applyGrant; split <;> (try split) <;> simp
@[simp] theorem arbiter_applyGrant (d : Demand) : (s.applyGrant b d).arbiter = s.arbiter := by
  unfold State.applyGrant; split <;> (try split) <;> simp
@[simp] theorem rowMap_applyGrant (d : Demand) : (s.applyGrant b d).rowMap = s.rowMap := by
  unfold State.applyGrant; split <;> (try split) <;> simp
@[simp] theorem holeLog_applyGrant (d : Demand) : (s.applyGrant b d).holeLog = s.holeLog := by
  unfold State.applyGrant; split <;> (try split) <;> simp
@[simp] theorem faultLog_applyGrant (d : Demand) : (s.applyGrant b d).faultLog = s.faultLog := by
  unfold State.applyGrant; split <;> (try split) <;> simp
@[simp] theorem monitor_applyGrant (d : Demand) : (s.applyGrant b d).monitor = s.monitor := by
  unfold State.applyGrant; split <;> (try split) <;> simp

theorem ungranted_applyGrant (g : Demand) (d : Boom) : ((s.applyGrant b g).boom d).ungranted = (s.boom d).ungranted := by
  unfold State.applyGrant
  split <;> (try split) <;> (try rfl)
  · exact ungranted_enterRunning s b d
  · exact ungranted_enterRunning s b d
  · by_cases h : d = b
    · subst h; simp [BoomUnit.ungranted]
    · rw [boom_modCtl_other _ h]

/-! ### A changed grant handed on -/

@[simp] theorem backdrop_handGrant (old new : List Demand) : (s.handGrant b old new).backdrop = s.backdrop := by
  unfold State.handGrant; split <;> (try split) <;> simp
@[simp] theorem arbiter_handGrant (old new : List Demand) : (s.handGrant b old new).arbiter = s.arbiter := by
  unfold State.handGrant; split <;> (try split) <;> simp
@[simp] theorem rowMap_handGrant (old new : List Demand) : (s.handGrant b old new).rowMap = s.rowMap := by
  unfold State.handGrant; split <;> (try split) <;> simp
@[simp] theorem holeLog_handGrant (old new : List Demand) : (s.handGrant b old new).holeLog = s.holeLog := by
  unfold State.handGrant; split <;> (try split) <;> simp
@[simp] theorem faultLog_handGrant (old new : List Demand) : (s.handGrant b old new).faultLog = s.faultLog := by
  unfold State.handGrant; split <;> (try split) <;> simp
@[simp] theorem monitor_handGrant (old new : List Demand) : (s.handGrant b old new).monitor = s.monitor := by
  unfold State.handGrant; split <;> (try split) <;> simp

theorem ungranted_handGrant (old new : List Demand) (d : Boom) :
    ((s.handGrant b old new).boom d).ungranted = (s.boom d).ungranted := by
  unfold State.handGrant
  split <;> (try split) <;> simp [ungranted_applyGrant]

/-! ### An allocation -/

@[simp] theorem backdrop_reallocate (old : List Demand) : (s.reallocate old).backdrop = s.backdrop := by
  unfold State.reallocate; simp only []; split <;> simp <;> rfl
@[simp] theorem rowMap_reallocate (old : List Demand) : (s.reallocate old).rowMap = s.rowMap := by
  unfold State.reallocate; simp only []; split <;> simp
@[simp] theorem holeLog_reallocate (old : List Demand) : (s.reallocate old).holeLog = s.holeLog := by
  unfold State.reallocate; simp only []; split <;> simp
@[simp] theorem faultLog_reallocate (old : List Demand) : (s.reallocate old).faultLog = s.faultLog := by
  unfold State.reallocate; simp only []; split <;> simp
@[simp] theorem monitor_reallocate (old : List Demand) : (s.reallocate old).monitor = s.monitor := by
  unfold State.reallocate; simp only []; split <;> simp

/-- What an allocation makes of the arbiter: the grants of R110 to R113 over the list as it stands, and Q_avail as it was. -/
@[simp] theorem arbiter_reallocate (old : List Demand) :
    (s.reallocate old).arbiter = { s.arbiter with demands := allocate s.arbiter.qAvail s.arbiter.demands } := by
  unfold State.reallocate; simp only []; split <;> simp

theorem ungranted_reallocate (old : List Demand) (d : Boom) :
    ((s.reallocate old).boom d).ungranted = (s.boom d).ungranted := by
  unfold State.reallocate; simp only []; split <;> simp [ungranted_handGrant]

/-! ### An arrival -/

@[simp] theorem backdrop_arrive (p : Port) (k : DemandKind) : (s.arrive p k).backdrop = s.backdrop := by simp [State.arrive] <;> rfl
@[simp] theorem rowMap_arrive (p : Port) (k : DemandKind) : (s.arrive p k).rowMap = s.rowMap := by simp [State.arrive]
@[simp] theorem holeLog_arrive (p : Port) (k : DemandKind) : (s.arrive p k).holeLog = s.holeLog := by simp [State.arrive]
@[simp] theorem faultLog_arrive (p : Port) (k : DemandKind) : (s.arrive p k).faultLog = s.faultLog := by simp [State.arrive]
@[simp] theorem monitor_arrive (p : Port) (k : DemandKind) : (s.arrive p k).monitor = s.monitor := by simp [State.arrive]

theorem arbiter_arrive (p : Port) (k : DemandKind) :
    (s.arrive p k).arbiter =
      { s.arbiter with
        demands := allocate s.arbiter.qAvail (s.arbiter.demands ++ [newDemand s.params.plan p k]) } := by
  simp [State.arrive]

theorem ungranted_arrive (p : Port) (k : DemandKind) (d : Boom) :
    ((s.arrive p k).boom d).ungranted = (s.boom d).ungranted := by
  simp [State.arrive, ungranted_reallocate]

/-! ### A departure -/

@[simp] theorem backdrop_depart (sel : Demand → Bool) : (s.depart sel).backdrop = s.backdrop := by unfold State.depart; simp only []; split <;> simp <;> rfl
@[simp] theorem rowMap_depart (sel : Demand → Bool) : (s.depart sel).rowMap = s.rowMap := by unfold State.depart; simp only []; split <;> simp
@[simp] theorem holeLog_depart (sel : Demand → Bool) : (s.depart sel).holeLog = s.holeLog := by unfold State.depart; simp only []; split <;> simp
@[simp] theorem faultLog_depart (sel : Demand → Bool) : (s.depart sel).faultLog = s.faultLog := by unfold State.depart; simp only []; split <;> simp
@[simp] theorem monitor_depart (sel : Demand → Bool) : (s.depart sel).monitor = s.monitor := by unfold State.depart; simp only []; split <;> simp

theorem ungranted_depart (sel : Demand → Bool) (d : Boom) :
    ((s.depart sel).boom d).ungranted = (s.boom d).ungranted := by
  unfold State.depart; simp only []; split <;> simp [ungranted_reallocate]

/-! ### A withdrawal -/

@[simp] theorem backdrop_withdraw  : (s.withdraw b).backdrop = s.backdrop := by simp [State.withdraw]
@[simp] theorem rowMap_withdraw  : (s.withdraw b).rowMap = s.rowMap := by simp [State.withdraw]
@[simp] theorem holeLog_withdraw  : (s.withdraw b).holeLog = s.holeLog := by simp [State.withdraw]
@[simp] theorem faultLog_withdraw  : (s.withdraw b).faultLog = s.faultLog := by simp [State.withdraw]
@[simp] theorem monitor_withdraw  : (s.withdraw b).monitor = s.monitor := by simp [State.withdraw]

theorem ungranted_withdraw (d : Boom) : ((s.withdraw b).boom d).ungranted = (s.boom d).ungranted := by
  simp [State.withdraw, ungranted_depart]

end Sys2Proof.Machine
end

