-- ==== Sys2Proof/Laws/Closes.lean ====
section
/-! SUPPORT. What the close of a hole, the end of a stage and a change of the interlock set leave alone. -/
namespace Sys2Proof.Machine

variable (s : State) (b : Boom)

@[simp] theorem backdrop_rowMap (m : RowMap) : ({ s with rowMap := m } : State).backdrop = s.backdrop := rfl

@[simp] theorem backdrop_arbiter (a : Arbiter) : ({ s with arbiter := a } : State).backdrop = s.backdrop := rfl

@[simp] theorem backdrop_holeLog (l : HoleLog) : ({ s with holeLog := l } : State).backdrop = s.backdrop := rfl

/-! ### ROW_READY -/

@[simp] theorem backdrop_raiseReady  : s.raiseReady.backdrop = s.backdrop := by unfold State.raiseReady; split <;> simp
@[simp] theorem arbiter_raiseReady  : s.raiseReady.arbiter = s.arbiter := by unfold State.raiseReady; split <;> simp
@[simp] theorem rowMap_raiseReady  : s.raiseReady.rowMap = s.rowMap := by unfold State.raiseReady; split <;> simp
@[simp] theorem holeLog_raiseReady  : s.raiseReady.holeLog = s.holeLog := by unfold State.raiseReady; split <;> simp
@[simp] theorem faultLog_raiseReady  : s.raiseReady.faultLog = s.faultLog := by unfold State.raiseReady; split <;> simp
@[simp] theorem monitor_raiseReady  : s.raiseReady.monitor = s.monitor := by unfold State.raiseReady; split <;> simp

@[simp] theorem boom_raiseReady (d : Boom) : s.raiseReady.boom d = s.boom d := by
  unfold State.raiseReady; split <;> simp

/-! ### The grade at the row map -/

@[simp] theorem backdrop_closeSlot (g : Grade) : (s.closeSlot b g).backdrop = s.backdrop := by
  unfold State.closeSlot; split <;> (try simp only []) <;> (try split) <;> simp
@[simp] theorem arbiter_closeSlot (g : Grade) : (s.closeSlot b g).arbiter = s.arbiter := by
  unfold State.closeSlot; split <;> (try simp only []) <;> (try split) <;> simp
@[simp] theorem holeLog_closeSlot (g : Grade) : (s.closeSlot b g).holeLog = s.holeLog := by
  unfold State.closeSlot; split <;> (try simp only []) <;> (try split) <;> simp
@[simp] theorem faultLog_closeSlot (g : Grade) : (s.closeSlot b g).faultLog = s.faultLog := by
  unfold State.closeSlot; split <;> (try simp only []) <;> (try split) <;> simp
@[simp] theorem monitor_closeSlot (g : Grade) : (s.closeSlot b g).monitor = s.monitor := by
  unfold State.closeSlot; split <;> (try simp only []) <;> (try split) <;> simp

@[simp] theorem boom_closeSlot (g : Grade) (d : Boom) : (s.closeSlot b g).boom d = s.boom d := by
  unfold State.closeSlot; split <;> (try simp only []) <;> (try split) <;> simp

/-! ### The close of a hole -/

@[simp] theorem backdrop_closeHole (how : CloseKind) (st : BoomState) (f : Option FaultCode) : (s.closeHole b how st f).backdrop = s.backdrop := by
  unfold State.closeHole; split <;> simp
@[simp] theorem arbiter_closeHole (how : CloseKind) (st : BoomState) (f : Option FaultCode) : (s.closeHole b how st f).arbiter = s.arbiter := by
  unfold State.closeHole; split <;> simp
@[simp] theorem faultLog_closeHole (how : CloseKind) (st : BoomState) (f : Option FaultCode) : (s.closeHole b how st f).faultLog = s.faultLog := by
  unfold State.closeHole; split <;> simp
@[simp] theorem monitor_closeHole (how : CloseKind) (st : BoomState) (f : Option FaultCode) : (s.closeHole b how st f).monitor = s.monitor := by
  unfold State.closeHole; split <;> simp

theorem boom_closeHole_other {b d : Boom} (h : d ≠ b) (how : CloseKind) (st : BoomState) (f : Option FaultCode) :
    (s.closeHole b how st f).boom d = s.boom d := by
  unfold State.closeHole
  split <;> simp [boom_modCtl_other _ h, boom_modWear_other _ h]

/-- The close returns the boom to IDLE with no hole record and every timer stopped (R102, step 5), and keeps its link, its
tracker, its layers and its plan. -/
theorem boom_closeHole_same (how : CloseKind) (st : BoomState) (f : Option FaultCode) :
    ((s.closeHole b how st f).boom b).ctl = (s.boom b).ctl.toIdle ∧
      ((s.closeHole b how st f).boom b).link = (s.boom b).link ∧
      ((s.closeHole b how st f).boom b).tracker = (s.boom b).tracker ∧
      ((s.closeHole b how st f).boom b).classifier = (s.boom b).classifier ∧
      ((s.closeHole b how st f).boom b).anchorage = (s.boom b).anchorage := by
  unfold State.closeHole
  split <;> simp

/-- A hole that is held is archived with the grade of R101 (R102, steps 1 and 2). -/
theorem holeLog_closeHole {h : HoleRecord} (hold : s.liveRecord b = some h) (how : CloseKind) (st : BoomState)
    (f : Option FaultCode) :
    (s.closeHole b how st f).holeLog =
      s.holeLog.archive (completeRecord h (s.boom b).anchorage (gradeOf how st h (s.boom b).anchorage) s.millis) := by
  simp [State.closeHole, hold]

/-! ### A fault marked -/

@[simp] theorem backdrop_markFault (f : FaultCode) : (s.markFault b f).backdrop = s.backdrop := by simp [State.markFault]
@[simp] theorem arbiter_markFault (f : FaultCode) : (s.markFault b f).arbiter = s.arbiter := by simp [State.markFault]
@[simp] theorem rowMap_markFault (f : FaultCode) : (s.markFault b f).rowMap = s.rowMap := by simp [State.markFault]
@[simp] theorem holeLog_markFault (f : FaultCode) : (s.markFault b f).holeLog = s.holeLog := by simp [State.markFault]
@[simp] theorem faultLog_markFault (f : FaultCode) : (s.markFault b f).faultLog = s.faultLog := by simp [State.markFault]
@[simp] theorem monitor_markFault (f : FaultCode) : (s.markFault b f).monitor = s.monitor := by simp [State.markFault]

theorem boom_markFault_other {b d : Boom} (h : d ≠ b) (f : FaultCode) : (s.markFault b f).boom d = s.boom d := by
  simp [State.markFault, boom_modHole_other _ h]

@[simp] theorem boom_markFault_same (f : FaultCode) :
    (s.markFault b f).boom b =
      { s.boom b with
        ctl := { (s.boom b).ctl with hole := (s.boom b).ctl.hole.map fun h => { h with fault := some f } } } := by
  simp [State.markFault]

/-! ### Step 4 of a stage's end -/

@[simp] theorem backdrop_afterStage (st : BoomState) (e : StageEnd) : (s.afterStage b st e).backdrop = s.backdrop := by
  unfold State.afterStage; split <;> (try simp only []) <;> (try split) <;> (try split) <;> simp
@[simp] theorem arbiter_afterStage (st : BoomState) (e : StageEnd) : (s.afterStage b st e).arbiter = s.arbiter := by
  unfold State.afterStage; split <;> (try simp only []) <;> (try split) <;> (try split) <;> simp
@[simp] theorem faultLog_afterStage (st : BoomState) (e : StageEnd) : (s.afterStage b st e).faultLog = s.faultLog := by
  unfold State.afterStage; split <;> (try simp only []) <;> (try split) <;> (try split) <;> simp
@[simp] theorem monitor_afterStage (st : BoomState) (e : StageEnd) : (s.afterStage b st e).monitor = s.monitor := by
  unfold State.afterStage; split <;> (try simp only []) <;> (try split) <;> (try split) <;> simp

theorem boom_afterStage_other {b d : Boom} (h : d ≠ b) (st : BoomState) (e : StageEnd) :
    (s.afterStage b st e).boom d = s.boom d := by
  unfold State.afterStage
  split <;> (try simp only []) <;> (try split) <;> (try split) <;>
    simp [boom_modCtl_other _ h, boom_modHole_other _ h, boom_closeHole_other _ h]

/-! ### Step 3 of a stage's end -/

@[simp] theorem backdrop_settleStage (st : BoomState) (e : StageEnd) : (s.settleStage b st e).backdrop = s.backdrop := by
  unfold State.settleStage; split <;> (try split) <;> (try split) <;> simp
@[simp] theorem arbiter_settleStage (st : BoomState) (e : StageEnd) : (s.settleStage b st e).arbiter = s.arbiter := by
  unfold State.settleStage; split <;> (try split) <;> (try split) <;> simp
@[simp] theorem rowMap_settleStage (st : BoomState) (e : StageEnd) : (s.settleStage b st e).rowMap = s.rowMap := by
  unfold State.settleStage; split <;> (try split) <;> (try split) <;> simp
@[simp] theorem holeLog_settleStage (st : BoomState) (e : StageEnd) : (s.settleStage b st e).holeLog = s.holeLog := by
  unfold State.settleStage; split <;> (try split) <;> (try split) <;> simp
@[simp] theorem faultLog_settleStage (st : BoomState) (e : StageEnd) : (s.settleStage b st e).faultLog = s.faultLog := by
  unfold State.settleStage; split <;> (try split) <;> (try split) <;> simp
@[simp] theorem monitor_settleStage (st : BoomState) (e : StageEnd) : (s.settleStage b st e).monitor = s.monitor := by
  unfold State.settleStage; split <;> (try split) <;> (try split) <;> simp

theorem boom_settleStage_other {b d : Boom} (h : d ≠ b) (st : BoomState) (e : StageEnd) :
    (s.settleStage b st e).boom d = s.boom d := by
  unfold State.settleStage
  split <;> (try split) <;> (try split) <;> simp [boom_settleSlice_other _ h, boom_evaluatePlan_other _ h]

/-! ### The end of a stage -/

@[simp] theorem backdrop_endStage (e : StageEnd) (x : Option Nat) (st : BoomState × Option RunCondition) : (s.endStage b e x st).backdrop = s.backdrop := by
  unfold State.endStage; simp only []; (repeat' split) <;> simp
@[simp] theorem monitor_endStage (e : StageEnd) (x : Option Nat) (st : BoomState × Option RunCondition) : (s.endStage b e x st).monitor = s.monitor := by
  unfold State.endStage; simp only []; (repeat' split) <;> simp

/-- The end of a stage moves of the other boom only what a grant moves (R114). -/
theorem ungranted_endStage {b d : Boom} (h : d ≠ b) (e : StageEnd) (x : Option Nat) (st : BoomState × Option RunCondition) :
    ((s.endStage b e x st).boom d).ungranted = (s.boom d).ungranted := by
  unfold State.endStage
  simp only []
  (repeat' split) <;>
    simp [boom_afterStage_other _ h, boom_settleStage_other _ h, boom_modLink_other _ h, ungranted_withdraw,
      boom_markFault_other _ h]

/-! ### SPINNING to HOLDING -/

@[simp] theorem backdrop_spinToHold  : (s.spinToHold b).backdrop = s.backdrop := by
  simp [State.spinToHold] <;> rfl
@[simp] theorem rowMap_spinToHold  : (s.spinToHold b).rowMap = s.rowMap := by
  simp [State.spinToHold]
@[simp] theorem holeLog_spinToHold  : (s.spinToHold b).holeLog = s.holeLog := by
  simp [State.spinToHold]
@[simp] theorem faultLog_spinToHold  : (s.spinToHold b).faultLog = s.faultLog := by
  simp [State.spinToHold]
@[simp] theorem monitor_spinToHold  : (s.spinToHold b).monitor = s.monitor := by
  simp [State.spinToHold]

theorem ungranted_spinToHold {b d : Boom} (h : d ≠ b) : ((s.spinToHold b).boom d).ungranted = (s.boom d).ungranted := by
  simp only [State.spinToHold]
  rw [boom_raise, ungranted_reallocate, boom_arbiter, boom_modCtl_other _ h]

/-! ### A fault in a wait state -/

@[simp] theorem backdrop_faultInWait (f : FaultCode) (how : CloseKind) : (s.faultInWait b f how).backdrop = s.backdrop := by
  unfold State.faultInWait; simp only []; split <;> simp
@[simp] theorem arbiter_faultInWait (f : FaultCode) (how : CloseKind) : (s.faultInWait b f how).arbiter = s.arbiter := by
  unfold State.faultInWait; simp only []; split <;> simp
@[simp] theorem monitor_faultInWait (f : FaultCode) (how : CloseKind) : (s.faultInWait b f how).monitor = s.monitor := by
  unfold State.faultInWait; simp only []; split <;> simp

theorem boom_faultInWait_other {b d : Boom} (h : d ≠ b) (f : FaultCode) (how : CloseKind) :
    (s.faultInWait b f how).boom d = s.boom d := by
  unfold State.faultInWait
  simp only []
  split <;> simp [boom_closeHole_other _ h, boom_modHole_other _ h, boom_markFault_other _ h]

/-! ### A link or head fault -/

@[simp] theorem backdrop_linkFault (f : FaultCode) (x : Option Nat) : (s.linkFault b f x).backdrop = s.backdrop := by
  unfold State.linkFault; simp only []; split <;> simp
@[simp] theorem monitor_linkFault (f : FaultCode) (x : Option Nat) : (s.linkFault b f x).monitor = s.monitor := by
  unfold State.linkFault; simp only []; split <;> simp

theorem ungranted_linkFault {b d : Boom} (h : d ≠ b) (f : FaultCode) (x : Option Nat) :
    ((s.linkFault b f x).boom d).ungranted = (s.boom d).ungranted := by
  unfold State.linkFault
  simp only []
  split <;> simp [ungranted_endStage _ h, boom_markFault_other _ h]

/-! ### A suspension -/

@[simp] theorem backdrop_suspendStage (i : Interlocks) : (s.suspendStage b i).backdrop = s.backdrop := by
  unfold State.suspendStage; simp only []; split <;> (try split) <;> simp
@[simp] theorem arbiter_suspendStage (i : Interlocks) : (s.suspendStage b i).arbiter = s.arbiter := by
  unfold State.suspendStage; simp only []; split <;> (try split) <;> simp
@[simp] theorem rowMap_suspendStage (i : Interlocks) : (s.suspendStage b i).rowMap = s.rowMap := by
  unfold State.suspendStage; simp only []; split <;> (try split) <;> simp
@[simp] theorem holeLog_suspendStage (i : Interlocks) : (s.suspendStage b i).holeLog = s.holeLog := by
  unfold State.suspendStage; simp only []; split <;> (try split) <;> simp
@[simp] theorem faultLog_suspendStage (i : Interlocks) : (s.suspendStage b i).faultLog = s.faultLog := by
  unfold State.suspendStage; simp only []; split <;> (try split) <;> simp
@[simp] theorem monitor_suspendStage (i : Interlocks) : (s.suspendStage b i).monitor = s.monitor := by
  unfold State.suspendStage; simp only []; split <;> (try split) <;> simp

theorem boom_suspendStage_other {b d : Boom} (h : d ≠ b) (i : Interlocks) : (s.suspendStage b i).boom d = s.boom d := by
  unfold State.suspendStage
  simp only []
  split <;> (try split) <;> simp [boom_modCtl_other _ h, boom_modLink_other _ h]

/-! ### The arbiter on a changed set -/

@[simp] theorem backdrop_refreshFlow  : s.refreshFlow.backdrop = s.backdrop := by
  unfold State.refreshFlow; simp only []; split <;> simp
@[simp] theorem rowMap_refreshFlow  : s.refreshFlow.rowMap = s.rowMap := by
  unfold State.refreshFlow; simp only []; split <;> simp
@[simp] theorem holeLog_refreshFlow  : s.refreshFlow.holeLog = s.holeLog := by
  unfold State.refreshFlow; simp only []; split <;> simp
@[simp] theorem faultLog_refreshFlow  : s.refreshFlow.faultLog = s.faultLog := by
  unfold State.refreshFlow; simp only []; split <;> simp
@[simp] theorem monitor_refreshFlow  : s.refreshFlow.monitor = s.monitor := by
  unfold State.refreshFlow; simp only []; split <;> simp

theorem ungranted_refreshFlow (d : Boom) : (s.refreshFlow.boom d).ungranted = (s.boom d).ungranted := by
  unfold State.refreshFlow; simp only []; split <;> simp [ungranted_reallocate]

/-! ### A SUPPLY end -/

@[simp] theorem backdrop_supplyEnd (st : BoomState × Option RunCondition) : (s.supplyEnd b st).backdrop = s.backdrop := by
  unfold State.supplyEnd; split <;> simp
@[simp] theorem monitor_supplyEnd (st : BoomState × Option RunCondition) : (s.supplyEnd b st).monitor = s.monitor := by
  unfold State.supplyEnd; split <;> simp

/-! ### INTERLOCK -/

@[simp] theorem backdrop_raiseInterlock (old new : Interlocks) : (s.raiseInterlock old new).backdrop = s.backdrop := by
  unfold State.raiseInterlock; simp only []; split <;> simp
@[simp] theorem arbiter_raiseInterlock (old new : Interlocks) : (s.raiseInterlock old new).arbiter = s.arbiter := by
  unfold State.raiseInterlock; simp only []; split <;> simp
@[simp] theorem rowMap_raiseInterlock (old new : Interlocks) : (s.raiseInterlock old new).rowMap = s.rowMap := by
  unfold State.raiseInterlock; simp only []; split <;> simp
@[simp] theorem holeLog_raiseInterlock (old new : Interlocks) : (s.raiseInterlock old new).holeLog = s.holeLog := by
  unfold State.raiseInterlock; simp only []; split <;> simp
@[simp] theorem faultLog_raiseInterlock (old new : Interlocks) : (s.raiseInterlock old new).faultLog = s.faultLog := by
  unfold State.raiseInterlock; simp only []; split <;> simp
@[simp] theorem monitor_raiseInterlock (old new : Interlocks) : (s.raiseInterlock old new).monitor = s.monitor := by
  unfold State.raiseInterlock; simp only []; split <;> simp

@[simp] theorem boom_raiseInterlock (old new : Interlocks) (d : Boom) : (s.raiseInterlock old new).boom d = s.boom d := by
  unfold State.raiseInterlock; simp only []; split <;> simp

/-! ### A changed set handed on -/

@[simp] theorem backdrop_announce (old : Interlocks) : (s.announce old).backdrop = s.backdrop := by
  unfold State.announce; simp only []; split <;> (try split) <;> simp
@[simp] theorem monitor_announce (old : Interlocks) : (s.announce old).monitor = s.monitor := by
  unfold State.announce; simp only []; split <;> (try split) <;> simp

/-- A set that did not change is not handed on (R149, R150). -/
theorem announce_same {old : Interlocks} (h : old = s.interlocks) : s.announce old = s := by simp [State.announce, h]

end Sys2Proof.Machine
end

