-- ==== Sys2Proof/Laws/Demands.lean ====
section
/-! SUPPORT. The demand list and the stages agree (R106, R107), operation by operation. -/
namespace Sys2Proof.Machine

/-- The kinds of a boom's entries, in order. -/
def kindsOf (ds : List Demand) (b : Boom) : List DemandKind := (ds.filter fun d => d.owner == b.port).map Demand.kind

/-- The kinds that a boom's stage calls for (R107). -/
def Controller.wanted (c : Controller) : List DemandKind :=
  if c.state.isStage = true ∧ c.run ≠ some .suspended then [c.state.demandKind] else []

/-- The law, boom by boom. -/
theorem demandsSound_iff (s : State) : s.demandsSound ↔ ∀ b, kindsOf s.arbiter.demands b = (s.boom b).ctl.wanted := Iff.rfl

/-- A state with the same demands and the same wanted kinds keeps the law. -/
theorem demandsSound_congr {s t : State} (h1 : t.arbiter.demands = s.arbiter.demands)
    (h2 : ∀ b, (t.boom b).ctl.wanted = (s.boom b).ctl.wanted) (hs : s.demandsSound) : t.demandsSound := by
  intro b; rw [h1]; exact (hs b).trans (h2 b).symm

/-! ## An allocation -/

theorem allocPass_owners (sel : Demand → Bool) (give : Nat → Demand → Nat) :
    ∀ (ds : List Demand) (cap : Nat),
      (allocPass sel give cap ds).1.map (fun d => (d.owner, d.kind)) = ds.map (fun d => (d.owner, d.kind))
  | [], _ => rfl
  | d :: ds, cap => by
    unfold allocPass
    split <;> simp [allocPass_owners sel give ds]

/-- An allocation keeps every entry in its place. -/
theorem allocate_owners (q : Nat) (ds : List Demand) :
    (allocate q ds).map (fun d => (d.owner, d.kind)) = ds.map (fun d => (d.owner, d.kind)) := by
  simp only [allocate, allocPass_owners]
  simp

theorem kindsOf_eq (ds : List Demand) (b : Boom) :
    kindsOf ds b = ((ds.map fun d => (d.owner, d.kind)).filter fun x => x.1 == b.port).map Prod.snd := by
  simp [kindsOf, List.filter_map, Function.comp_def]

@[simp] theorem kindsOf_allocate (q : Nat) (ds : List Demand) (b : Boom) : kindsOf (allocate q ds) b = kindsOf ds b := by
  rw [kindsOf_eq, allocate_owners, ← kindsOf_eq]

@[simp] theorem kindsOf_append (ds es : List Demand) (b : Boom) : kindsOf (ds ++ es) b = kindsOf ds b ++ kindsOf es b := by
  simp [kindsOf]

theorem port_injective {b c : Boom} : (b.port == c.port) = decide (b = c) := by cases b <;> cases c <;> rfl

theorem kindsOf_newDemand (z : Zone5) (b c : Boom) (k : DemandKind) :
    kindsOf [newDemand z b.port k] c = if b = c then [k] else [] := by
  simp only [kindsOf, newDemand, List.filter_cons, List.filter_nil, port_injective]
  split <;> simp_all

theorem kindsOf_machineDemand (z : Zone5) (b : Boom) (k : DemandKind) : kindsOf [newDemand z .machine k] b = [] := by
  cases b <;> rfl

/-- The entries of one boom taken out: none of its own, every other in its place. -/
theorem kindsOf_without (ds : List Demand) (b c : Boom) :
    kindsOf (ds.filter fun d => !(d.owner == b.port)) c = if c = b then [] else kindsOf ds c := by
  by_cases h : c = b
  · subst h
    rw [if_pos rfl]
    simp [kindsOf, List.filter_filter]
  · rw [if_neg h]
    simp only [kindsOf, List.filter_filter]
    congr 1
    refine List.filter_congr fun d _ => ?_
    cases b <;> cases c <;> cases d.owner <;> first | rfl | exact absurd rfl h

/-! ## Grants -/

@[simp] theorem wanted_applyGrant (s : State) (b : Boom) (d : Demand) (c : Boom) :
    ((s.applyGrant b d).boom c).ctl.wanted = (s.boom c).ctl.wanted := by
  by_cases hc : c = b
  · subst hc
    unfold State.applyGrant
    split
    · split
      · rename_i h _
        simp only [State.enterRunning, boom_modLink_same, boom_modCtl_same]
        (repeat' split) <;> simp [Controller.wanted, h]
      · rfl
    · split
      · rename_i h _
        simp only [State.enterRunning, boom_modLink_same, boom_modCtl_same]
        (repeat' split) <;> simp [Controller.wanted, h]
      · rfl
    · split
      · rename_i h _
        simp [Controller.wanted, h]
      · rfl
    · rfl
  · unfold State.applyGrant
    (repeat' split) <;> simp [boom_enterRunning_other _ hc, boom_modCtl_other _ hc]

@[simp] theorem wanted_handGrant (s : State) (b : Boom) (old new : List Demand) (c : Boom) :
    ((s.handGrant b old new).boom c).ctl.wanted = (s.boom c).ctl.wanted := by
  unfold State.handGrant
  (repeat' split) <;> simp

@[simp] theorem wanted_reallocate (s : State) (old : List Demand) (c : Boom) :
    ((s.reallocate old).boom c).ctl.wanted = (s.boom c).ctl.wanted := by
  unfold State.reallocate
  simp only []
  split <;> simp

@[simp] theorem demandsSound_reallocate (s : State) (old : List Demand) : (s.reallocate old).demandsSound ↔ s.demandsSound := by
  simp [demandsSound_iff]

theorem kindsOf_depart (s : State) (sel : Demand → Bool) (b : Boom) :
    kindsOf (s.depart sel).arbiter.demands b = kindsOf (s.arbiter.demands.filter fun d => !sel d) b := by
  unfold State.depart
  simp only []
  split
  · simp
  · rename_i h
    rw [List.filter_eq_self.2]
    intro d hd
    simp only [Bool.not_eq_true, List.any_eq_false] at h
    simpa using h d hd

@[simp] theorem wanted_depart (s : State) (sel : Demand → Bool) (c : Boom) :
    ((s.depart sel).boom c).ctl.wanted = (s.boom c).ctl.wanted := by
  unfold State.depart
  simp only []
  split <;> simp

theorem kindsOf_withdraw (s : State) (b c : Boom) :
    kindsOf (s.withdraw b).arbiter.demands c = if c = b then [] else kindsOf s.arbiter.demands c := by
  rw [State.withdraw, kindsOf_depart]; exact kindsOf_without _ _ _

@[simp] theorem wanted_withdraw (s : State) (b c : Boom) : ((s.withdraw b).boom c).ctl.wanted = (s.boom c).ctl.wanted :=
  wanted_depart _ _ _

/-- A machine demand that leaves moves no boom's entry. -/
theorem demandsSound_departMachine {s : State} (hs : s.demandsSound) (sel : Demand → Bool)
    (h : ∀ d, sel d = true → d.owner = .machine) : (s.depart sel).demandsSound := by
  rw [demandsSound_iff] at *
  intro b
  rw [kindsOf_depart, wanted_depart, ← hs b, kindsOf, kindsOf, List.filter_filter]
  congr 1
  refine List.filter_congr fun d _ => ?_
  by_cases hd : sel d = true
  · have ho := h d hd
    cases b <;> simp [ho, Boom.port]
  · simp [hd]

theorem demandsSound_arriveMachine {s : State} (hs : s.demandsSound) (k : DemandKind) : (s.arrive .machine k).demandsSound := by
  rw [demandsSound_iff] at *
  intro b
  simpa [State.arrive, kindsOf_machineDemand] using hs b

/-- A boom's demand arrives as its stage begins (R79 to R82, R100). -/
theorem demandsSound_arriveBoom {s t : State} (hs : s.demandsSound) (b : Boom)
    (hn : (s.boom b).ctl.wanted = []) (ha : t.arbiter.demands = s.arbiter.demands)
    (hw : (t.boom b).ctl.wanted = [(t.boom b).ctl.state.demandKind]) (ho : ∀ c, c ≠ b → (t.boom c).ctl.wanted = (s.boom c).ctl.wanted) :
    (t.arrive b.port (t.boom b).ctl.state.demandKind).demandsSound := by
  rw [demandsSound_iff] at *
  intro c
  simp only [State.arrive, arbiter_reallocate, kindsOf_allocate, kindsOf_append, wanted_reallocate, boom_arbiter,
    kindsOf_newDemand, ha, hs c]
  by_cases h : b = c
  · subst h; simp [hn, hw]
  · simp [h, ho c (Ne.symm h)]

/-! ## The end of a stage -/

theorem wanted_toIdle (c : Controller) : c.toIdle.wanted = [] := by simp [Controller.wanted, Controller.toIdle, BoomState.isStage]

theorem wanted_enterWait (c : Controller) (z : Zone5) {st : BoomState} (h : st.isStage = false) : (c.enterWait z st).wanted = [] := by
  simp [Controller.wanted, Controller.enterWait, h]

theorem destination_notStage {st : BoomState} {contact : Bool} {e : StageEnd} {w : BoomState} (hsp : ¬(st = .spinning ∧ e = .success))
    (h : destination st contact e = .wait w) : w.isStage = false := by
  cases st <;> cases e <;> simp [destination, earlyDestination, lateDestination, torqueDestination] at h hsp <;>
    first
    | (subst h; rfl)
    | (subst h; cases contact <;> rfl)
    | (split at h <;> simp at h)

theorem wanted_afterStage (s : State) (b : Boom) {st : BoomState} {e : StageEnd} (hsp : ¬(st = .spinning ∧ e = .success)) :
    ((s.afterStage b st e).boom b).ctl.wanted = [] := by
  unfold State.afterStage
  split
  · rename_i w h
    simp [wanted_enterWait _ _ (destination_notStage hsp h)]
  · simp only []
    rw [(boom_closeHole_same _ _ _ _ _).1]
    exact wanted_toIdle _

/-- The end of a stage leaves its boom without a demand, and calls for none (R83, R107). -/
theorem demandsSound_endStage {s : State} (hs : s.demandsSound) (b : Boom) (e : StageEnd) (x : Option Nat)
    (st : BoomState × Option RunCondition) (hsp : ¬((s.boom b).ctl.state = .spinning ∧ e = .success)) :
    (s.endStage b e x st).demandsSound := by
  rw [demandsSound_iff] at *
  intro c
  have key : ∀ s0 : State, s0.arbiter = s.arbiter → (∀ c, (s0.boom c).ctl.wanted = (s.boom c).ctl.wanted) →
      ∀ s2 : State, s2.arbiter = (s0.withdraw b).arbiter → (∀ c, c ≠ b → (s2.boom c).ctl.wanted = ((s0.withdraw b).boom c).ctl.wanted) →
      kindsOf (((s2.settleStage b (s.boom b).ctl.state e).afterStage b (s.boom b).ctl.state e).arbiter.demands) c =
        (((s2.settleStage b (s.boom b).ctl.state e).afterStage b (s.boom b).ctl.state e).boom c).ctl.wanted := by
    intro s0 h1 h2 s2 h3 h4
    rw [arbiter_afterStage, arbiter_settleStage, h3, kindsOf_withdraw, h1]
    by_cases h : c = b
    · subst h; rw [if_pos rfl, wanted_afterStage _ _ hsp]
    · rw [if_neg h, boom_afterStage_other _ h, boom_settleStage_other _ h, h4 c h, wanted_withdraw, h2, hs c]
  have hm : ∀ f c, ((s.markFault b f).boom c).ctl.wanted = (s.boom c).ctl.wanted := by
    intro f c
    by_cases h : c = b
    · subst h; simp [Controller.wanted]
    · rw [boom_markFault_other _ h]
  unfold State.endStage
  cases hcode : e.code with
  | none =>
    simp only []
    (repeat' split) <;> simp only [arbiter_logBoomFault, arbiter_raise, boom_logBoomFault, boom_raise]
    all_goals exact key s rfl (fun _ => rfl) _ (by simp) (fun c h => by simp [boom_modLink_other _ h])
  | some f =>
    simp only []
    (repeat' split) <;> simp only [arbiter_logBoomFault, arbiter_raise, boom_logBoomFault, boom_raise]
    all_goals
      exact key (s.markFault b f) (arbiter_markFault _ _ _) (hm f) _ (by simp) (fun c h => by simp [boom_modLink_other _ h])

theorem wanted_closeHole (s : State) (b : Boom) (how : CloseKind) (st : BoomState) (f : Option FaultCode) :
    ((s.closeHole b how st f).boom b).ctl.wanted = [] := by
  rw [(boom_closeHole_same _ _ _ _ _).1]; exact wanted_toIdle _

/-- A close of a hole whose boom stands in no stage. -/
theorem demandsSound_closeHole {s : State} (hs : s.demandsSound) (b : Boom) (how : CloseKind) (st : BoomState) (f : Option FaultCode)
    (hn : (s.boom b).ctl.state.isStage = false) : (s.closeHole b how st f).demandsSound := by
  rw [demandsSound_iff] at *
  intro c
  rw [arbiter_closeHole, hs c]
  by_cases h : c = b
  · subst h; rw [wanted_closeHole]; simp [Controller.wanted, hn]
  · rw [boom_closeHole_other _ h]

/-- SPINNING's success leaves its boom with the HOLD entry alone (R87, R107). -/
theorem demandsSound_spinToHold {s : State} (hs : s.demandsSound) (b : Boom) : (s.spinToHold b).demandsSound := by
  rw [demandsSound_iff] at *
  intro c
  simp only [State.spinToHold, arbiter_raise, arbiter_reallocate, kindsOf_allocate, kindsOf_append, boom_raise, wanted_reallocate,
    boom_arbiter, kindsOf_newDemand, arbiter_modCtl, kindsOf_without]
  by_cases h : c = b
  · subst h; simp [Controller.wanted, Controller.enterStage, BoomState.isStage, BoomState.demandKind]
  · rw [if_neg h, if_neg (Ne.symm h), boom_modCtl_other _ h, hs c, List.append_nil]

@[simp] theorem wanted_modHole (s : State) (b : Boom) (f : HoleRecord → HoleRecord) (c : Boom) :
    ((s.modHole b f).boom c).ctl.wanted = (s.boom c).ctl.wanted := by
  by_cases h : c = b
  · subst h; simp [Controller.wanted]
  · rw [boom_modHole_other _ h]

@[simp] theorem wanted_markFault (s : State) (b : Boom) (f : FaultCode) (c : Boom) :
    ((s.markFault b f).boom c).ctl.wanted = (s.boom c).ctl.wanted := wanted_modHole _ _ _ _

/-- A fault in a wait state (R92, R93). -/
theorem demandsSound_faultInWait {s : State} (hs : s.demandsSound) (b : Boom) (f : FaultCode) (how : CloseKind)
    (hn : (s.boom b).ctl.state.isStage = false) : (s.faultInWait b f how).demandsSound := by
  have key : ∀ u : State, u.arbiter = s.arbiter → (∀ c, (u.boom c).ctl.wanted = (s.boom c).ctl.wanted) →
      (u.boom b).ctl.state = (s.boom b).ctl.state → ∀ k,
      (((u.closeHole b how k (some f)).raise b .stageFault).logBoomFault b f none (s.stance b)).demandsSound := by
    intro u h1 h2 h3 k
    have h4 : (u.closeHole b how k (some f)).demandsSound :=
      demandsSound_closeHole (demandsSound_congr (by rw [h1]) h2 hs) _ _ _ _ (by rw [h3]; exact hn)
    exact demandsSound_congr (by simp) (by simp) h4
  unfold State.faultInWait
  simp only []
  split
  · exact key _ (by simp) (by simp) (by simp) _
  · exact key _ (by simp) (by simp) (by simp) _

/-- A link or head fault (R12, R14). -/
theorem demandsSound_linkFault {s : State} (hs : s.demandsSound) (b : Boom) (f : FaultCode) (x : Option Nat) :
    (s.linkFault b f x).demandsSound := by
  unfold State.linkFault
  simp only []
  split
  · exact demandsSound_endStage hs _ _ _ _ (fun h => nomatch h.2)
  · exact demandsSound_congr (by simp) (by simp) hs

theorem demandsSound_supplyEnd {s : State} (hs : s.demandsSound) (b : Boom) (st : BoomState × Option RunCondition) :
    (s.supplyEnd b st).demandsSound := by
  unfold State.supplyEnd
  split
  · exact demandsSound_endStage hs _ _ _ _ (fun h => nomatch h.2)
  · exact hs

/-! ## A change of the interlock set -/

theorem kindsOf_kept (s : State) (b : Boom) :
    kindsOf (s.arbiter.demands.filter fun d => !s.suspendedOwner d) b =
      if (s.boom b).ctl.run = some .suspended then [] else kindsOf s.arbiter.demands b := by
  have hb : ∀ d : Demand, (d.owner == b.port) = true → s.suspendedOwner d = ((s.boom b).ctl.run == some .suspended) := by
    intro d hd
    have hd := eq_of_beq hd
    cases b <;> simp [State.suspendedOwner, hd, Boom.port, State.boom]
  simp only [kindsOf, List.filter_filter]
  split
  · rename_i h
    rw [List.filter_eq_nil_iff.2, List.map_nil]
    intro d _
    by_cases hd : (d.owner == b.port) = true
    · simp [hb d hd, h]
    · simp [hd]
  · rename_i h
    congr 1
    refine List.filter_congr fun d _ => ?_
    by_cases hd : (d.owner == b.port) = true
    · simp [hb d hd, h]
    · simp [hd]

/-- The arbiter on a changed set: a boom that has been suspended loses its entry (R97, R107). -/
theorem demandsSound_refreshFlow {s : State}
    (hs : ∀ b, (s.boom b).ctl.run = some .suspended ∨ kindsOf s.arbiter.demands b = (s.boom b).ctl.wanted) :
    s.refreshFlow.demandsSound := by
  have hk : ∀ b, kindsOf (s.arbiter.demands.filter fun d => !s.suspendedOwner d) b = (s.boom b).ctl.wanted := by
    intro b
    rw [kindsOf_kept]
    split
    · rename_i h; simp [Controller.wanted, h]
    · rename_i h; exact (hs b).resolve_left h
  rw [demandsSound_iff]
  intro b
  unfold State.refreshFlow
  simp only []
  split
  · rename_i h; rw [← hk b, h.1]
  · simpa using hk b

theorem suspendStage_run (s : State) (b c : Boom) (i : Interlocks) :
    ((s.suspendStage b i).boom c).ctl.run = some .suspended ∨ ((s.suspendStage b i).boom c).ctl = (s.boom c).ctl := by
  by_cases h : c = b
  · subst h
    unfold State.suspendStage
    simp only []
    split
    · exact .inr rfl
    · left; split <;> simp
  · right; rw [boom_suspendStage_other _ h]

/-- A changed set handed on (R149). -/
theorem demandsSound_announce {s : State} (hs : s.demandsSound) (old : Interlocks) : (s.announce old).demandsSound := by
  have h1 : (((s.suspendStage .left (s.interlocks.minus old)).suspendStage .right
      (s.interlocks.minus old)).refreshFlow).demandsSound := by
    refine demandsSound_refreshFlow fun b => ?_
    rw [arbiter_suspendStage, arbiter_suspendStage, (demandsSound_iff s).1 hs b]
    rcases suspendStage_run (s.suspendStage .left (s.interlocks.minus old)) .right b (s.interlocks.minus old) with h | h
    · exact .inl h
    · rw [h]
      rcases suspendStage_run s .left b (s.interlocks.minus old) with h | h
      · exact .inl h
      · rw [h]; exact .inr rfl
  unfold State.announce
  simp only []
  split
  · exact hs
  · refine demandsSound_congr (s := if (s.interlocks.minus old).supplyLow then
      ((((s.suspendStage .left (s.interlocks.minus old)).suspendStage .right (s.interlocks.minus old)).refreshFlow.supplyEnd
        .left (s.stance .left)).supplyEnd .right (s.stance .right)) else
      ((s.suspendStage .left (s.interlocks.minus old)).suspendStage .right (s.interlocks.minus old)).refreshFlow)
      (by simp) (fun b => by simp) ?_
    split
    · exact demandsSound_supplyEnd (demandsSound_supplyEnd h1 _ _) _ _
    · exact h1

end Sys2Proof.Machine
end

