-- ==== Sys2Proof/Laws/Ends.lean ====
section
/-! SUPPORT. What the end of a stage does to its own boom (R83 to R90, R95, R102). -/
namespace Sys2Proof.Machine

variable (s : State) (b : Boom)

/-! ## Slices leave the depths alone -/

/-- A tracker but for what the settling of its slice moves. -/
def DepthTracker.core (t : DepthTracker) : DepthTracker := { t with slice := none, handedBottom := none, stallCount := 0 }

theorem core_handSlice (c : ClosedSlice) : ((s.handSlice b c).boom b).tracker.core = (s.boom b).tracker.core := by
  unfold State.handSlice
  simp only []
  split <;> split <;> simp [DepthTracker.core]

theorem core_settleSlice : ((s.settleSlice b).boom b).tracker.core = (s.boom b).tracker.core := by
  unfold State.settleSlice
  simp only []
  split
  · rename_i o _
    split
    · rw [← core_handSlice s b (o.close (s.boom b).tracker.maxDepth)]; simp [DepthTracker.core]
    · simp [DepthTracker.core]
  · simp [DepthTracker.core]

theorem core_settleStage (st : BoomState) (e : StageEnd) :
    ((s.settleStage b st e).boom b).tracker.core = (s.boom b).tracker.core := by
  unfold State.settleStage
  (repeat' split)
  · rfl
  · exact core_settleSlice s b
  · rw [State.evaluatePlan, boom_modBoom_same]; exact core_settleSlice s b
  · rfl

/-- A stage that cuts no ground has nothing to settle (R83, step 3). -/
theorem settleStage_id {st : BoomState} (h : st.cutsGround = false) (e : StageEnd) : s.settleStage b st e = s := by
  unfold State.settleStage
  (repeat' split) <;> simp_all [BoomState.cutsGround]

/-- The settling of a stage leaves the link and the controller, its hole record apart. -/
theorem settleStage_same (st : BoomState) (e : StageEnd) :
    ((s.settleStage b st e).boom b).link = (s.boom b).link ∧
      { ((s.settleStage b st e).boom b).ctl with hole := none } = { (s.boom b).ctl with hole := none } := by
  have h := boom_settleSlice_same s b
  unfold State.settleStage
  (repeat' split)
  · exact ⟨rfl, rfl⟩
  · exact ⟨h.1, h.2.2⟩
  · rw [State.evaluatePlan, boom_modBoom_same]; exact ⟨h.1, h.2.2⟩
  · exact ⟨rfl, rfl⟩

/-! ## A withdrawal leaves its own boom alone -/

theorem boomDemand_none {ds : List Demand} {b : Boom} (h : kindsOf ds b = []) : boomDemand ds b = none := by
  simp only [kindsOf, List.map_eq_nil_iff, List.filter_eq_nil_iff] at h
  exact List.find?_eq_none.2 h

theorem handGrant_without {s : State} {b : Boom} {old new : List Demand} (h : kindsOf new b = []) (c : Boom) :
    (s.handGrant b old new).boom c = s.boom c := by
  unfold State.handGrant
  split
  · rw [boomDemand_none h]; simp
  · rfl

theorem boom_handGrant_other {s : State} {b c : Boom} (h : c ≠ b) (old new : List Demand) :
    (s.handGrant b old new).boom c = s.boom c := by
  unfold State.handGrant
  split
  · split
    · unfold State.applyGrant
      (repeat' split) <;> simp [boom_enterRunning_other _ h, boom_modCtl_other _ h]
    · simp
  · rfl

/-- An allocation over a list without a boom's entry leaves that boom alone. -/
theorem boom_reallocate_without {s : State} {b : Boom} (h : kindsOf s.arbiter.demands b = []) (old : List Demand) :
    (s.reallocate old).boom b = s.boom b := by
  have hk : kindsOf (allocate s.arbiter.qAvail s.arbiter.demands) b = [] := by rw [kindsOf_allocate]; exact h
  unfold State.reallocate
  simp only []
  cases b
  · split
    · rw [boom_raiseMachine, boom_handGrant_other (by decide), handGrant_without hk, boom_arbiter]
    · rw [boom_handGrant_other (by decide), handGrant_without hk, boom_arbiter]
  · split
    · rw [boom_raiseMachine, handGrant_without hk, boom_handGrant_other (by decide), boom_arbiter]
    · rw [handGrant_without hk, boom_handGrant_other (by decide), boom_arbiter]

/-- A boom whose entry leaves is handed no grant to act on (R107, R114). -/
@[simp] theorem boom_withdraw_same : (s.withdraw b).boom b = s.boom b := by
  unfold State.withdraw State.depart
  simp only []
  split
  · rw [boom_reallocate_without, boom_arbiter]
    simpa using kindsOf_without s.arbiter.demands b b
  · rfl

/-! ## The end of a stage at its own boom -/

/-- The tracker keeps its depths, its contact, its reference and its runs but the stall run (R30, R83). -/
theorem core_afterStage (st : BoomState) (e : StageEnd) :
    ((s.afterStage b st e).boom b).tracker = (s.boom b).tracker ∧ ((s.afterStage b st e).boom b).link = (s.boom b).link ∧
      ((s.afterStage b st e).boom b).anchorage = (s.boom b).anchorage ∧
      ((s.afterStage b st e).boom b).classifier = (s.boom b).classifier := by
  unfold State.afterStage
  split
  · simp
  · simp only []
    have h := fun (s : State) (k : CloseKind) (f : Option FaultCode) => (boom_closeHole_same s b k st f).2
    (repeat' split) <;> simp [h]

theorem core_endStage (e : StageEnd) (x : Option Nat) (st : BoomState × Option RunCondition) :
    ((s.endStage b e x st).boom b).tracker.core = (s.boom b).tracker.core := by
  unfold State.endStage
  simp only []
  (repeat' split) <;> simp [(core_afterStage _ b _ _).1, core_settleStage]

/-- Every end but a success sets the stop latch (R9); the rest of the link stays. -/
theorem link_endStage (e : StageEnd) (x : Option Nat) (st : BoomState × Option RunCondition) :
    ((s.endStage b e x st).boom b).link =
      if e = .success then (s.boom b).link else { (s.boom b).link with stopLatch := true } := by
  unfold State.endStage
  simp only []
  (repeat' split) <;> simp_all [(core_afterStage _ b _ _).2.1, (settleStage_same _ b _ _).1, StageEnd.code]

/-- A backdrop holds the recent-request list of each port. -/
theorem recent_of_backdrop {s u : State} (h : u.backdrop = s.backdrop) (p : Port) : (u.port p).recent = (s.port p).recent := by
  cases p
  · exact congrArg (fun x : Backdrop => x.portLeft.recent) h
  · exact congrArg (fun x : Backdrop => x.portRight.recent) h
  · exact congrArg (fun x : Backdrop => x.portMachine.recent) h

/-- The record of a boom fault written in a state of the same backdrop and log (R96, R165). -/
theorem faultLog_logBoomFault {s u : State} {b : Boom} {f : FaultCode} (h : u.backdrop = s.backdrop) (hl : u.faultLog = s.faultLog)
    (x : Option Nat) :
    (u.logBoomFault b f x (s.stance b)).faultLog = s.faultLog.record (s.faultRecord (u.logBoomFault b f x (s.stance b)) b f x) := by
  have hr : (u.port b.port).recent = (s.port b.port).recent := recent_of_backdrop h b.port
  have ht : u.millis = s.millis := congrArg Backdrop.millis h
  rw [← hl]
  cases b <;> simp only [State.logBoomFault, State.boomFaultRecord, State.faultRecord, hr, ht] <;> rfl

/-- A boom fault writes one record (R96, R166); another end writes none. -/
theorem faultLog_endStage (e : StageEnd) (x : Option Nat) (st : BoomState × Option RunCondition) :
    (∀ f, e = .fault f → st = s.stance b →
      (s.endStage b e x st).faultLog = s.faultLog.record (s.faultRecord (s.endStage b e x st) b f x)) ∧
    ((∀ f, e ≠ .fault f) → (s.endStage b e x st).faultLog = s.faultLog) := by
  refine ⟨?_, ?_⟩
  · rintro f rfl rfl
    unfold State.endStage
    simp only [StageEnd.code, reduceCtorEq, if_false]
    exact faultLog_logBoomFault (by simp) (by simp) x
  · intro h
    cases e <;> first | exact absurd rfl (h _) | skip
    all_goals simp [State.endStage, StageEnd.code]

theorem contactSeen_core {t u : DepthTracker} (h : t.core = u.core) : t.contactSeen = u.contactSeen := by
  have h := congrArg DepthTracker.contactSeen h
  exact h

/-- An end that leads to a wait state: the boom stands there with the stage's marks and timers cleared, the row and the hole log
stay, and a fault is marked on the hole (R83 to R87). -/
theorem endStage_wait {e : StageEnd} {w : BoomState}
    (h : destination (s.boom b).ctl.state (s.boom b).tracker.contactSeen e = .wait w) (x : Option Nat)
    (st : BoomState × Option RunCondition) :
    { ((s.endStage b e x st).boom b).ctl with hole := none } = { (s.boom b).ctl.enterWait s.params.plan w with hole := none } ∧
      (s.endStage b e x st).rowMap = s.rowMap ∧ (s.endStage b e x st).holeLog = s.holeLog := by
  have hp : ∀ t : State, t.backdrop = s.backdrop → t.params = s.params := fun t h => congrArg Backdrop.params h
  have key : ∀ s2 : State, s2.backdrop = s.backdrop → s2.rowMap = s.rowMap → s2.holeLog = s.holeLog →
      (s2.boom b).tracker = (s.boom b).tracker → { (s2.boom b).ctl with hole := none } = { (s.boom b).ctl with hole := none } →
      { ((((s2.settleStage b (s.boom b).ctl.state e).afterStage b (s.boom b).ctl.state e)).boom b).ctl with hole := none } =
          { (s.boom b).ctl.enterWait s.params.plan w with hole := none } ∧
        ((s2.settleStage b (s.boom b).ctl.state e).afterStage b (s.boom b).ctl.state e).rowMap = s.rowMap ∧
        ((s2.settleStage b (s.boom b).ctl.state e).afterStage b (s.boom b).ctl.state e).holeLog = s.holeLog := by
    intro s2 h1 h2 h3 h4 h5
    have hc := contactSeen_core ((core_settleStage s2 b (s.boom b).ctl.state e).trans (congrArg DepthTracker.core h4))
    have h6 := ((settleStage_same s2 b (s.boom b).ctl.state e).2).trans h5
    have hpar : (s2.settleStage b (s.boom b).ctl.state e).params = s.params := hp _ (by simpa using h1)
    unfold State.afterStage
    rw [hc, h]
    refine ⟨?_, by simpa using h2, by simpa using h3⟩
    simp only [boom_modCtl_same, Controller.enterWait, hpar]
    simp only [Controller.mk.injEq] at h6 ⊢
    simp [h6]
  unfold State.endStage
  simp only []
  (repeat' split) <;> simp only [boom_logBoomFault, boom_raise, rowMap_logBoomFault, rowMap_raise, holeLog_logBoomFault, holeLog_raise]
  all_goals exact key _ (by simp) (by simp) (by simp) (by simp) (by simp)

/-- An end that leads to the close of the hole: the boom is IDLE with no hole record (R102). -/
theorem endStage_close {e : StageEnd} {how : CloseKind}
    (h : destination (s.boom b).ctl.state (s.boom b).tracker.contactSeen e = .closes how) (x : Option Nat)
    (st : BoomState × Option RunCondition) :
    ((s.endStage b e x st).boom b).ctl.state = .idle ∧ ((s.endStage b e x st).boom b).ctl.run = none ∧
      ((s.endStage b e x st).boom b).ctl.hole = none := by
  have key : ∀ s2 : State, (s2.boom b).tracker = (s.boom b).tracker →
      (((s2.settleStage b (s.boom b).ctl.state e).afterStage b (s.boom b).ctl.state e).boom b).ctl.state = .idle ∧
      (((s2.settleStage b (s.boom b).ctl.state e).afterStage b (s.boom b).ctl.state e).boom b).ctl.run = none ∧
      (((s2.settleStage b (s.boom b).ctl.state e).afterStage b (s.boom b).ctl.state e).boom b).ctl.hole = none := by
    intro s2 h4
    have hc := contactSeen_core ((core_settleStage s2 b (s.boom b).ctl.state e).trans (congrArg DepthTracker.core h4))
    unfold State.afterStage
    rw [hc, h]
    simp only []
    rw [(boom_closeHole_same _ _ _ _ _).1]
    exact ⟨rfl, rfl, rfl⟩
  unfold State.endStage
  simp only []
  (repeat' split) <;> simp only [boom_logBoomFault, boom_raise]
  all_goals exact key _ (by simp)

theorem calib_of_backdrop {s t : State} (h : t.backdrop = s.backdrop) (c : Boom) : t.calib c = s.calib c := by
  have hp : t.params = s.params := congrArg Backdrop.params h
  cases c <;> simp [State.calib, hp]

/-- A drilling end evaluates the anchorage on the layers as they then stand and on maximum depth (R60, R83). -/
theorem anchorage_endStage {e : StageEnd} (h : (s.boom b).ctl.state = .drilling) (he : e ≠ .resetAbort) (x : Option Nat)
    (st : BoomState × Option RunCondition) :
    ∃ layers, ((s.endStage b e x st).boom b).anchorage =
      some (evaluate s.params.plan (s.calib b).kt layers (s.boom b).tracker.maxDepth
        (((s.boom b).anchorage.map Anchorage.evaluations).getD 0) e.reason) := by
  have key : ∀ s2 : State, s2.backdrop = s.backdrop → (s2.boom b).tracker = (s.boom b).tracker →
      (s2.boom b).anchorage = (s.boom b).anchorage →
      ∃ layers, ((((s2.settleStage b .drilling e).afterStage b .drilling e)).boom b).anchorage =
        some (evaluate s.params.plan (s.calib b).kt layers (s.boom b).tracker.maxDepth
          (((s.boom b).anchorage.map Anchorage.evaluations).getD 0) e.reason) := by
    intro s2 h1 h2 h3
    have hb : (s2.settleSlice b).backdrop = s.backdrop := by simpa using h1
    have hp : (s2.settleSlice b).params = s.params := congrArg Backdrop.params hb
    have hm : ((s2.settleSlice b).boom b).tracker.maxDepth = (s.boom b).tracker.maxDepth := by
      have := congrArg DepthTracker.maxDepth (core_settleSlice s2 b)
      rw [h2] at this
      exact this
    refine ⟨((s2.settleSlice b).boom b).classifier.layers, ?_⟩
    rw [(core_afterStage _ b _ _).2.2.1]
    unfold State.settleStage
    rw [if_neg he, if_neg (by decide), if_pos rfl]
    simp only [State.evaluatePlan, boom_modBoom_same]
    rw [hp, calib_of_backdrop hb, hm, (boom_settleSlice_same s2 b).2.1, h3]
  unfold State.endStage
  simp only [h]
  (repeat' split) <;> simp only [boom_logBoomFault, boom_raise]
  all_goals exact key _ (by simp) (by simp) (by simp)

/-! ## The close of a hole, as a statement says it -/

theorem appendCapped_getLast {α : Type} (cap : Nat) (xs : List α) (x : α) : (appendCapped cap xs x).getLast? = some x := by
  simp [appendCapped]

theorem gradeOf_congr (how : CloseKind) (st : BoomState) {h k : HoleRecord} (h1 : h.resinShort = k.resinShort)
    (h2 : h.torque = k.torque) (a : Option Anchorage) : gradeOf how st h a = gradeOf how st k a := by
  cases how <;> simp [gradeOf, finishedGrade, h1, h2]

/-- Every slot but the one claimed stays in the row (R125, R126). -/
theorem otherSlotsKept_closeHole (how : CloseKind) (st : BoomState) (f : Option FaultCode) :
    s.otherSlotsKept (s.closeHole b how st f) b := by
  intro sl hsl hne
  have key : ∀ g, sl ∈ (s.rowMap.release b g).slots := by
    intro g
    simp only [RowMap.slots, RowMap.release, RowMap.mapSlots, List.mem_append, List.mem_map] at hsl ⊢
    rcases hsl with h | h
    · exact .inl ⟨sl, h, by rw [if_neg hne]⟩
    · exact .inr ⟨sl, h, by rw [if_neg hne]⟩
  have hsub : ∀ (m : RowMap) p n, sl ∈ m.slots → sl ∈ (m.owe p n).slots := by
    intro m p n h
    unfold RowMap.owe
    split
    · simp only [RowMap.slots, List.mem_append] at h ⊢
      rcases h with h | h
      · exact .inl h
      · exact .inr (.inl h)
    · exact h
  unfold State.closeHole
  split
  · simpa using hsl
  · simp only [rowMap_modCtl, rowMap_modWear]
    unfold State.closeSlot
    split
    · exact hsl
    · simp only []
      split
      · simpa using hsub _ _ _ (key _)
      · simpa using key _

theorem appendCapped_eq {α : Type} (cap : Nat) (xs : List α) (x : α) :
    appendCapped cap xs x = xs.drop (xs.length + 1 - cap) ++ [x] := by
  unfold appendCapped
  split
  · rename_i h
    rw [show xs.length + 1 - cap = 0 by omega, List.drop_zero]
  · rfl

/-- The row after a close, in the words of the statements (R125, R126, R129). -/
theorem closeSlot_claimed {sl : Slot} (h : s.rowMap.claimOf b = some sl) (g : Grade) :
    (s.closeSlot b g).rowMap = s.rowClosed b sl g ∧
      (g = .c ∨ g = .f → (s.closeSlot b g).portMachine.causes.c2 = true) ∧
      ((∀ x ∈ (s.closeSlot b g).rowMap.slots, x.state = .waived ∨ ∃ y, x.state = .bolted y) →
        (s.closeSlot b g).rowMap.overflow = false → (s.closeSlot b g).portMachine.causes.c3 = true) := by
  have hm : (if g.owesSupport then (s.rowMap.release b g).owe sl s.params.plan.longBolt else s.rowMap.release b g) =
      s.rowClosed b sl g := by
    cases g <;> simp [Grade.owesSupport, State.rowClosed, RowMap.release, RowMap.mapSlots, RowMap.owe, gradedState]
  have hr : (s.closeSlot b g).rowMap = s.rowClosed b sl g := by
    rw [← hm]
    unfold State.closeSlot
    rw [h]
    simp only []
    split <;> simp
  have hp : ∀ u : State, (∀ x ∈ u.rowMap.slots, x.state = .waived ∨ ∃ y, x.state = .bolted y) → u.rowMap.overflow = false →
      u.raiseReady.portMachine.causes.c3 = true := by
    intro u h1 h2
    have : u.rowMap.ready = true := by
      simp only [RowMap.ready, h2, Bool.not_false, Bool.and_true, List.all_eq_true]
      intro x hx
      rcases h1 x hx with h | ⟨y, h⟩ <;> simp [h, SlotState.resolved]
    unfold State.raiseReady
    rw [if_pos this]
    rfl
  have hk : ∀ u : State, u.portMachine.causes.c2 = true → u.raiseReady.portMachine.causes.c2 = true := by
    intro u hu
    unfold State.raiseReady
    split
    · exact hu
    · exact hu
  refine ⟨hr, fun hg => ?_, fun h1 h2 => ?_⟩
  · have : g.owesSupport = true := by rcases hg with rfl | rfl <;> rfl
    unfold State.closeSlot
    rw [h]
    simp only [this, if_true]
    exact hk _ rfl
  · revert h1 h2
    unfold State.closeSlot
    rw [h]
    simp only []
    split
    · simp only [rowMap_raiseReady]; exact hp _
    · simp only [rowMap_raiseReady]; exact hp { s with rowMap := s.rowMap.release b g }

@[simp] theorem portMachine_raise (c : BoomCause) : (s.raise b c).portMachine = s.portMachine := by
  unfold State.raise; split <;> cases b <;> rfl

@[simp] theorem portMachine_logBoomFault (f : FaultCode) (x : Option Nat) (st : BoomState × Option RunCondition) :
    (s.logBoomFault b f x st).portMachine = s.portMachine := rfl

/-- WEAR leaves every other flag of the machine port as it was. -/
theorem causes_modWear (f : WearTable → WearTable) :
    (s.modWear b f).portMachine.causes.c2 = s.portMachine.causes.c2 ∧ (s.modWear b f).portMachine.causes.c3 = s.portMachine.causes.c3 := by
  unfold State.modWear
  simp only []
  split <;> cases b <;> (try simp only [State.raise]) <;> (try split) <;> exact ⟨rfl, rfl⟩

theorem HoleRecord.alike_refl (h : HoleRecord) : h.alike h := ⟨rfl, rfl, rfl, rfl, rfl, rfl, rfl, rfl, rfl, rfl⟩

theorem HoleRecord.alike_trans {r k h : HoleRecord} (a : r.alike k) (c : k.alike h) : r.alike h := by
  obtain ⟨a1, a2, a3, a4, a5, a6, a7, a8, a9, a10⟩ := a
  obtain ⟨c1, c2, c3, c4, c5, c6, c7, c8, c9, c10⟩ := c
  exact ⟨a1.trans c1, a2.trans c2, a3.trans c3, a4.trans c4, a5.trans c5, a6.trans c6, a7.trans c7, a8.trans c8, a9.trans c9,
    a10.trans c10⟩

/-- Without a stage that cuts ground there is no slice to settle. -/
theorem settledNow_uncut {s : State} {b : Boom} (h : (s.boom b).ctl.state.cutsGround = false) : s.settledNow b = [] := by
  unfold State.settledNow
  rw [if_neg]
  rintro (c | c) <;> simp [c, BoomState.cutsGround] at h

/-- What a close leaves where a hole is held and no slice is open (R102). -/
theorem closedWith_closeHole {h : HoleRecord} (hh : (s.boom b).ctl.hole = some h) (hcut : (s.boom b).ctl.state.cutsGround = false)
    (how : CloseKind) (st : BoomState) (f : Option FaultCode) (hf : f.isSome = true → h.fault = f) :
    s.closedWith (s.closeHole b how st f) b h (gradeOf how st h (s.boom b).anchorage) f h.torque := by
  have hl : s.liveRecord b = some { h with
      drilled := (s.boom b).tracker.maxDepth / 800
      revolutions := (s.boom b).ctl.mix / 30000
      layers := (s.boom b).classifier.layers.map Layer.view } := by
    simp [State.liveRecord, hh]
  obtain ⟨hctl, -, htr, hcl, han⟩ := boom_closeHole_same s b how st f
  have hfault : h.fault = f.or h.fault := by
    cases f with
    | none => rfl
    | some x => exact hf rfl
  have hnd : (s.boom b).ctl.state ≠ .drilling := fun hd => by simp [hd, BoomState.cutsGround] at hcut
  refine ⟨by rw [hctl]; rfl, by rw [hctl]; rfl, by rw [hctl]; rfl, ⟨_, holeLog_closeHole s b hl how st f, ?_, hfault, rfl,
    ⟨rfl, rfl, rfl, rfl, rfl, rfl, rfl, rfl, rfl, rfl⟩, rfl, by rw [han]; rfl, by rw [han]; rfl, by rw [han]; rfl, by rw [han]; rfl,
    by rw [hcl]; rfl, by rw [htr]; rfl, by rw [hctl]; rfl, fun _ => rfl, fun hp => by rw [hctl]; exact hp, fun hp _ => hp⟩,
    ⟨by rw [hcl, settledNow_uncut hcut]; rfl, by rw [htr], by rw [hctl]; rfl, by rw [if_neg hnd]; exact han⟩,
    ?_, ?_, otherSlotsKept_closeHole s b how st f⟩
  · simp only [completeRecord]
    exact congrArg some (gradeOf_congr how st (k := h) rfl rfl _)
  · unfold State.closeHole
    rw [hl]
    simp only [boom_modCtl_same, boom_modWear_same, boom_closeSlot, boom_holeLog, WearTable.addOutcome, WearTable.outcomeTaken,
      Attr.evaluate, slipsIn, mixFailsIn, normOutcomes]
    rw [appendCapped_eq, gradeOf_congr how st (k := h) rfl rfl]
    simp [show ∀ n, n + 1 - 16 = n - 15 by omega, gradeOf_congr how st (h := { h with
      drilled := (s.boom b).tracker.maxDepth / 800
      revolutions := (s.boom b).ctl.mix / 30000
      layers := (s.boom b).classifier.layers.map Layer.view }) (k := h) rfl rfl]
  · intro sl hsl
    unfold State.closeHole
    rw [hl]
    simp only [gradeOf_congr how st (h := { h with
      drilled := (s.boom b).tracker.maxDepth / 800
      revolutions := (s.boom b).ctl.mix / 30000
      layers := (s.boom b).classifier.layers.map Layer.view }) (k := h) rfl rfl]
    have hm : ∀ (u : State) (f : Controller → Controller), (u.modCtl b f).portMachine = u.portMachine := by
      intro u f; cases b <;> rfl
    have c := closeSlot_claimed { s with holeLog := s.holeLog.archive (completeRecord { h with
      drilled := (s.boom b).tracker.maxDepth / 800
      revolutions := (s.boom b).ctl.mix / 30000
      layers := (s.boom b).classifier.layers.map Layer.view } (s.boom b).anchorage
        (gradeOf how st h (s.boom b).anchorage) s.millis) } b hsl (gradeOf how st h (s.boom b).anchorage)
    have w := causes_modWear (State.closeSlot { s with holeLog := s.holeLog.archive (completeRecord { h with
      drilled := (s.boom b).tracker.maxDepth / 800
      revolutions := (s.boom b).ctl.mix / 30000
      layers := (s.boom b).classifier.layers.map Layer.view } (s.boom b).anchorage
        (gradeOf how st h (s.boom b).anchorage) s.millis) } b (gradeOf how st h (s.boom b).anchorage)) b
          (fun t => t.addOutcome { grade := gradeOf how st h (s.boom b).anchorage, fault := f })
    rw [rowMap_modCtl, rowMap_modWear, hm, w.1, w.2]
    exact c

/-- A close after updates that leave the row, the hole log, the clock and the long-bolt increment alone, and of the boom but move its
link, the fault and the torque result of its hole record, and before updates that leave them and SUPPORT_DEMAND and ROW_READY alone. -/
theorem closedWith_congr {s u t v : State} {b : Boom} {h k : HoleRecord} {g : Grade} {f : Option FaultCode} {q : Option TorqueResult}
    (h1 : u.rowMap = s.rowMap) (h2 : u.holeLog = s.holeLog) (h3 : u.millis = s.millis) (hp : u.params = s.params)
    (hb : ∃ l, u.boom b = { s.boom b with link := l, ctl := { (s.boom b).ctl with hole := some k } })
    (hcut : (s.boom b).ctl.state.cutsGround = false) (h4 : (v.boom b) = (t.boom b))
    (h5 : v.rowMap = t.rowMap) (h6 : v.holeLog = t.holeLog)
    (hf : v.portMachine.causes.c2 = t.portMachine.causes.c2 ∧ v.portMachine.causes.c3 = t.portMachine.causes.c3)
    (h7 : k.alike h ∧ k.peak = h.peak ∧ k.layerOverflow = h.layerOverflow ∧ f.or k.fault = f.or h.fault)
    (hc : u.closedWith t b k g f q) : s.closedWith v b h g f q := by
  obtain ⟨c1, c2, c3, ⟨r, d1, d2, d3, d4, e1, e2, e3, e4, e5, e6, e7, e8, e9, e10, e11, e12⟩, ⟨r1, r2, r3, r4⟩, c5, c6, c7⟩ := hc
  obtain ⟨l, hb⟩ := hb
  obtain ⟨k1, k2, k3, k4⟩ := h7
  rw [h2] at d1
  rw [h3] at e2
  have hu : (u.boom b).ctl.state.cutsGround = false := by rw [hb]; exact hcut
  rw [settledNow_uncut hu] at r1
  rw [hb] at c5 e10 e11 e12
  have hnd : (s.boom b).ctl.state ≠ .drilling := fun hd => by simp [hd, BoomState.cutsGround] at hcut
  have hnu : (u.boom b).ctl.state ≠ .drilling := by rw [hb]; exact hnd
  rw [if_neg hnu] at r4
  refine ⟨by rw [h4]; exact c1, by rw [h4]; exact c2, by rw [h4]; exact c3,
    ⟨r, by rw [h6]; exact d1, d2, by rw [d3, k4], d4, HoleRecord.alike_trans e1 k1, e2, by rw [h4]; exact e3, by rw [h4]; exact e4,
      by rw [h4]; exact e5, by rw [h4]; exact e6, by rw [h4]; exact e7, by rw [h4]; exact e8, by rw [h4]; exact e9,
      fun hx => (e10 hx).trans k3, fun hx => by rw [h4]; exact e11 (k2.trans hx), fun hx => e12 (k2.trans hx)⟩,
    ⟨by rw [h4, settledNow_uncut hcut, r1]; simp [State.handed, hb], by rw [h4, r2, hb], by rw [h4, r3, hb],
      by rw [if_neg hnd, h4, r4, hb]⟩,
    by rw [h4]; exact c5, ?_, ?_⟩
  · intro sl hsl
    rw [h1] at c6
    rw [h5, hf.1, hf.2]
    have := c6 sl hsl
    unfold State.rowClosed at this ⊢
    rw [h1, hp] at this
    exact this
  · intro sl hsl hne
    rw [h5]
    exact c7 sl (by rw [h1]; exact hsl) hne

/-- The torque result that the hole's record carries after an end of a stage. -/
def StageEnd.torqueAfter (st : BoomState) (e : StageEnd) (old : Option TorqueResult) : Option TorqueResult :=
  if st = .torquing then (torqueResultOf e).or old else old

/-- An end of a stage from RETRACTING on that closes the hole (R83, R102). -/
theorem closedWith_endStage {h : HoleRecord} (hh : (s.boom b).ctl.hole = some h) {e : StageEnd} {how : CloseKind}
    (hcut : (s.boom b).ctl.state.cutsGround = false)
    (hd : destination (s.boom b).ctl.state (s.boom b).tracker.contactSeen e = .closes how) (x : Option Nat)
    (st : BoomState × Option RunCondition) :
    s.closedWith (s.endStage b e x st) b h
      (gradeOf how (s.boom b).ctl.state { h with torque := e.torqueAfter (s.boom b).ctl.state h.torque } (s.boom b).anchorage) e.code
      (e.torqueAfter (s.boom b).ctl.state h.torque) := by
  have hself : s.boom b = { s.boom b with ctl := { (s.boom b).ctl with hole := some h } } := by rw [← hh]
  have key : ∀ (s2 : State) (k : HoleRecord), s2.backdrop = s.backdrop → s2.rowMap = s.rowMap → s2.holeLog = s.holeLog →
      (∃ l, s2.boom b = { s.boom b with link := l, ctl := { (s.boom b).ctl with hole := some k } }) →
      (∃ x, k = { h with fault := x }) → e.code.or k.fault = e.code.or h.fault → (e.code.isSome = true → k.fault = e.code) →
      s.closedWith ((s2.settleStage b (s.boom b).ctl.state e).afterStage b (s.boom b).ctl.state e) b h
        (gradeOf how (s.boom b).ctl.state { h with torque := e.torqueAfter (s.boom b).ctl.state h.torque } (s.boom b).anchorage) e.code
        (e.torqueAfter (s.boom b).ctl.state h.torque) := by
    rintro s2 k h1 h2 h3 ⟨l, hb⟩ ⟨y, rfl⟩ h9 h10
    rw [settleStage_id s2 b hcut]
    have h6 : (s2.boom b).ctl.hole = some { h with fault := y } := by rw [hb]
    have hcut2 : (s2.boom b).ctl.state.cutsGround = false := by rw [hb]; exact hcut
    have ha : (s2.boom b).anchorage = (s.boom b).anchorage := by rw [hb]
    have hm : s2.millis = s.millis := congrArg Backdrop.millis h1
    have hp : s2.params = s.params := congrArg Backdrop.params h1
    unfold State.afterStage
    rw [show (s2.boom b).tracker = (s.boom b).tracker by rw [hb], hd]
    simp only [StageEnd.torqueAfter]
    split
    · cases hr : torqueResultOf e with
      | none =>
        have hc := closedWith_closeHole s2 b h6 hcut2 how (s.boom b).ctl.state e.code h10
        rw [ha, gradeOf_congr how _ (h := { h with fault := y }) (k := { h with torque := h.torque }) rfl rfl] at hc
        exact closedWith_congr (k := { h with fault := y }) h2 h3 hm hp ⟨l, hb⟩ hcut rfl rfl rfl ⟨rfl, rfl⟩
          ⟨⟨rfl, rfl, rfl, rfl, rfl, rfl, rfl, rfl, rfl, rfl⟩, rfl, rfl, h9⟩ (by simpa using hc)
      | some r =>
        have h6' : ((s2.modHole b fun x => { x with torque := some r }).boom b).ctl.hole = some { h with fault := y, torque := some r } := by
          simp [h6]
        have hc := closedWith_closeHole _ b h6' (by simpa using hcut2) how (s.boom b).ctl.state e.code h10
        simp only [boom_modHole_same] at hc
        rw [ha, gradeOf_congr how _ (h := { h with fault := y, torque := some r }) (k := { h with torque := some r }) rfl rfl] at hc
        exact closedWith_congr (k := { h with fault := y, torque := some r }) (by simpa using h2) (by simpa using h3) (by simpa using hm) (by simpa using hp)
          ⟨l, by simp [hb]⟩ hcut rfl rfl rfl ⟨rfl, rfl⟩ ⟨⟨rfl, rfl, rfl, rfl, rfl, rfl, rfl, rfl, rfl, rfl⟩, rfl, rfl, h9⟩ hc
    · have hc := closedWith_closeHole s2 b h6 hcut2 how (s.boom b).ctl.state e.code h10
      rw [ha, gradeOf_congr how _ (h := { h with fault := y }) (k := { h with torque := h.torque }) rfl rfl] at hc
      exact closedWith_congr (k := { h with fault := y }) h2 h3 hm hp ⟨l, hb⟩ hcut rfl rfl rfl ⟨rfl, rfl⟩
          ⟨⟨rfl, rfl, rfl, rfl, rfl, rfl, rfl, rfl, rfl, rfl⟩, rfl, rfl, h9⟩ hc
  have fin : ∀ v s2 : State, ∀ k, v.boom b = ((s2.settleStage b (s.boom b).ctl.state e).afterStage b (s.boom b).ctl.state e).boom b →
      v.rowMap = ((s2.settleStage b (s.boom b).ctl.state e).afterStage b (s.boom b).ctl.state e).rowMap →
      v.holeLog = ((s2.settleStage b (s.boom b).ctl.state e).afterStage b (s.boom b).ctl.state e).holeLog →
      v.portMachine = ((s2.settleStage b (s.boom b).ctl.state e).afterStage b (s.boom b).ctl.state e).portMachine →
      s2.backdrop = s.backdrop → s2.rowMap = s.rowMap → s2.holeLog = s.holeLog →
      (∃ l, s2.boom b = { s.boom b with link := l, ctl := { (s.boom b).ctl with hole := some k } }) →
      (∃ x, k = { h with fault := x }) → e.code.or k.fault = e.code.or h.fault → (e.code.isSome = true → k.fault = e.code) →
      _ := fun v s2 k a1 a2 a3 a4 b1 b2 b3 b4 b5 b6 b7 =>
    closedWith_congr rfl rfl rfl rfl ⟨_, hself⟩ hcut a1 a2 a3 (by rw [a4]; exact ⟨rfl, rfl⟩) ⟨HoleRecord.alike_refl h, rfl, rfl, rfl⟩
      (key s2 k b1 b2 b3 b4 b5 b6 b7)
  unfold State.endStage
  cases e with
  | success =>
    exact fin _ (s.withdraw b) h (by simp; rfl) (by simp; rfl) (by simp; rfl) (by simp; rfl) (by simp) (by simp) (by simp)
      ⟨_, by rw [boom_withdraw_same]; exact hself⟩ ⟨_, rfl⟩ rfl (fun h => nomatch h)
  | stop =>
    exact fin _ ((s.withdraw b).modLink b fun l => { l with stopLatch := true }) h (by simp; rfl) (by simp; rfl) (by simp; rfl)
      (by simp; rfl) (by simp) (by simp) (by simp) ⟨_, by rw [boom_modLink_same, boom_withdraw_same, ← hh]⟩ ⟨_, rfl⟩ rfl
      (fun h => nomatch h)
  | abandon =>
    exact fin _ ((s.withdraw b).modLink b fun l => { l with stopLatch := true }) h (by simp; rfl) (by simp; rfl) (by simp; rfl)
      (by simp; rfl) (by simp) (by simp) (by simp) ⟨_, by rw [boom_modLink_same, boom_withdraw_same, ← hh]⟩ ⟨_, rfl⟩ rfl
      (fun h => nomatch h)
  | resetAbort =>
    exact fin _ (((s.markFault b .resetAbort).withdraw b).modLink b fun l => { l with stopLatch := true })
      { h with fault := some .resetAbort } (by simp; rfl) (by simp; rfl) (by simp; rfl) (by simp; rfl) (by simp) (by simp) (by simp)
      ⟨_, by rw [boom_modLink_same, boom_withdraw_same, boom_markFault_same, hh]; rfl⟩ ⟨_, rfl⟩ rfl (fun _ => rfl)
  | fault f =>
    exact fin _ (((s.markFault b f).withdraw b).modLink b fun l => { l with stopLatch := true }) { h with fault := some f }
      (by simp; rfl) (by simp; rfl) (by simp; rfl) (by simp; rfl) (by simp) (by simp) (by simp)
      ⟨_, by rw [boom_modLink_same, boom_withdraw_same, boom_markFault_same, hh]; rfl⟩ ⟨_, rfl⟩ rfl (fun _ => rfl)

/-- A fault in a wait state that closes the hole (R92, R93). -/
theorem closedWith_faultInWait {h : HoleRecord} (hh : (s.boom b).ctl.hole = some h) (hcut : (s.boom b).ctl.state.cutsGround = false)
    (f : FaultCode) (how : CloseKind) :
    s.closedWith (s.faultInWait b f how) b h
      (gradeOf how (s.boom b).ctl.state { h with torque := (torqueResultOf (.fault f)).or h.torque } (s.boom b).anchorage) (some f)
      ((torqueResultOf (.fault f)).or h.torque) := by
  have hst : (s.stance b).1 = (s.boom b).ctl.state := rfl
  unfold State.faultInWait
  simp only [hst]
  cases hr : torqueResultOf (.fault f) with
  | none =>
    have h6 : ((s.markFault b f).boom b).ctl.hole = some { h with fault := some f } := by simp [hh]
    have hc := closedWith_closeHole _ b h6 (by simpa using hcut) how (s.boom b).ctl.state (some f) (fun _ => rfl)
    simp only [boom_markFault_same] at hc
    rw [gradeOf_congr how _ (h := { h with fault := some f }) (k := { h with torque := none.or h.torque }) rfl (by simp)] at hc
    exact closedWith_congr (k := { h with fault := some f }) (by simp) (by simp) (congrArg Backdrop.millis (backdrop_markFault s b f))
      (congrArg Backdrop.params (backdrop_markFault s b f)) ⟨(s.boom b).link, by rw [boom_markFault_same, hh]; rfl⟩ hcut (by simp) (by simp) (by simp)
      (by simp) ⟨⟨rfl, rfl, rfl, rfl, rfl, rfl, rfl, rfl, rfl, rfl⟩, rfl, rfl, rfl⟩ hc
  | some r =>
    have h6 : (((s.markFault b f).modHole b fun x => { x with torque := some r }).boom b).ctl.hole =
        some { h with fault := some f, torque := some r } := by simp [hh]
    have hc := closedWith_closeHole _ b h6 (by simpa using hcut) how (s.boom b).ctl.state (some f) (fun _ => rfl)
    simp only [boom_modHole_same, boom_markFault_same] at hc
    rw [gradeOf_congr how _ (h := { h with fault := some f, torque := some r }) (k := { h with torque := (some r).or h.torque }) rfl rfl] at hc
    exact closedWith_congr (k := { h with fault := some f, torque := some r }) (by simp) (by simp) (congrArg Backdrop.millis (by simp : State.backdrop _ = s.backdrop))
      (congrArg Backdrop.params (by simp : State.backdrop _ = s.backdrop))
      ⟨(s.boom b).link, by rw [boom_modHole_same, boom_markFault_same, hh]; rfl⟩ hcut (by simp) (by simp) (by simp) (by simp)
      ⟨⟨rfl, rfl, rfl, rfl, rfl, rfl, rfl, rfl, rfl, rfl⟩, rfl, rfl, rfl⟩ hc

/-- STAGE_FAULT raised with a fault record on the port of an enabled boom (R96, R177). -/
theorem stageFault_raised {s u : State} (b : Boom) (f : FaultCode) (x : Option Nat) (st : BoomState × Option RunCondition)
    (hu : u.straps = s.straps) (he : s.enabled b = true) :
    (((u.raise b .stageFault).logBoomFault b f x st).port b.port).causes.c2 = true := by
  have h : u.enabled b = true := by
    cases b <;> simpa [State.enabled, hu] using he
  cases b <;> simp [State.logBoomFault, State.raise, h, State.port, State.modPort, Causes.put, BoomCause.code, Boom.port]

theorem faultLog_faultInWait (f : FaultCode) (how : CloseKind) : s.faultWritten (s.faultInWait b f how) b f none := by
  have key : ∀ u : State, u.backdrop = s.backdrop → u.faultLog = s.faultLog →
      s.faultWritten ((u.raise b .stageFault).logBoomFault b f none (s.stance b)) b f none :=
    fun u h1 h2 => ⟨faultLog_logBoomFault ((backdrop_raise u b .stageFault).trans h1) (by simpa using h2) none,
      stageFault_raised b f none _ (congrArg Backdrop.straps h1)⟩
  unfold State.faultInWait
  simp only []
  split <;> exact key _ (by simp) (by simp)

theorem faultWritten_endStage (f : FaultCode) (x : Option Nat) :
    s.faultWritten (s.endStage b (.fault f) x (s.stance b)) b f x := by
  refine ⟨(faultLog_endStage s b (.fault f) x (s.stance b)).1 f rfl rfl, fun he => ?_⟩
  unfold State.endStage
  exact stageFault_raised b f x _ (congrArg Backdrop.straps (by simp [StageEnd.code] : State.backdrop _ = s.backdrop)) he

/-! ## What the end of a stage leaves to the other boom, and the demand list after it -/

theorem otherBoom_ne (b : Boom) : otherBoom b ≠ b := by cases b <;> simp [otherBoom]

theorem elsewhere_endStage (s : State) (b : Boom) (e x st) : s.elsewhere (s.endStage b e x st) b :=
  ⟨by simp, by simp, ungranted_endStage s (otherBoom_ne b) e x st⟩

theorem elsewhere_faultInWait (s : State) (b : Boom) (f how) : s.elsewhere (s.faultInWait b f how) b :=
  ⟨by simp, by simp, by rw [boom_faultInWait_other s (otherBoom_ne b)]⟩

theorem kinds_endStage (s : State) (b : Boom) (e x st) : kindsOf (s.endStage b e x st).arbiter.demands b = [] := by
  have : ∀ t : State, kindsOf (t.withdraw b).arbiter.demands b = [] := by
    intro t; rw [kindsOf_withdraw]; simp
  unfold State.endStage
  cases e <;> simp [StageEnd.code, this]

end Sys2Proof.Machine
end

