-- ==== Sys2Proof/Laws/Flow.lean ====
section
/-! SUPPORT. The law on the sum of grants: an allocation never grants more than Q_avail, and every shared operation keeps that;
and the FLOW flags that an allocation raises. -/
namespace Sys2Proof.Machine

/-! ## The four steps of an allocation -/

/-- A step that gives no entry more than the capacity left and the entry's own grant moves flow and creates none. -/
theorem allocPass_conserves (sel : Demand → Bool) (give : Nat → Demand → Nat)
    (hgive : ∀ cap d, give cap d ≤ cap + d.grant) :
    ∀ (ds : List Demand) (cap : Nat),
      grantSum (allocPass sel give cap ds).1 + (allocPass sel give cap ds).2 = grantSum ds + cap
  | [], cap => by simp [allocPass, grantSum]
  | d :: ds, cap => by
    unfold allocPass
    split
    · have h := allocPass_conserves sel give hgive ds (cap + d.grant - give cap d)
      have hg := hgive cap d
      simp only [grantSum] at h ⊢
      omega
    · have h := allocPass_conserves sel give hgive ds cap
      simp only [grantSum] at h ⊢
      omega

theorem giveCritical_le (cap : Nat) (d : Demand) : giveCritical cap d ≤ cap + d.grant := by
  unfold giveCritical; split <;> omega

theorem giveMachine_le (cap : Nat) (d : Demand) : giveMachine cap d ≤ cap + d.grant := by
  unfold giveMachine; (repeat' split) <;> omega

theorem giveFloor_le (cap : Nat) (d : Demand) : giveFloor cap d ≤ cap + d.grant := by
  unfold giveFloor; split <;> omega

theorem giveRaise_le (cap : Nat) (d : Demand) : giveRaise cap d ≤ cap + d.grant := by
  unfold giveRaise; omega

/-- A list whose grants are all 0 sums to 0. -/
theorem grantSum_fresh : ∀ ds : List Demand, grantSum (ds.map fun d => { d with grant := 0 }) = 0
  | [] => rfl
  | d :: ds => by simp [grantSum, grantSum_fresh ds]

/-- The grants of an allocation sum to Q_avail at most (R105). -/
theorem allocate_sum_le (q : Nat) (ds : List Demand) : grantSum (allocate q ds) ≤ q := by
  unfold allocate
  simp only []
  have h0 := grantSum_fresh ds
  generalize ds.map (fun d => { d with grant := 0 }) = fresh at *
  have h1 := allocPass_conserves (fun d => d.kind.cls == .critical) giveCritical giveCritical_le fresh q
  generalize allocPass (fun d => d.kind.cls == .critical) giveCritical q fresh = s1 at *
  have h2 := allocPass_conserves (fun d => d.kind.cls == .machine) giveMachine giveMachine_le s1.1 s1.2
  generalize allocPass (fun d => d.kind.cls == .machine) giveMachine s1.2 s1.1 = s2 at *
  have h3 := allocPass_conserves (fun d => d.kind.cls == .normal) giveFloor giveFloor_le s2.1 s2.2
  generalize allocPass (fun d => d.kind.cls == .normal) giveFloor s2.2 s2.1 = s3 at *
  have h4 := allocPass_conserves (fun d => d.kind.cls == .normal && d.grant != 0) giveRaise giveRaise_le s3.1 s3.2
  omega

/-- The sum of grants depends on the arbiter alone. -/
theorem flowSound_congr {s t : State} (h : t.arbiter = s.arbiter) (hs : s.flowSound) : t.flowSound := by
  unfold State.flowSound at *; rw [h]; exact hs

/-- An allocation leaves the grants within Q_avail, whatever stood before. -/
theorem flowSound_reallocate (s : State) (old : List Demand) : (s.reallocate old).flowSound := by
  unfold State.flowSound; rw [arbiter_reallocate]; exact allocate_sum_le _ _

theorem flowSound_arrive (s : State) (p : Port) (k : DemandKind) : (s.arrive p k).flowSound := flowSound_reallocate _ _

theorem flowSound_depart {s : State} (hs : s.flowSound) (sel : Demand → Bool) : (s.depart sel).flowSound := by
  unfold State.depart
  simp only []
  split
  · exact flowSound_reallocate _ _
  · exact hs

theorem flowSound_withdraw {s : State} (hs : s.flowSound) (b : Boom) : (s.withdraw b).flowSound := flowSound_depart hs _

theorem flowSound_refreshFlow {s : State} (hs : s.flowSound) : s.refreshFlow.flowSound := by
  unfold State.refreshFlow
  simp only []
  split
  · exact hs
  · exact flowSound_reallocate _ _

/-- The arbiter after a stage's end is the arbiter after the withdrawal of its demand. -/
theorem arbiter_endStage (s : State) (b : Boom) (e : StageEnd) (x : Option Nat) (st : BoomState × Option RunCondition) :
    (s.endStage b e x st).arbiter =
      ((match e.code with
        | some f => s.markFault b f
        | none => s).withdraw b).arbiter := by
  unfold State.endStage
  simp only []
  split <;> (repeat' split) <;> simp_all

theorem flowSound_endStage {s : State} (hs : s.flowSound) (b : Boom) (e : StageEnd) (x : Option Nat)
    (st : BoomState × Option RunCondition) : (s.endStage b e x st).flowSound := by
  refine flowSound_congr (arbiter_endStage s b e x st) ?_
  refine flowSound_withdraw ?_ b
  split
  · exact flowSound_congr (by simp) hs
  · exact hs

theorem flowSound_spinToHold (s : State) (b : Boom) : (s.spinToHold b).flowSound :=
  flowSound_congr (arbiter_raise _ _ _) (flowSound_reallocate _ _)

theorem flowSound_linkFault {s : State} (hs : s.flowSound) (b : Boom) (f : FaultCode) (x : Option Nat) :
    (s.linkFault b f x).flowSound := by
  unfold State.linkFault
  simp only []
  split
  · exact flowSound_endStage hs _ _ _ _
  · exact flowSound_congr (by simp) hs

theorem flowSound_supplyEnd {s : State} (hs : s.flowSound) (b : Boom) (st : BoomState × Option RunCondition) :
    (s.supplyEnd b st).flowSound := by
  unfold State.supplyEnd
  split
  · exact flowSound_endStage hs _ _ _ _
  · exact hs

theorem flowSound_announce {s : State} (hs : s.flowSound) (old : Interlocks) : (s.announce old).flowSound := by
  have h1 : (((s.suspendStage .left (s.interlocks.minus old)).suspendStage .right (s.interlocks.minus old)).refreshFlow).flowSound :=
    flowSound_refreshFlow (flowSound_congr (by simp) hs)
  unfold State.announce
  simp only []
  split
  · exact hs
  · split
    · exact flowSound_congr (arbiter_raiseInterlock _ _ _) (flowSound_supplyEnd (flowSound_supplyEnd h1 _ _) _ _)
    · exact flowSound_congr (arbiter_raiseInterlock _ _ _) h1

/-! ## FLOW -/

/-- A grant of an owner differs between two lists exactly where one of some kind does (R114). -/
theorem grantsChanged_iff (old new : List Demand) (p : Port) :
    grantsChanged old new p = true ↔ ∃ k, grantOf old p k ≠ grantOf new p k := by
  unfold grantsChanged
  simp only [List.any_eq_true, List.mem_append, Bool.and_eq_true, beq_iff_eq, bne_iff_ne]
  constructor
  · rintro ⟨d, -, -, h⟩
    exact ⟨_, h⟩
  · rintro ⟨k, h⟩
    have hit : ∀ ds : List Demand, grantOf ds p k ≠ 0 → ∃ d ∈ ds, d.owner = p ∧ d.kind = k := by
      intro ds hd
      unfold grantOf findDemand at hd
      cases e : ds.find? fun d => d.owner == p && d.kind == k with
      | none => simp [e] at hd
      | some d => exact ⟨d, List.mem_of_find?_eq_some e, by simpa using List.find?_some e⟩
    by_cases h0 : grantOf old p k = 0
    · obtain ⟨d, hm, rfl, rfl⟩ := hit new (by omega)
      exact ⟨d, .inr hm, rfl, h⟩
    · obtain ⟨d, hm, rfl, rfl⟩ := hit old h0
      exact ⟨d, .inl hm, rfl, h⟩

theorem port_applyGrant (s : State) (b : Boom) (d : Demand) (p : Port) : (s.applyGrant b d).port p = s.port p := by
  unfold State.applyGrant
  (repeat' split) <;> simp [State.enterRunning, State.modCtl, State.modLink, port_modBoom]

theorem absentPort_congr {s t : State} (h : t.straps = s.straps) (p : Port) : t.absentPort p = s.absentPort p := by
  cases p <;> simp [State.absentPort, h]

theorem flow_raise (s : State) (b : Boom) (p : Port) :
    ((s.raise b .flow).port p).causes.c4 = ((s.port p).causes.c4 || (p == b.port && !s.absentPort p)) := by
  unfold State.raise
  cases b <;> cases p <;> cases h : s.enabled _ <;>
    simp_all [State.port, State.modPort, State.absentPort, State.enabled, Boom.port, Causes.put, BoomCause.code]

theorem flow_handGrant (s : State) (b : Boom) (old new : List Demand) (p : Port) :
    ((s.handGrant b old new).port p).causes.c4 =
      ((s.port p).causes.c4 || (p == b.port && !s.absentPort p && grantsChanged old new b.port)) := by
  unfold State.handGrant
  (repeat' split) <;> simp_all [port_applyGrant, flow_raise]

/-- FLOW after an allocation measured against a list: raised on the port of each owner of which a grant differs (R115). -/
theorem flow_reallocate (s : State) (old : List Demand) (p : Port) :
    ((s.reallocate old).port p).causes.c4 = true ↔ (s.port p).causes.c4 = true ∨
      (s.absentPort p = false ∧ ∃ k, grantOf old p k ≠ grantOf (s.reallocate old).arbiter.demands p k) := by
  rw [← grantsChanged_iff, arbiter_reallocate]
  have key : ∀ (u : State) (new : List Demand), u.straps = s.straps → u.port p = s.port p →
      (((u.handGrant .left old new).handGrant .right old new).port p).causes.c4 =
        ((s.port p).causes.c4 || (p != .machine && !s.absentPort p && grantsChanged old new p)) := by
    intro u new h1 h2
    rw [flow_handGrant, flow_handGrant, absentPort_congr ((congrArg Backdrop.straps (backdrop_handGrant u .left old new)).trans h1), absentPort_congr h1, h2]
    have e1 : (Port.left == Port.right) = false := rfl
    have e2 : (Port.right == Port.left) = false := rfl
    have e3 : (Port.machine == Port.left) = false := rfl
    have e4 : (Port.machine == Port.right) = false := rfl
    have e5 : (Port.left != Port.machine) = true := rfl
    have e6 : (Port.right != Port.machine) = true := rfl
    cases p <;> simp [Boom.port, e1, e2, e3, e4, e5, e6]
  have k := key { s with arbiter := { s.arbiter with demands := allocate s.arbiter.qAvail s.arbiter.demands } }
    (allocate s.arbiter.qAvail s.arbiter.demands) rfl (by cases p <;> rfl)
  unfold State.reallocate
  simp only []
  split
  · rename_i hm
    cases p <;> simp_all [State.raiseMachine, State.port, State.modPort, Causes.put, MachineCause.code, State.absentPort]
  · rename_i hm
    rw [k]
    cases p <;> simp_all [State.absentPort]

/-- A demand that arrives leaves the FLOW flags as the changed grants ask: its entry held 0 before (R114, R115). -/
theorem flowFlags_arrive (s : State) (p : Port) (k : DemandKind) : s.flowFlags (s.arrive p k) := fun r => by
  have h := flow_reallocate
    { s with arbiter := { s.arbiter with demands := s.arbiter.demands ++ [newDemand s.params.plan p k] } } s.arbiter.demands r
  cases r <;> exact h

/-- Entries that leave do the same. -/
theorem flowFlags_depart (s : State) (sel : Demand → Bool) : s.flowFlags (s.depart sel) := fun r => by
  unfold State.depart
  simp only []
  split
  · have h := flow_reallocate
      { s with arbiter := { s.arbiter with demands := s.arbiter.demands.filter fun d => !sel d } } s.arbiter.demands r
    cases r <;> exact h
  · simp

end Sys2Proof.Machine
end

