-- ==== Sys2Proof/Laws/Interlocks.lean ====
section
/-! SUPPORT. What a change of the interlock set does to the booms (R97, R98, R105, R149), and the judgement of a channel's code
against the table of R141. -/
namespace Sys2Proof.Machine

variable (s : State) (b : Boom)

/-! ## Rounds -/

/-- The channel that follows is the first enabled one, or channel 6 (R140). -/
theorem nextFrom_channelFrom (m : Monitor) (j : Nat) : m.nextFrom j (m.channelFrom j) := by
  unfold Monitor.channelFrom Monitor.nextFrom Monitor.isOn
  have on : ∀ i : Nat, ((m.channels[i]?.map fun c : Channel => c.limits.enabled).getD false) = true ↔
      m.channels[i]?.map (fun c : Channel => c.limits.enabled) = some true := by
    intro i
    cases m.channels[i]?.map (fun c : Channel => c.limits.enabled) with
    | none => simp
    | some v => cases v <;> simp
  cases h : (List.range 6).find? fun i => decide (j ≤ i) && ((m.channels[i]?.map fun c => c.limits.enabled).getD false) with
  | none =>
    refine .inr ⟨rfl, fun i h1 h2 h3 => ?_⟩
    have := List.find?_eq_none.1 h i (List.mem_range.2 h2)
    rw [h3] at this
    simp [h1] at this
  | some k =>
    have h1 := List.find?_some h
    have h2 := List.mem_range.1 (List.mem_of_find?_eq_some h)
    simp only [Bool.and_eq_true, decide_eq_true_eq] at h1
    refine .inl ⟨h1.1, h2, (on k).1 h1.2, fun i h3 h4 h5 => ?_⟩
    simp only [Option.getD_some] at h4
    rw [List.find?_eq_some_iff_getElem] at h
    obtain ⟨_, n, hn, he, hall⟩ := h
    simp only [List.getElem_range] at he
    have hi := hall i (by omega)
    simp only [List.getElem_range] at hi
    rw [(on i).2 h5] at hi
    simp [h3] at hi

/-- The target that the monitor finds is the one in the table of R141. -/
theorem target_of_sees (c : Channel) (code : Nat) (t : Option Breach) (h : c.sees code t) : c.target code = t := by
  have hclear : c.limits.clearWindow code = true ↔ c.limits.isClear code := by
    simp [ChannelLimits.clearWindow, ChannelLimits.isClear]
  match t with
  | none =>
    simp only [Channel.sees, ← hclear] at h
    unfold Channel.target
    cases hb : c.breach <;> simp [hb] at h <;> simp [h, Nat.not_lt.2]
  | some .hi =>
    simp only [Channel.sees] at h
    unfold Channel.target
    cases hb : c.breach <;> simp [hb] at h <;> simp [h]
  | some .lo =>
    simp only [Channel.sees] at h
    unfold Channel.target
    cases hb : c.breach <;> simp [hb] at h <;> simp [h, Nat.not_lt.2]
  | some .inside =>
    simp only [Channel.sees, ← hclear] at h
    unfold Channel.target
    cases hb : c.breach <;> simp [hb] at h <;> simp [h, Nat.not_lt.2]

/-- A channel converted, at its place in the list. -/
theorem modify_convert {m : Monitor} {k code : Nat} {c d : Channel} (hc : m.channels[k]? = some c) (hd : c.convert code = d) :
    m.channels.modify k (fun c => c.convert code) = m.channels.set k d := by
  subst hd
  apply List.ext_getElem?
  intro i
  rw [List.getElem?_modify, List.getElem?_set]
  by_cases h : k = i
  · subst h
    obtain ⟨hl, hx⟩ := List.getElem?_eq_some_iff.1 hc
    simp [hl, hx]
  · simp [h]

/-- The breach states after one channel's record is replaced. -/
theorem breach_set {m : Monitor} {k : Nat} {c : Channel} (hc : m.channels[k]? = some c) (d : Channel) (r : RoundState) (x i : Nat) :
    ({ m with channels := m.channels.set k d, round := r, roundTimer := x } : Monitor).breach i =
      if i = k then d.breach else m.breach i := by
  unfold Monitor.breach
  obtain ⟨hl, _⟩ := List.getElem?_eq_some_iff.1 hc
  by_cases h : i = k
  · subst h; simp [hl]
  · simp only []
    rw [List.getElem?_set_ne (Ne.symm h), if_neg h]

/-! ## Holes stand while grants move -/

theorem stands_of_ungranted {u v : BoomUnit} (h : u.ungranted = v.ungranted) :
    u.ctl.state = v.ctl.state ∧ u.ctl.hole = v.ctl.hole ∧ u.tracker = v.tracker :=
  ⟨(congrArg (fun w : BoomUnit => w.ctl.state) h : u.ungranted.ctl.state = v.ungranted.ctl.state),
    (congrArg (fun w : BoomUnit => w.ctl.hole) h : u.ungranted.ctl.hole = v.ungranted.ctl.hole),
    (congrArg BoomUnit.tracker h : u.ungranted.tracker = v.ungranted.tracker)⟩

theorem stands_suspendStage (i : Interlocks) (d : Boom) :
    ((s.suspendStage b i).boom d).ctl.state = (s.boom d).ctl.state ∧ ((s.suspendStage b i).boom d).ctl.hole = (s.boom d).ctl.hole ∧
      ((s.suspendStage b i).boom d).tracker = (s.boom d).tracker := by
  by_cases h : d = b
  · subst h
    unfold State.suspendStage
    simp only []
    (repeat' split) <;> simp
  · rw [boom_suspendStage_other s h]; exact ⟨rfl, rfl, rfl⟩

/-- The suspension by an onset that suspends the stage (R97). -/
theorem boom_suspendStage_same {i : Interlocks} (h : i.inter (suspenders (s.boom b).ctl.state) ≠ Interlocks.empty) :
    (s.suspendStage b i).boom b = (s.boom b).suspendedBy i := by
  unfold State.suspendStage BoomUnit.suspendedBy
  simp only [h, if_false]
  split
  · next hr => simp [hr]
  · next hr => simp [beq_false_of_ne hr]

theorem run_suspendStage {d : Boom} {i : Interlocks} (h : (s.boom d).ctl.run = some .suspended) :
    ((s.suspendStage b i).boom d).ctl.run = some .suspended := by
  by_cases hd : d = b
  · subst hd
    unfold State.suspendStage
    simp only []
    (repeat' split) <;> simp [h]
  · rw [boom_suspendStage_other s hd]; exact h

/-! ## The arbiter's part -/

theorem suspendedOwner_of {b : Boom} (h : (s.boom b).ctl.run = some .suspended) {d : Demand} (hd : d.owner = b.port) :
    s.suspendedOwner d = true := by
  cases b <;> simp [State.suspendedOwner, hd, Boom.port] <;> simpa [State.boom] using h

/-- A SUSPENDED boom has no demand after the arbiter's part, and is left alone by it (R97, R107). -/
theorem refreshFlow_suspended (h : (s.boom b).ctl.run = some .suspended) :
    kindsOf s.refreshFlow.arbiter.demands b = [] ∧ s.refreshFlow.boom b = s.boom b := by
  have hk : kindsOf (s.arbiter.demands.filter fun d => !s.suspendedOwner d) b = [] := by
    simp only [kindsOf, List.map_eq_nil_iff, List.filter_eq_nil_iff, List.mem_filter]
    rintro d ⟨_, h2⟩ h3
    rw [suspendedOwner_of s h (by simpa using h3)] at h2
    exact Bool.noConfusion h2
  unfold State.refreshFlow
  simp only []
  split
  · next hc => rw [hc.1] at hk; exact ⟨hk, rfl⟩
  · refine ⟨by simpa using hk, ?_⟩
    rw [boom_reallocate_without (by exact hk)]
    rfl

/-- The arbiter's part gives Q_avail as R105 does. -/
theorem qAvail_refreshFlow : s.refreshFlow.arbiter.qAvail = availableFlow s.params.plan.qPump s.interlocks := by
  unfold State.refreshFlow
  simp only []
  split
  · next hc => exact hc.2.symm
  · simp

/-- A current arbiter has nothing to do. -/
theorem refreshFlow_current (h : s.flowCurrent) : s.refreshFlow = s := by
  unfold State.refreshFlow
  simp only []
  rw [if_pos]
  refine ⟨List.filter_eq_self.2 fun d hd => ?_, h.1.symm⟩
  rw [h.2 d hd]; rfl

/-! ## The announcement of a changed set -/

/-- An announcement without a SUPPLY onset leaves every hole and both logs as they were. -/
theorem holesStand_announce {old : Interlocks} (h : (s.interlocks.minus old).supplyLow = false) :
    s.holesStand (s.announce old) ∧ (s.announce old).faultLog = s.faultLog ∧ (s.announce old).rowMap = s.rowMap := by
  unfold State.announce
  simp only [h, Bool.false_eq_true, if_false]
  split
  · exact ⟨⟨fun _ => ⟨rfl, rfl, rfl⟩, rfl⟩, rfl, rfl⟩
  · refine ⟨⟨fun d => ?_, by simp⟩, by simp, by simp⟩
    rw [boom_raiseInterlock]
    have h1 := stands_of_ungranted (ungranted_refreshFlow ((s.suspendStage .left (s.interlocks.minus old)).suspendStage .right
      (s.interlocks.minus old)) d)
    have h2 := stands_suspendStage (s.suspendStage .left (s.interlocks.minus old)) .right (s.interlocks.minus old) d
    have h3 := stands_suspendStage s .left (s.interlocks.minus old) d
    exact ⟨h1.1.trans (h2.1.trans h3.1), h1.2.1.trans (h2.2.1.trans h3.2.1), h1.2.2.trans (h2.2.2.trans h3.2.2)⟩

/-- An onset that suspends a boom's stage (R97, R98). -/
theorem suspends_announce {old : Interlocks} (h : (s.interlocks.minus old).supplyLow = false)
    (hs : (s.interlocks.minus old).inter (suspenders (s.boom b).ctl.state) ≠ Interlocks.empty) :
    (s.announce old).demandKinds b = [] ∧ (s.announce old).boom b = (s.boom b).suspendedBy (s.interlocks.minus old) := by
  have hne : old ≠ s.interlocks := by
    rintro rfl
    refine hs ?_
    simp [Interlocks.minus, Interlocks.inter, Interlocks.empty]
  obtain ⟨i, hi⟩ : ∃ i, i = s.interlocks.minus old := ⟨_, rfl⟩
  rw [← hi] at hs h ⊢
  have h1 : ((s.suspendStage .left i).suspendStage .right i).boom b = (s.boom b).suspendedBy i := by
    cases b
    · rw [boom_suspendStage_other _ (by decide : Boom.left ≠ .right)]
      exact boom_suspendStage_same s .left hs
    · have hb := boom_suspendStage_other s (by decide : Boom.right ≠ .left) i
      rw [boom_suspendStage_same (s.suspendStage .left i) .right (i := i) (by rw [hb]; exact hs), hb]
  have h2 := refreshFlow_suspended _ b (by rw [h1]; rfl)
  unfold State.announce
  simp only [hne, if_false, ← hi, h, Bool.false_eq_true]
  rw [State.demandKinds, arbiter_raiseInterlock, boom_raiseInterlock, h2.2]
  exact ⟨h2.1, h1⟩

/-- A SUSPENDED stage stays SUSPENDED: clearing resumes nothing (R100). -/
theorem suspended_announce {old : Interlocks} (h : (s.interlocks.minus old).supplyLow = false)
    (hr : (s.boom b).ctl.run = some .suspended) : ((s.announce old).boom b).ctl.run = some .suspended := by
  unfold State.announce
  simp only [h, Bool.false_eq_true, if_false]
  split
  · exact hr
  · rw [boom_raiseInterlock, (refreshFlow_suspended _ b (run_suspendStage _ _ (run_suspendStage _ _ hr))).2]
    exact run_suspendStage _ _ (run_suspendStage _ _ hr)

end Sys2Proof.Machine
end

