-- ==== Sys2Proof/Laws/Layers.lean ====
section
/-! SUPPORT. The layer list: what placing a slice keeps (R49 to R55), and what hands a slice on. -/
namespace Sys2Proof.Machine

/-! ### The list -/

/-- Two neighbouring layers abut and have different classes (R49). -/
def Layer.abuts (a b : Layer) : Prop := b.top = a.bottom ∧ a.ground ≠ b.ground

/-- A layer list that reaches from depth 0 to a bottom: neighbours abut (R49). -/
def Reaches (ls : List Layer) (bottom : Option Nat) : Prop :=
  (∀ l, ls.head? = some l → l.top = 0) ∧ ls.IsChain Layer.abuts ∧ ls.getLast?.map Layer.bottom = bottom

/-- Neighbours abut exactly where each layer and the next do. -/
theorem isChain_iff_next (ls : List Layer) :
    ls.IsChain Layer.abuts ↔ ∀ i a b, ls[i]? = some a → ls[i + 1]? = some b → b.top = a.bottom ∧ a.ground ≠ b.ground := by
  rw [List.isChain_iff_getElem]
  constructor
  · intro h i a b ha hb
    obtain ⟨h1, rfl⟩ := List.getElem?_eq_some_iff.mp ha
    obtain ⟨h2, rfl⟩ := List.getElem?_eq_some_iff.mp hb
    exact h i h2
  · intro h i hi
    exact h i _ _ (List.getElem?_eq_getElem (by omega)) (List.getElem?_eq_getElem hi)

theorem eq_append_getLast {ls : List Layer} {o : Layer} (h : ls.getLast? = some o) : ls = ls.dropLast ++ [o] := by
  obtain ⟨h1, h2⟩ := List.getLast?_eq_some_iff.mp h
  subst h2; simp

/-- The last layer of a list replaced by one of the same top and class. -/
theorem reaches_replace {pre : List Layer} {o o' : Layer} {bottom : Option Nat} (h : Reaches (pre ++ [o]) bottom) (ht : o'.top = o.top)
    (hg : o'.ground = o.ground) : Reaches (pre ++ [o']) (some o'.bottom) := by
  obtain ⟨h1, h2, -⟩ := h
  refine ⟨?_, ?_, by simp⟩
  · cases pre with
    | nil => intro l hl; obtain rfl : o' = l := by simpa using hl
             exact ht.trans (h1 o rfl)
    | cons a pre => exact h1
  · rw [List.isChain_append] at h2 ⊢
    refine ⟨h2.1, List.isChain_singleton _, fun x hx y hy => ?_⟩
    obtain rfl : o' = y := by simpa using hy
    have := h2.2.2 x hx o rfl
    exact ⟨ht.trans this.1, fun e => this.2 (e.trans hg)⟩

/-- A layer behind the last, of another class. -/
theorem reaches_push {ls : List Layer} {bottom : Option Nat} {sl : Layer} (h : Reaches ls bottom) (ht : sl.top = bottom.getD 0)
    (hg : ∀ o, ls.getLast? = some o → sl.ground ≠ o.ground) : Reaches (ls ++ [sl]) (some sl.bottom) := by
  obtain ⟨h1, h2, rfl⟩ := h
  refine ⟨?_, ?_, by simp⟩
  · cases ls with
    | nil => intro l hl; obtain rfl : sl = l := by simpa using hl
             exact ht
    | cons a ls => exact h1
  · rw [List.isChain_append]
    refine ⟨h2, List.isChain_singleton _, fun x hx y hy => ?_⟩
    obtain rfl : sl = y := by simpa using hy
    have hx' : ls.getLast? = some x := hx
    exact ⟨by simpa [hx'] using ht, fun e => hg x hx' e.symm⟩

/-- The list without its last layer. -/
theorem reaches_dropLast {pre : List Layer} {o : Layer} {bottom : Option Nat} (h : Reaches (pre ++ [o]) bottom) :
    Reaches pre (pre.getLast?.map Layer.bottom) := by
  obtain ⟨h1, h2, -⟩ := h
  refine ⟨?_, (List.isChain_append.mp h2).1, rfl⟩
  cases pre with
  | nil => simp
  | cons a pre => exact h1

/-! ### Placing a slice -/

theorem extendOpen_length {ls : List Layer} (sl : Layer) (h : ls ≠ []) : (extendOpen ls sl).length = ls.length := by
  unfold extendOpen
  have := List.length_pos_iff.mpr h
  cases e : ls.getLast? with
  | none => exact absurd (List.getLast?_eq_none_iff.mp e) h
  | some o => simp; omega

/-- A slice that extends the open layer, of its class or forced into it (R50, R55). -/
theorem reaches_extendOpen {ls : List Layer} {bottom : Option Nat} {sl : Layer} (h : Reaches ls bottom) (ht : sl.top = bottom.getD 0) :
    Reaches (extendOpen ls sl) (some sl.bottom) := by
  unfold extendOpen
  cases e : ls.getLast? with
  | none =>
    obtain rfl := List.getLast?_eq_none_iff.mp e
    exact reaches_push h ht (by simp)
  | some o =>
    rw [eq_append_getLast e] at h
    exact reaches_replace h rfl rfl

/-- A slice placed in a list with room reaches its own bottom, and adds one layer at most (R50 to R52). -/
theorem reaches_placeWithRoom {ls : List Layer} {bottom : Option Nat} {sl : Layer} (lMin : Nat) (h : Reaches ls bottom)
    (ht : sl.top = bottom.getD 0) :
    Reaches (placeWithRoom lMin ls sl).layers (some sl.bottom) ∧ (placeWithRoom lMin ls sl).layers.length ≤ ls.length + 1 ∧
      ((placeWithRoom lMin ls sl).how ≠ .opened → (placeWithRoom lMin ls sl).layers.length ≤ ls.length) := by
  unfold placeWithRoom
  cases e : ls.getLast? with
  | none =>
    obtain rfl := List.getLast?_eq_none_iff.mp e
    exact ⟨reaches_push h ht (by simp), by simp, by simp⟩
  | some o =>
    have hne : ls ≠ [] := by rintro rfl; simp at e
    simp only
    split
    · exact ⟨reaches_extendOpen h ht, by simp [extendOpen_length sl hne], by simp [extendOpen_length sl hne]⟩
    rename_i hg
    cases ea : absorb lMin ls sl with
    | none => exact ⟨reaches_push h ht (fun o' ho' => by rw [e] at ho'; cases ho'; exact hg), by simp, by simp⟩
    | some new =>
      unfold absorb at ea
      rw [e] at ea
      split at ea <;> try contradiction
      rename_i o' e' ho' he'
      obtain rfl : o = o' := Option.some.inj ho'
      split at ea <;> try contradiction
      obtain rfl := Option.some.inj ea
      have h1 := eq_append_getLast e
      have h2 := eq_append_getLast he'
      rw [h1] at h
      have h3 := reaches_dropLast h
      rw [h2] at h3
      have l1 := congrArg List.length h1
      have l2 := congrArg List.length h2
      simp only [List.length_append, List.length_singleton] at l1 l2
      exact ⟨reaches_replace (o := e') h3 rfl (by simp [joinLayers]), by simp; omega, by simp; omega⟩

/-! ### The merge -/

/-- Two neighbours joined into one of the class of either, and with the layer before or after it where that one has the same class. -/
theorem reaches_placeMerged {pre post : List Layer} {a b : Layer} {bottom : Option Nat} {g : Ground}
    (h : Reaches (pre ++ a :: b :: post) bottom) (hg : g = a.ground ∨ g = b.ground) :
    Reaches (placeMerged pre (joinLayers a b g) post) bottom ∧
      (placeMerged pre (joinLayers a b g) post).length ≤ pre.length + post.length + 1 := by
  obtain ⟨h1, h2, h3⟩ := h
  rw [List.isChain_append] at h2
  obtain ⟨c1, c2, c3⟩ := h2
  rw [List.isChain_cons_cons] at c2
  obtain ⟨ab, c2⟩ := c2
  rw [List.isChain_cons] at c2
  obtain ⟨c4, c5⟩ := c2
  have hlast : ∀ l : List Layer, ∀ x : Layer, x.bottom = b.bottom → (l ++ x :: post).getLast?.map Layer.bottom = bottom := by
    intro l x hx
    rw [← h3]
    cases post with
    | nil => simp [hx]
    | cons p post => simp [List.getLast?_append, List.getLast?_cons]
  have hjoin : ∀ p, post.head? = some p → (joinLayers a b g).bottom = p.top := fun p hp => (c4 p hp).1.symm
  -- the merged layer in front of what follows it
  have front : (∀ x ∈ pre.getLast?, x.ground ≠ g) → Reaches (pre ++ joinFront (joinLayers a b g :: post)) bottom ∧
      (joinFront (joinLayers a b g :: post)).length ≤ post.length + 1 := by
    intro hpre
    have pair : ∀ x : Layer, x.top = a.top → x.ground = g → ∀ y ∈ pre.getLast?, y.abuts x := by
      intro x hx hgx y hy
      exact ⟨hx.trans (c3 y hy a rfl).1, fun e => hpre y hy (e.trans hgx)⟩
    have head : ∀ x : Layer, ∀ rest, x.top = a.top → ∀ l, (pre ++ x :: rest).head? = some l → l.top = 0 := by
      intro x rest hx l hl
      cases pre with
      | nil => obtain rfl : x = l := by simpa using hl
               exact hx.trans (h1 a rfl)
      | cons p pre => exact h1 l (by simpa using hl)
    cases post with
    | nil =>
      refine ⟨⟨head _ _ rfl, ?_, ?_⟩, by simp [joinFront]⟩
      · rw [joinFront, List.isChain_append]
        · exact ⟨c1, List.isChain_singleton _, fun y hy x hx => by
            obtain rfl : joinLayers a b g = x := by simpa using hx
            exact pair (joinLayers a b g) rfl rfl y hy⟩
        · simp
      · rw [joinFront]
        · exact hlast _ _ rfl
        · simp
    | cons p post =>
      rw [List.isChain_cons] at c5
      have hbp := c4 p rfl
      simp only [joinFront]
      split
      · rename_i hgp
        refine ⟨⟨head _ _ rfl, ?_, ?_⟩, by simp⟩
        · rw [List.isChain_append, List.isChain_cons]
          refine ⟨c1, ⟨fun y hy => ⟨(c5.1 y hy).1, fun e => (c5.1 y hy).2 (hgp.symm.trans e)⟩, c5.2⟩, fun y hy x hx => ?_⟩
          obtain rfl : joinLayers (joinLayers a b g) p _ = x := by simpa using hx
          exact pair (joinLayers (joinLayers a b g) p (joinLayers a b g).ground) rfl rfl y hy
        · rw [← h3]
          cases post with
          | nil => simp [joinLayers]
          | cons q post => simp [List.getLast?_append, List.getLast?_cons]
      · rename_i hgp
        refine ⟨⟨head _ _ rfl, ?_, hlast _ _ rfl⟩, by simp⟩
        rw [List.isChain_append, List.isChain_cons, List.isChain_cons]
        refine ⟨c1, ⟨fun y hy => ?_, c5.1, c5.2⟩, fun y hy x hx => ?_⟩
        · obtain rfl : p = y := by simpa using hy
          exact ⟨hbp.1, hgp⟩
        · obtain rfl : joinLayers a b g = x := by simpa using hx
          exact pair (joinLayers a b g) rfl rfl y hy
  unfold placeMerged
  cases e : pre.getLast? with
  | none =>
    obtain rfl := List.getLast?_eq_none_iff.mp e
    obtain ⟨f1, f2⟩ := front (by simp)
    exact ⟨by simpa using f1, by simpa using f2⟩
  | some p =>
    simp only
    split
    · rename_i hp
      have hpa := c3 p e a rfl
      -- the class is the one before, so it is not that of `a`
      have hgb : g = b.ground := hg.resolve_left fun ha => hpa.2 (hp.trans ha)
      have hsplit := eq_append_getLast e
      have l1 := congrArg List.length hsplit
      simp only [List.length_append, List.length_singleton] at l1
      refine ⟨⟨?_, ?_, hlast _ _ rfl⟩, by simp; omega⟩
      · intro l hl
        cases hd : pre.dropLast with
        | nil =>
          rw [hd] at hl hsplit
          obtain rfl : joinLayers p _ _ = l := by simpa using hl
          exact h1 p (by rw [hsplit]; rfl)
        | cons q rest =>
          rw [hd] at hl hsplit
          exact h1 l (by rw [hsplit]; simpa using hl)
      · rw [hsplit, List.isChain_append] at c1
        rw [List.isChain_append, List.isChain_cons]
        refine ⟨c1.1, ⟨fun y hy => ⟨(c4 y hy).1, fun e' => (c4 y hy).2 (hgb.symm.trans e')⟩, c5⟩, fun y hy x hx => ?_⟩
        obtain rfl : joinLayers p (joinLayers a b g) _ = x := by simpa using hx
        have := c1.2.2 y hy p rfl
        exact ⟨this.1, fun e' => this.2 (e'.trans hp.symm)⟩
    · rename_i hp
      obtain ⟨f1, f2⟩ := front (fun x hx => by rw [e] at hx; cases hx; exact hp)
      exact ⟨f1, by simp; omega⟩

theorem eq_take_drop {ls : List Layer} {i : Nat} {a b : Layer} (ha : ls[i]? = some a) (hb : ls[i + 1]? = some b) :
    ls = ls.take i ++ a :: b :: ls.drop (i + 2) := by
  obtain ⟨h1, rfl⟩ := List.getElem?_eq_some_iff.mp ha
  obtain ⟨h2, rfl⟩ := List.getElem?_eq_some_iff.mp hb
  rw [List.getElem_cons_drop h2, List.getElem_cons_drop h1, List.take_append_drop]

theorem mergedClass_either (c p : Layer) : mergedClass c p = p.ground ∨ mergedClass c p = c.ground := by
  unfold mergedClass; split <;> simp

/-- The chosen index is one of the indices given. -/
theorem fewestSlices_mem {ls : List Layer} : ∀ {is : List Nat} {i : Nat}, fewestSlices ls is = some i → i ∈ is
  | j :: is, i, h => by
    unfold fewestSlices at h
    cases e : fewestSlices ls is with
    | none => simp_all
    | some k =>
      rw [e] at h
      simp only at h
      split at h
      · cases h; exact List.mem_cons_of_mem _ (fewestSlices_mem e)
      · cases h; simp

/-- A merge keeps the reach of the list and shortens it by one or two (R54). -/
theorem reaches_mergeAt {ls : List Layer} {bottom : Option Nat} {i : Nat} (h : Reaches ls bottom) (hi : mergeCandidate ls = some i) :
    Reaches (mergeAt ls i) bottom ∧ (mergeAt ls i).length + 1 ≤ ls.length := by
  have hlt : i + 1 < ls.length := by
    have := fewestSlices_mem hi
    simp only [mergeCandidates, List.mem_filter, List.mem_range] at this
    omega
  have hlo : (if partnerBefore ls i then i - 1 else i) + 1 < ls.length := by split <;> omega
  unfold mergeAt
  simp only
  generalize (if partnerBefore ls i then i - 1 else i) = lo at hlo ⊢
  have ha := List.getElem?_eq_getElem (l := ls) (i := lo) (by omega)
  have hb := List.getElem?_eq_getElem hlo
  rw [ha, hb]
  simp only
  have hs := eq_take_drop ha hb
  have hlen : (ls.take lo).length + (ls.drop (lo + 2)).length + 2 = ls.length := by simp; omega
  rw [hs] at h
  have key := fun g hg => reaches_placeMerged (g := g) h hg
  split
  · obtain ⟨k1, k2⟩ := key _ (mergedClass_either ls[lo + 1] ls[lo])
    exact ⟨k1, by omega⟩
  · obtain ⟨k1, k2⟩ := key _ (mergedClass_either ls[lo] ls[lo + 1]).symm
    exact ⟨k1, by omega⟩

/-- A slice placed in a list of at most 16 layers leaves one of at most 16 that reaches the slice's bottom (R49 to R55). -/
theorem reaches_placeSlice {ls : List Layer} {bottom : Option Nat} {sl : Layer} (lMin : Nat) (h : Reaches ls bottom)
    (hl : ls.length ≤ 16) (ht : sl.top = bottom.getD 0) :
    Reaches (placeSlice lMin ls sl).layers (some sl.bottom) ∧ (placeSlice lMin ls sl).layers.length ≤ 16 := by
  obtain ⟨p1, p2, p3⟩ := reaches_placeWithRoom lMin h ht
  by_cases hc : ls.length < maxLayers ∨ (placeWithRoom lMin ls sl).how ≠ .opened
  · rw [placeSlice, if_pos hc]
    refine ⟨p1, ?_⟩
    rcases hc with hc | hc
    · simp only [maxLayers] at hc; omega
    · exact (p3 hc).trans hl
  · rw [placeSlice, if_neg hc]
    cases e : mergeCandidate ls with
    | none =>
      have hne : ls ≠ [] := by rintro rfl; simp [maxLayers] at hc
      exact ⟨reaches_extendOpen h ht, by simp [extendOpen_length sl hne, hl]⟩
    | some i =>
      obtain ⟨m1, m2⟩ := reaches_mergeAt h e
      obtain ⟨q1, q2, -⟩ := reaches_placeWithRoom (sl := sl) lMin m1 ht
      exact ⟨q1, by simp only; omega⟩

/-- A slice classified keeps the list's reach and its bound (R38, R49). -/
theorem reaches_classify {cl : Classifier} {bottom : Option Nat} {c : ClosedSlice} (k : ClassifierConsts) (cal : Calib) (w : Nat)
    (h : Reaches cl.layers bottom) (hl : cl.layers.length ≤ 16) (ht : c.top = bottom.getD 0) :
    Reaches (classify k cal w cl c).classifier.layers (some c.bottom) ∧ (classify k cal w cl c).classifier.layers.length ≤ 16 :=
  reaches_placeSlice (sl := sliceLayer c _ _) k.lMin h hl ht

end Sys2Proof.Machine
end

