-- ==== Sys2Proof/Laws/Lines.lean ====
section
/-! SUPPORT. The bits of the lines: bytes and bits go back and forth, and the receiver takes out what the sender put in (R1 to R4). -/
namespace Sys2Proof.Machine

@[simp] theorem length_bitsLsb (b : Byte) : (bitsLsb b).length = 8 := by simp [bitsLsb]

theorem bitsLsb_eq (b : Byte) :
    bitsLsb b = [b.getLsbD 0, b.getLsbD 1, b.getLsbD 2, b.getLsbD 3, b.getLsbD 4, b.getLsbD 5, b.getLsbD 6, b.getLsbD 7] := rfl

/-- A byte is what its bits make. -/
theorem byteOfBits_bitsLsb : ∀ b : Byte, byteOfBits (bitsLsb b) = b := by decide

/-- Eight bits are what their byte holds. -/
theorem bitsLsb_byteOfBits : ∀ b0 b1 b2 b3 b4 b5 b6 b7 : Bool,
    bitsLsb (byteOfBits [b0, b1, b2, b3, b4, b5, b6, b7]) = [b0, b1, b2, b3, b4, b5, b6, b7] := by decide

theorem length_flatMap_bitsLsb (bytes : List Byte) : (bytes.flatMap bitsLsb).length = 8 * bytes.length := by
  induction bytes with
  | nil => rfl
  | cons b bs ih => simp [ih]; omega

/-- Bytes sent as bits come back as bytes. -/
@[simp] theorem bytesOfBits_flatMap : ∀ bytes : List Byte, bytesOfBits (bytes.flatMap bitsLsb) = bytes
  | [] => rfl
  | b :: bs => by
    have h := byteOfBits_bitsLsb b
    rw [bitsLsb_eq] at h
    rw [List.flatMap_cons, bitsLsb_eq]
    simp only [List.cons_append, List.nil_append, bytesOfBits]
    rw [h, bytesOfBits_flatMap bs]

/-- Whole bytes of bits come back as bits. -/
theorem flatMap_bytesOfBits : ∀ (n : Nat) (bits : List Bool), bits.length = 8 * n → (bytesOfBits bits).flatMap bitsLsb = bits
  | 0, bits, h => by
    have : bits = [] := List.length_eq_zero_iff.1 (by omega)
    subst this; rfl
  | n + 1, b0 :: b1 :: b2 :: b3 :: b4 :: b5 :: b6 :: b7 :: rest, h => by
    simp only [bytesOfBits, List.flatMap_cons, bitsLsb_byteOfBits, List.cons_append, List.nil_append]
    rw [flatMap_bytesOfBits n rest (by simp only [List.length_cons] at h; omega)]
  | _ + 1, [], h => by simp at h
  | _ + 1, [_], h => by simp at h; omega
  | _ + 1, [_, _], h => by simp at h; omega
  | _ + 1, [_, _, _], h => by simp at h; omega
  | _ + 1, [_, _, _, _], h => by simp at h; omega
  | _ + 1, [_, _, _, _, _], h => by simp at h; omega
  | _ + 1, [_, _, _, _, _, _], h => by simp at h; omega
  | _ + 1, [_, _, _, _, _, _, _], h => by simp at h; omega

@[simp] theorem length_checkBits (bits : List Bool) : (checkBits bits).length = 16 := by simp [checkBits]

/-- A byte sent most significant bit first comes back as it was, with the bytes behind it (R168). -/
theorem bytesMsb_cons (b : Byte) (bits : List Bool) : bytesMsb (bitsMsb b ++ bits) = b :: bytesMsb bits := by
  have h := byteOfBits_bitsLsb b
  rw [bitsLsb_eq] at h
  simp only [bitsMsb, bitsLsb_eq, List.reverse_cons, List.reverse_nil, List.nil_append, List.cons_append, bytesMsb, h]

/-- Bytes sent as bits come back as bytes; what is left of a byte cut short is left out (R168). -/
theorem bytesMsb_flatMap : ∀ (bytes : List Byte) (bits : List Bool), bytesMsb (bytes.flatMap bitsMsb ++ bits) = bytes ++ bytesMsb bits
  | [], _ => rfl
  | b :: bs, bits => by
    rw [List.flatMap_cons, List.append_assoc, bytesMsb_cons, bytesMsb_flatMap bs bits, List.cons_append]

theorem length_flatMap_bitsMsb (bytes : List Byte) : (bytes.flatMap bitsMsb).length = 8 * bytes.length := by
  induction bytes with
  | nil => rfl
  | cons b bytes ih => rw [List.flatMap_cons, List.length_append, ih]; simp [bitsMsb]; omega

/-- The bit of a frame at a clock (R168): byte by byte, each most significant bit first. -/
theorem getElem_flatMap_bitsMsb : ∀ (f : List Byte) (j k : Nat), j < f.length → k < 8 →
    (f.flatMap bitsMsb)[8 * j + k]? = some ((f.getD j 0).getLsbD (7 - k))
  | b :: f, 0, k, _, hk => by
    rw [List.flatMap_cons, List.getElem?_append_left (by simp [bitsMsb]; omega)]
    simp only [bitsMsb, bitsLsb]
    rcases k with _ | _ | _ | _ | _ | _ | _ | _ | k <;> first | rfl | omega
  | b :: f, j + 1, k, h, hk => by
    rw [List.flatMap_cons, List.getElem?_append_right (by simp [bitsMsb]; omega)]
    have := getElem_flatMap_bitsMsb f j k (by simpa using h) hk
    simp only [bitsMsb, List.length_reverse, length_bitsLsb, List.getD_cons_succ] at this ⊢
    rw [show 8 * (j + 1) + k - 8 = 8 * j + k by omega, this]

@[simp] theorem withoutFlag_frame (acc : List Bool) :
    withoutFlag (true :: true :: true :: true :: true :: false :: acc) = acc := rfl

/-- Behind five 1s whose next 0 was removed as inserted, a flag that begins with that 0 leaves those five 1s to the frame (R4). -/
theorem withoutFlag_shared (acc : List Bool) :
    withoutFlag (true :: true :: true :: true :: true :: true :: acc) = true :: acc := rfl

/-- The receiver behind bits of one frame, whatever it has collected, ends at the flag with the frame's data bits (R1, R4). -/
theorem scanLine_insertZeros : ∀ (data : List Bool) (k : Nat) (acc rest : List Bool), k ≤ 4 →
    scanLine k acc (insertZeros k data ++ (flagBits ++ rest)) = .flag (acc.reverse ++ data) rest
  | [], k, acc, rest, hk => by
    have : k < 5 := by omega
    simp [insertZeros, flagBits, scanLine, this, withoutFlag]
  | false :: bs, k, acc, rest, hk => by
    have : k < 5 := by omega
    simp only [insertZeros, List.cons_append, scanLine, this, if_true]
    rw [scanLine_insertZeros bs 0 (false :: acc) rest (by omega)]
    simp
  | true :: bs, k, acc, rest, hk => by
    have h5 : k < 5 := by omega
    by_cases h : k = 4
    · subst h
      simp only [insertZeros, if_true, List.cons_append, scanLine, h5, if_true]
      simp only [Nat.lt_irrefl, if_false]
      rw [scanLine_insertZeros bs 0 (true :: acc) rest (by omega)]
      simp
    · simp only [insertZeros, h, if_false, List.cons_append, scanLine, h5, if_true]
      rw [scanLine_insertZeros bs (k + 1) (true :: acc) rest (by omega)]
      simp

/-- A frame between its opening and its closing flag comes back whole (R1, R4). -/
theorem scanLine_frame (data : List Bool) : scanLine 0 [] (insertZeros 0 data ++ flagBits) = .flag data [] := by
  simpa using scanLine_insertZeros data 0 [] [] (by omega)

/-! ## What a head link drives (R1, R17) -/

/-- Bit insertion lengthens a run by at most a fifth. -/
theorem length_insertZeros_le : ∀ (data : List Bool) (k : Nat), k ≤ 4 → 5 * (insertZeros k data).length ≤ 6 * data.length + k
  | [], _, _ => by simp [insertZeros]
  | false :: bs, k, _ => by
    have := length_insertZeros_le bs 0 (by omega)
    simp only [insertZeros, List.length_cons]; omega
  | true :: bs, k, h => by
    by_cases hk : k = 4
    · have := length_insertZeros_le bs 0 (by omega)
      simp only [insertZeros, if_pos hk, List.length_cons]; omega
    · have := length_insertZeros_le bs (k + 1) (by omega)
      simp only [insertZeros, if_neg hk, List.length_cons]; omega

/-- Flag fill repeats the flag. -/
theorem fillBit_flag {j k : Nat} {x : Bool} (h : flagBits[k]? = some x) : fillBit (8 * j + k) = x := by
  have hk : k < 8 := by
    have := (List.getElem?_eq_some_iff.1 h).1
    simpa [flagBits] using this
  simp [fillBit, List.getD, show (8 * j + k) % 8 = k by omega, h]

/-- A running link drives its latest frame from flag to flag, or nothing but fill before the first, and then fill. -/
theorem State.drives_of_running {s : State} {b : Boom} (h : (s.boom b).link.running = true) :
    s.drives b (((s.boom b).link.sent.map lineBits).getD []) := by
  refine ⟨by simp [State.headClock, h], fun i x hx => ?_, fun j k x hx => ?_⟩
  · simp [State.headData, h, HeadLink.lineBit, hx]
  · have hn : (((s.boom b).link.sent.map lineBits).getD [])[(((s.boom b).link.sent.map lineBits).getD []).length + 8 * j + k]? = none :=
      List.getElem?_eq_none (by omega)
    simp only [State.headData, h, if_true, HeadLink.lineBit, hn, Option.getD_none]
    rw [show (((s.boom b).link.sent.map lineBits).getD []).length + 8 * j + k - (((s.boom b).link.sent.map lineBits).getD []).length
      = 8 * j + k by omega, fillBit_flag hx]

/-- A stopped link drives neither clock nor data. -/
theorem State.drivesNothing_of_stopped {s : State} {b : Boom} (h : (s.boom b).link.running = false) : s.drivesNothing b := by
  simp [State.drivesNothing, State.headClock, State.headData, h]

end Sys2Proof.Machine
end

