-- ==== Sys2Proof/Laws/Logs.lean ====
section
/-! SUPPORT. The bounds of the two logs, operation by operation (R134, R166). -/
namespace Sys2Proof.Machine

variable (s : State) (b : Boom)

theorem nextPlace_le {cap p : Nat} (hc : 1 ≤ cap) : nextPlace cap p ≤ cap := by
  unfold nextPlace; split <;> omega

theorem satInc_le (top n : Nat) : satInc top n ≤ top := by
  unfold satInc; omega

/-- The hole log's bounds after a record is archived. -/
theorem archive_bounds (l : HoleLog) (r : HoleRecord) (h : l.places.length = 32) :
    (l.archive r).places.length = 32 ∧ (l.archive r).pointer ≤ 32 ∧ (l.archive r).count ≤ 65535 :=
  ⟨by simpa [HoleLog.archive] using h, nextPlace_le (by omega), satInc_le _ _⟩

/-- The fault log's bounds after a record is written. -/
theorem record_bounds (l : FaultLog) (r : FaultRecord) (h : l.places.length = 8) :
    (l.record r).places.length = 8 ∧ (l.record r).pointer ≤ 8 ∧ (l.record r).count ≤ 65535 :=
  ⟨by simpa [FaultLog.record] using h, nextPlace_le (by omega), satInc_le _ _⟩

/-! ## Operations that leave both logs -/

@[simp] theorem logsSound_modBoom (f : BoomUnit → BoomUnit) : (s.modBoom b f).logsSound ↔ s.logsSound := by simp [State.logsSound]
@[simp] theorem logsSound_modLink (f : HeadLink → HeadLink) : (s.modLink b f).logsSound ↔ s.logsSound := by simp [State.logsSound]
@[simp] theorem logsSound_modTracker (f : DepthTracker → DepthTracker) : (s.modTracker b f).logsSound ↔ s.logsSound := by simp [State.logsSound]
@[simp] theorem logsSound_modCtl (f : Controller → Controller) : (s.modCtl b f).logsSound ↔ s.logsSound := by simp [State.logsSound]
@[simp] theorem logsSound_modHole (f : HoleRecord → HoleRecord) : (s.modHole b f).logsSound ↔ s.logsSound := by simp [State.logsSound]
@[simp] theorem logsSound_modPort (p : Port) (f : MasterPort → MasterPort) : (s.modPort p f).logsSound ↔ s.logsSound := by simp [State.logsSound]
@[simp] theorem logsSound_modMonitor (f : Monitor → Monitor) : (s.modMonitor f).logsSound ↔ s.logsSound := by simp [State.logsSound]
@[simp] theorem logsSound_modMem (f : MemoryController → MemoryController) : (s.modMem f).logsSound ↔ s.logsSound := by simp [State.logsSound]
@[simp] theorem logsSound_rowMap (m : RowMap) : (({ s with rowMap := m } : State)).logsSound ↔ s.logsSound := by simp [State.logsSound]
@[simp] theorem logsSound_arbiter (a : Arbiter) : (({ s with arbiter := a } : State)).logsSound ↔ s.logsSound := by simp [State.logsSound]
@[simp] theorem logsSound_check (c : SelfCheck) : (({ s with check := c } : State)).logsSound ↔ s.logsSound := by simp [State.logsSound]
@[simp] theorem logsSound_params (c : Params) : (({ s with params := c } : State)).logsSound ↔ s.logsSound := by simp [State.logsSound]
@[simp] theorem logsSound_raise (c : BoomCause) : (s.raise b c).logsSound ↔ s.logsSound := by simp [State.logsSound]
@[simp] theorem logsSound_raiseBoth (c : BoomCause) : (s.raiseBoth c).logsSound ↔ s.logsSound := by simp [State.logsSound]
@[simp] theorem logsSound_raiseMachine (c : MachineCause) : (s.raiseMachine c).logsSound ↔ s.logsSound := by simp [State.logsSound]
@[simp] theorem logsSound_modWear (f : WearTable → WearTable) : (s.modWear b f).logsSound ↔ s.logsSound := by simp [State.logsSound]
@[simp] theorem logsSound_handSlice (c : ClosedSlice) : (s.handSlice b c).logsSound ↔ s.logsSound := by simp [State.logsSound]
@[simp] theorem logsSound_settleSlice : (s.settleSlice b).logsSound ↔ s.logsSound := by simp [State.logsSound]
@[simp] theorem logsSound_evaluatePlan (r : EndReason) : (s.evaluatePlan b r).logsSound ↔ s.logsSound := by simp [State.logsSound]
@[simp] theorem logsSound_missingPoll : (s.missingPoll b).logsSound ↔ s.logsSound := by simp [State.logsSound]
@[simp] theorem logsSound_enterRunning : (s.enterRunning b).logsSound ↔ s.logsSound := by simp [State.logsSound]
@[simp] theorem logsSound_reallocate (old : List Demand) : (s.reallocate old).logsSound ↔ s.logsSound := by simp [State.logsSound]
@[simp] theorem logsSound_arrive (p : Port) (k : DemandKind) : (s.arrive p k).logsSound ↔ s.logsSound := by simp [State.logsSound]
@[simp] theorem logsSound_depart (sel : Demand → Bool) : (s.depart sel).logsSound ↔ s.logsSound := by simp [State.logsSound]
@[simp] theorem logsSound_withdraw : (s.withdraw b).logsSound ↔ s.logsSound := by simp [State.logsSound]
@[simp] theorem logsSound_raiseReady : (s.raiseReady).logsSound ↔ s.logsSound := by simp [State.logsSound]
@[simp] theorem logsSound_closeSlot (g : Grade) : (s.closeSlot b g).logsSound ↔ s.logsSound := by simp [State.logsSound]
@[simp] theorem logsSound_markFault (f : FaultCode) : (s.markFault b f).logsSound ↔ s.logsSound := by simp [State.logsSound]
@[simp] theorem logsSound_settleStage (st : BoomState) (e : StageEnd) : (s.settleStage b st e).logsSound ↔ s.logsSound := by simp [State.logsSound]
@[simp] theorem logsSound_spinToHold : (s.spinToHold b).logsSound ↔ s.logsSound := by simp [State.logsSound]
@[simp] theorem logsSound_suspendStage (i : Interlocks) : (s.suspendStage b i).logsSound ↔ s.logsSound := by simp [State.logsSound]
@[simp] theorem logsSound_refreshFlow : (s.refreshFlow).logsSound ↔ s.logsSound := by simp [State.logsSound]
@[simp] theorem logsSound_raiseInterlock (old new : Interlocks) : (s.raiseInterlock old new).logsSound ↔ s.logsSound := by simp [State.logsSound]

/-! ## Operations that write a log -/

variable {s : State} (hs : s.logsSound)
include hs

@[simp] theorem logsSound_logBoomFault (f : FaultCode) (x : Option Nat) (st : BoomState × Option RunCondition) :
    (s.logBoomFault b f x st).logsSound :=
  ⟨hs.1, record_bounds _ _ hs.2.1⟩

@[simp] theorem logsSound_logPartFault (src : FaultSource) (f : FaultCode) (x : Option Nat) : (s.logPartFault src f x).logsSound :=
  ⟨hs.1, record_bounds _ _ hs.2.1⟩

@[simp] theorem logsSound_archive (r : HoleRecord) : ({ s with holeLog := s.holeLog.archive r } : State).logsSound :=
  ⟨archive_bounds _ _ hs.1.1, hs.2⟩

@[simp] theorem logsSound_closeHole (how : CloseKind) (st : BoomState) (f : Option FaultCode) : (s.closeHole b how st f).logsSound := by
  unfold State.closeHole; (repeat' split) <;> simp [hs]

@[simp] theorem logsSound_afterStage (st : BoomState) (e : StageEnd) : (s.afterStage b st e).logsSound := by
  unfold State.afterStage; (repeat' split) <;> simp [hs]

@[simp] theorem logsSound_endStage (e : StageEnd) (x : Option Nat) (st : BoomState × Option RunCondition) : (s.endStage b e x st).logsSound := by
  unfold State.endStage; simp only []; (repeat' split) <;> simp [hs]

@[simp] theorem logsSound_faultInWait (f : FaultCode) (how : CloseKind) : (s.faultInWait b f how).logsSound := by
  unfold State.faultInWait; simp only []; (repeat' split) <;> simp [hs]

@[simp] theorem logsSound_linkFault (f : FaultCode) (x : Option Nat) : (s.linkFault b f x).logsSound := by
  unfold State.linkFault; simp only []; (repeat' split) <;> simp [hs]

@[simp] theorem logsSound_supplyEnd (st : BoomState × Option RunCondition) : (s.supplyEnd b st).logsSound := by
  unfold State.supplyEnd; (repeat' split) <;> simp [hs]

@[simp] theorem logsSound_announce (old : Interlocks) : (s.announce old).logsSound := by
  unfold State.announce; simp only []; (repeat' split) <;> simp [hs]

@[simp] theorem logsSound_stopCheck (result : Nat) (x : Option Nat) : (s.stopCheck result x).logsSound := by
  unfold State.stopCheck; simp only []; (repeat' split) <;> simp [hs]

end Sys2Proof.Machine
end

