-- ==== Sys2Proof/Laws/Memory.lean ====
section
/-! SUPPORT. The configuration memory: every operation keeps the canonical form, and reads see what was written. -/
namespace Sys2Proof.Machine

/-- Addresses above a bound lie above every lower bound. -/
theorem Memory.above_mono {a b : Nat} (h : a ≤ b) : ∀ {m : List Host.Cell}, Memory.above b m = true → Memory.above a m = true
  | [], _ => rfl
  | (k, v) :: m, hm => by
    simp only [Memory.above, Bool.and_eq_true, decide_eq_true_eq] at hm ⊢
    exact ⟨⟨by omega, hm.1.2⟩, hm.2⟩

/-- A memory whose addresses lie above a bound is in canonical form. -/
theorem Memory.wf_of_above {a : Nat} : ∀ {m : List Host.Cell}, Memory.above a m = true → Memory.wf m = true
  | [], _ => rfl
  | (k, v) :: m, hm => by
    simp only [Memory.above, Memory.wf, Bool.and_eq_true] at hm ⊢
    exact ⟨hm.1.2, hm.2⟩

/-- A cell put in front of higher addresses. -/
theorem Memory.above_cons {a k : Nat} (v : Byte) {m : List Host.Cell} (h : a < k) (hm : Memory.above k m = true) :
    Memory.above a (Memory.cons k v m) = true := by
  unfold Memory.cons
  split
  · exact Memory.above_mono (Nat.le_of_lt h) hm
  · simp [Memory.above, *]

/-- A write above a bound keeps the addresses above it, rising. -/
theorem Memory.above_write {a k : Nat} (v : Byte) (h : a < k) :
    ∀ {m : List Host.Cell}, Memory.above a m = true → Memory.above a (Memory.write m k v) = true
  | [], _ => Memory.above_cons v h rfl
  | (j, w) :: m, hm => by
    simp only [Memory.above, Bool.and_eq_true, decide_eq_true_eq] at hm
    unfold Memory.write
    split
    · exact Memory.above_cons v h (by simp [Memory.above, *])
    · split
      · exact Memory.above_cons v h (by subst_vars; exact hm.2)
      · simp only [Memory.above, Bool.and_eq_true, decide_eq_true_eq]
        exact ⟨hm.1, Memory.above_write v (by omega) hm.2⟩

/-- A cell in front of higher addresses keeps the canonical form. -/
theorem Memory.wf_cons {k : Nat} (v : Byte) {m : List Host.Cell} (hm : Memory.above k m = true) :
    Memory.wf (Memory.cons k v m) = true := by
  unfold Memory.cons
  split
  · exact Memory.wf_of_above hm
  · simp [Memory.wf, *]

/-- A write keeps the canonical form. -/
theorem Memory.wf_write (k : Nat) (v : Byte) : ∀ {m : List Host.Cell}, Memory.wf m = true → Memory.wf (Memory.write m k v) = true
  | [], _ => Memory.wf_cons v rfl
  | (j, w) :: m, hm => by
    simp only [Memory.wf, Bool.and_eq_true] at hm
    unfold Memory.write
    split
    · exact Memory.wf_cons v (by simp [Memory.above, *])
    · split
      · exact Memory.wf_cons v (by subst_vars; exact hm.2)
      · simp only [Memory.wf, Bool.and_eq_true]
        exact ⟨hm.1, Memory.above_write v (by omega) hm.2⟩

/-- A page written keeps the canonical form. -/
theorem Memory.wf_writeAll (page : List Host.Cell) :
    ∀ {m : List Host.Cell}, Memory.wf m = true → Memory.wf (Memory.writeAll m page) = true := by
  unfold Memory.writeAll
  induction page with
  | nil => exact fun hm => hm
  | cons c page ih => exact fun hm => ih (Memory.wf_write c.1 c.2 hm)

/-- A cut page keeps the canonical form, whatever the free values are (R190). -/
theorem wf_cutPage : ∀ (page : List Host.Cell) (n : Nat) {m : List Host.Cell},
    Memory.wf m = true → Memory.wf (cutPage m n page) = true
  | [], _, _, hm => hm
  | (a, _) :: page, n, _, hm => wf_cutPage page (n + 1) (Memory.wf_write a _ hm)

/-- An address below all that is listed reads as blank. -/
theorem Memory.read_above {a k : Nat} (h : k ≤ a) : ∀ {m : List Host.Cell}, Memory.above a m = true → Memory.read m k = blankByte
  | [], _ => rfl
  | (j, w) :: m, hm => by
    simp only [Memory.above, Bool.and_eq_true, decide_eq_true_eq] at hm
    unfold Memory.read
    rw [if_neg (by omega)]
    exact Memory.read_above (by omega) hm.2

/-- A cell in front reads as its byte. -/
theorem Memory.read_cons_same {k : Nat} (v : Byte) {m : List Host.Cell} (hm : Memory.above k m = true) :
    Memory.read (Memory.cons k v m) k = v := by
  unfold Memory.cons
  split
  · rw [Memory.read_above (Nat.le_refl k) hm]; simp_all
  · simp [Memory.read]

/-- A cell in front leaves every other address. -/
theorem Memory.read_cons_other {k a : Nat} (h : a ≠ k) (v : Byte) (m : List Host.Cell) :
    Memory.read (Memory.cons k v m) a = Memory.read m a := by
  unfold Memory.cons
  split
  · rfl
  · simp [Memory.read, h]

/-- A byte written is read back. -/
theorem Memory.read_write_same (k : Nat) (v : Byte) :
    ∀ {m : List Host.Cell}, Memory.wf m = true → Memory.read (Memory.write m k v) k = v
  | [], _ => Memory.read_cons_same v rfl
  | (j, w) :: m, hm => by
    simp only [Memory.wf, Bool.and_eq_true] at hm
    unfold Memory.write
    split
    · exact Memory.read_cons_same v (by simp [Memory.above, *])
    · split
      · exact Memory.read_cons_same v (by subst_vars; exact hm.2)
      · unfold Memory.read
        rw [if_neg (by assumption)]
        exact Memory.read_write_same k v (Memory.wf_of_above hm.2)

/-- A write leaves every other address. -/
theorem Memory.read_write_other {k a : Nat} (h : a ≠ k) (v : Byte) :
    ∀ m : List Host.Cell, Memory.read (Memory.write m k v) a = Memory.read m a
  | [] => Memory.read_cons_other h v []
  | (j, w) :: m => by
    unfold Memory.write
    split
    · exact Memory.read_cons_other h v _
    · split
      · subst_vars; rw [Memory.read_cons_other h]; simp [Memory.read, h]
      · simp [Memory.read, Memory.read_write_other h v m]

/-- A page leaves every address outside it. -/
theorem Memory.read_writeAll_other {a : Nat} (page : List Host.Cell) :
    ∀ (m : List Host.Cell), (∀ c ∈ page, c.1 ≠ a) → Memory.read (Memory.writeAll m page) a = Memory.read m a := by
  unfold Memory.writeAll
  induction page with
  | nil => exact fun _ _ => rfl
  | cons c page ih =>
    intro m h
    rw [List.foldl_cons, ih _ fun d hd => h d (List.mem_cons_of_mem _ hd)]
    exact Memory.read_write_other (fun e => h c (List.mem_cons_self ..) e.symm) c.2 m

end Sys2Proof.Machine
end

