-- ==== Sys2Proof/WellFormed.lean ====
section
/-! DEFINITION. When a command's operands are what the outside can supply: a run of line bits ends as the event that it is named for
does, and a run and a transfer have a greatest length. -/
namespace Sys2Proof

/-- The longest run of line bits that a command carries: a frame of 4,096 bytes with its inserted zeros. -/
def maxLineBits : Nat := 40960

/-- The most bits of a transfer that a command carries: 4,096 bytes. The part ignores all after the 32nd (R168). -/
def maxTransferBits : Nat := 32768

/-- The last eight bits are the flag pattern 0 1 1 1 1 1 1 0. -/
def endsWithFlag (bits : List Bool) : Bool :=
  bits.drop (bits.length - 8) == [false, true, true, true, true, true, true, false]

/-- The bits end with a 1, as the run of an abort does. -/
def endsWithOne (bits : List Bool) : Bool := bits.getLast? == some true

/-- A command's operands lie within what the outside can supply. -/
def Instr.wellFormed : Instr → Bool
  | .frameClose _ bits => decide (bits.length ≤ maxLineBits) && bits.getLast? == some false
  | .frameAbort _ bits => decide (bits.length ≤ maxLineBits) && endsWithOne bits
  | .flagSeen _ bits => decide (bits.length ≤ maxLineBits) && endsWithFlag bits
  | .frameStart _ bits => decide (bits.length ≤ maxLineBits) && decide (1 ≤ bits.length)
  | .syncLostToHunt _ bits => decide (bits.length ≤ maxLineBits) && endsWithOne bits
  | .transferEnd _ received => decide (received.length ≤ maxTransferBits)
  | _ => true

end Sys2Proof
end

