-- ==== Sys2Proof/Laws/PerInstr.lean ====
section
/-! SUPPORT. One lemma per command: the operands of a well-formed command stay within the bounds of WellFormed. -/
namespace Sys2Proof.Laws

/-- How many line bits a command carries: the five receiver events carry some, no other command does. -/
def lineBitsCarried : Instr → Nat
  | .frameClose _ bits | .frameAbort _ bits | .flagSeen _ bits | .frameStart _ bits | .syncLostToHunt _ bits => bits.length
  | _ => 0

/-- How many bits of a transfer a command carries: only the end of a transfer carries some. -/
def transferBitsCarried : Instr → Nat
  | .transferEnd _ received => received.length
  | _ => 0

/-- A well-formed command carries at most `maxLineBits` line bits and at most `maxTransferBits` bits of a transfer, never both. -/
def OperandShape.Statement (i : Instr) : Prop :=
  i.wellFormed = true →
    lineBitsCarried i ≤ maxLineBits ∧ transferBitsCarried i ≤ maxTransferBits ∧ (lineBitsCarried i = 0 ∨ transferBitsCarried i = 0)

theorem OperandShape.powerOn : OperandShape.Statement .powerOn :=
  fun _ => ⟨Nat.zero_le _, Nat.zero_le _, .inl rfl⟩
theorem OperandShape.resetNAssert : OperandShape.Statement .resetNAssert :=
  fun _ => ⟨Nat.zero_le _, Nat.zero_le _, .inl rfl⟩
theorem OperandShape.resetNRelease : OperandShape.Statement .resetNRelease :=
  fun _ => ⟨Nat.zero_le _, Nat.zero_le _, .inl rfl⟩
theorem OperandShape.startUpSelfTestComplete (memoryPass logicPass : Bool) (pins : Straps) : OperandShape.Statement (.startUpSelfTestComplete memoryPass logicPass pins) :=
  fun _ => ⟨Nat.zero_le _, Nat.zero_le _, .inl rfl⟩
theorem OperandShape.opening : OperandShape.Statement .opening :=
  fun _ => ⟨Nat.zero_le _, Nat.zero_le _, .inl rfl⟩
theorem OperandShape.frameClose (b : Boom) (bits : List Bool) : OperandShape.Statement (.frameClose b bits) := by
  intro h
  simp only [Instr.wellFormed, Bool.and_eq_true, decide_eq_true_eq] at h
  exact ⟨h.1, Nat.zero_le _, .inr rfl⟩
theorem OperandShape.frameAbort (b : Boom) (bits : List Bool) : OperandShape.Statement (.frameAbort b bits) := by
  intro h
  simp only [Instr.wellFormed, Bool.and_eq_true, decide_eq_true_eq] at h
  exact ⟨h.1, Nat.zero_le _, .inr rfl⟩
theorem OperandShape.fifoTake (b : Boom) : OperandShape.Statement (.fifoTake b) :=
  fun _ => ⟨Nat.zero_le _, Nat.zero_le _, .inl rfl⟩
theorem OperandShape.encoderReferenceDrop (b : Boom) : OperandShape.Statement (.encoderReferenceDrop b) :=
  fun _ => ⟨Nat.zero_le _, Nat.zero_le _, .inl rfl⟩
theorem OperandShape.block (b : Boom) : OperandShape.Statement (.block b) :=
  fun _ => ⟨Nat.zero_le _, Nat.zero_le _, .inl rfl⟩
theorem OperandShape.stall (b : Boom) : OperandShape.Statement (.stall b) :=
  fun _ => ⟨Nat.zero_le _, Nat.zero_le _, .inl rfl⟩
theorem OperandShape.mixTargetReached (b : Boom) : OperandShape.Statement (.mixTargetReached b) :=
  fun _ => ⟨Nat.zero_le _, Nat.zero_le _, .inl rfl⟩
theorem OperandShape.torqueAchieved (b : Boom) : OperandShape.Statement (.torqueAchieved b) :=
  fun _ => ⟨Nat.zero_le _, Nat.zero_le _, .inl rfl⟩
theorem OperandShape.slipped (b : Boom) : OperandShape.Statement (.slipped b) :=
  fun _ => ⟨Nat.zero_le _, Nat.zero_le _, .inl rfl⟩
theorem OperandShape.pollExpiry (b : Boom) : OperandShape.Statement (.pollExpiry b) :=
  fun _ => ⟨Nat.zero_le _, Nat.zero_le _, .inl rfl⟩
theorem OperandShape.linkUp (b : Boom) : OperandShape.Statement (.linkUp b) :=
  fun _ => ⟨Nat.zero_le _, Nat.zero_le _, .inl rfl⟩
theorem OperandShape.linkLost (b : Boom) : OperandShape.Statement (.linkLost b) :=
  fun _ => ⟨Nat.zero_le _, Nat.zero_le _, .inl rfl⟩
theorem OperandShape.qualityBlockEnd (b : Boom) : OperandShape.Statement (.qualityBlockEnd b) :=
  fun _ => ⟨Nat.zero_le _, Nat.zero_le _, .inl rfl⟩
theorem OperandShape.noContact (b : Boom) : OperandShape.Statement (.noContact b) :=
  fun _ => ⟨Nat.zero_le _, Nat.zero_le _, .inl rfl⟩
theorem OperandShape.holdTimeElapsed (b : Boom) : OperandShape.Statement (.holdTimeElapsed b) :=
  fun _ => ⟨Nat.zero_le _, Nat.zero_le _, .inl rfl⟩
theorem OperandShape.torqueTimeout (b : Boom) : OperandShape.Statement (.torqueTimeout b) :=
  fun _ => ⟨Nat.zero_le _, Nat.zero_le _, .inl rfl⟩
theorem OperandShape.spinLate (b : Boom) : OperandShape.Statement (.spinLate b) :=
  fun _ => ⟨Nat.zero_le _, Nat.zero_le _, .inl rfl⟩
theorem OperandShape.mixIncomplete (b : Boom) : OperandShape.Statement (.mixIncomplete b) :=
  fun _ => ⟨Nat.zero_le _, Nat.zero_le _, .inl rfl⟩
theorem OperandShape.torqueMissed (b : Boom) : OperandShape.Statement (.torqueMissed b) :=
  fun _ => ⟨Nat.zero_le _, Nat.zero_le _, .inl rfl⟩
theorem OperandShape.waitTimeout (b : Boom) : OperandShape.Statement (.waitTimeout b) :=
  fun _ => ⟨Nat.zero_le _, Nat.zero_le _, .inl rfl⟩
theorem OperandShape.conversionEnd (code : Code) : OperandShape.Statement (.conversionEnd code) :=
  fun _ => ⟨Nat.zero_le _, Nat.zero_le _, .inl rfl⟩
theorem OperandShape.roundStart : OperandShape.Statement .roundStart :=
  fun _ => ⟨Nat.zero_le _, Nat.zero_le _, .inl rfl⟩
theorem OperandShape.breachChange (code : Code) : OperandShape.Statement (.breachChange code) :=
  fun _ => ⟨Nat.zero_le _, Nat.zero_le _, .inl rfl⟩
theorem OperandShape.monitorFault (code : Code) : OperandShape.Statement (.monitorFault code) :=
  fun _ => ⟨Nat.zero_le _, Nat.zero_le _, .inl rfl⟩
theorem OperandShape.monitorFaultClear (code : Code) : OperandShape.Statement (.monitorFaultClear code) :=
  fun _ => ⟨Nat.zero_le _, Nat.zero_le _, .inl rfl⟩
theorem OperandShape.warmupEnd (code : Code) : OperandShape.Statement (.warmupEnd code) :=
  fun _ => ⟨Nat.zero_le _, Nat.zero_le _, .inl rfl⟩
theorem OperandShape.transferBegin (p : Port) : OperandShape.Statement (.transferBegin p) :=
  fun _ => ⟨Nat.zero_le _, Nat.zero_le _, .inl rfl⟩
theorem OperandShape.transferEnd (p : Port) (received : List Bool) : OperandShape.Statement (.transferEnd p received) := by
  intro h
  simp only [Instr.wellFormed, decide_eq_true_eq] at h
  exact ⟨Nat.zero_le _, h, .inl rfl⟩
theorem OperandShape.frameError (p : Port) : OperandShape.Statement (.frameError p) :=
  fun _ => ⟨Nat.zero_le _, Nat.zero_le _, .inl rfl⟩
theorem OperandShape.unknownKind (p : Port) : OperandShape.Statement (.unknownKind p) :=
  fun _ => ⟨Nat.zero_le _, Nat.zero_le _, .inl rfl⟩
theorem OperandShape.nop (p : Port) : OperandShape.Statement (.nop p) :=
  fun _ => ⟨Nat.zero_le _, Nat.zero_le _, .inl rfl⟩
theorem OperandShape.clearCause (p : Port) : OperandShape.Statement (.clearCause p) :=
  fun _ => ⟨Nat.zero_le _, Nat.zero_le _, .inl rfl⟩
theorem OperandShape.readStatus (p : Port) : OperandShape.Statement (.readStatus p) :=
  fun _ => ⟨Nat.zero_le _, Nat.zero_le _, .inl rfl⟩
theorem OperandShape.readLive (p : Port) : OperandShape.Statement (.readLive p) :=
  fun _ => ⟨Nat.zero_le _, Nat.zero_le _, .inl rfl⟩
theorem OperandShape.readHole (p : Port) : OperandShape.Statement (.readHole p) :=
  fun _ => ⟨Nat.zero_le _, Nat.zero_le _, .inl rfl⟩
theorem OperandShape.readRow (p : Port) : OperandShape.Statement (.readRow p) :=
  fun _ => ⟨Nat.zero_le _, Nat.zero_le _, .inl rfl⟩
theorem OperandShape.readFault (p : Port) : OperandShape.Statement (.readFault p) :=
  fun _ => ⟨Nat.zero_le _, Nat.zero_le _, .inl rfl⟩
theorem OperandShape.readAttributes (p : Port) : OperandShape.Statement (.readAttributes p) :=
  fun _ => ⟨Nat.zero_le _, Nat.zero_le _, .inl rfl⟩
theorem OperandShape.readMonitor (p : Port) : OperandShape.Statement (.readMonitor p) :=
  fun _ => ⟨Nat.zero_le _, Nat.zero_le _, .inl rfl⟩
theorem OperandShape.readLink (p : Port) : OperandShape.Statement (.readLink p) :=
  fun _ => ⟨Nat.zero_le _, Nat.zero_le _, .inl rfl⟩
theorem OperandShape.beginHole (b : Boom) : OperandShape.Statement (.beginHole b) :=
  fun _ => ⟨Nat.zero_le _, Nat.zero_le _, .inl rfl⟩
theorem OperandShape.collar (b : Boom) : OperandShape.Statement (.collar b) :=
  fun _ => ⟨Nat.zero_le _, Nat.zero_le _, .inl rfl⟩
theorem OperandShape.drill (b : Boom) : OperandShape.Statement (.drill b) :=
  fun _ => ⟨Nat.zero_le _, Nat.zero_le _, .inl rfl⟩
theorem OperandShape.retract (b : Boom) : OperandShape.Statement (.retract b) :=
  fun _ => ⟨Nat.zero_le _, Nat.zero_le _, .inl rfl⟩
theorem OperandShape.insert (b : Boom) : OperandShape.Statement (.insert b) :=
  fun _ => ⟨Nat.zero_le _, Nat.zero_le _, .inl rfl⟩
theorem OperandShape.spin (b : Boom) : OperandShape.Statement (.spin b) :=
  fun _ => ⟨Nat.zero_le _, Nat.zero_le _, .inl rfl⟩
theorem OperandShape.torque (b : Boom) : OperandShape.Statement (.torque b) :=
  fun _ => ⟨Nat.zero_le _, Nat.zero_le _, .inl rfl⟩
theorem OperandShape.stop (b : Boom) : OperandShape.Statement (.stop b) :=
  fun _ => ⟨Nat.zero_le _, Nat.zero_le _, .inl rfl⟩
theorem OperandShape.abandon (b : Boom) : OperandShape.Statement (.abandon b) :=
  fun _ => ⟨Nat.zero_le _, Nat.zero_le _, .inl rfl⟩
theorem OperandShape.resume (b : Boom) : OperandShape.Statement (.resume b) :=
  fun _ => ⟨Nat.zero_le _, Nat.zero_le _, .inl rfl⟩
theorem OperandShape.bitChanged (b : Boom) : OperandShape.Statement (.bitChanged b) :=
  fun _ => ⟨Nat.zero_le _, Nat.zero_le _, .inl rfl⟩
theorem OperandShape.supportSet : OperandShape.Statement .supportSet :=
  fun _ => ⟨Nat.zero_le _, Nat.zero_le _, .inl rfl⟩
theorem OperandShape.supportReleased : OperandShape.Statement .supportReleased :=
  fun _ => ⟨Nat.zero_le _, Nat.zero_le _, .inl rfl⟩
theorem OperandShape.rowAdvance : OperandShape.Statement .rowAdvance :=
  fun _ => ⟨Nat.zero_le _, Nat.zero_le _, .inl rfl⟩
theorem OperandShape.tramDone : OperandShape.Statement .tramDone :=
  fun _ => ⟨Nat.zero_le _, Nat.zero_le _, .inl rfl⟩
theorem OperandShape.waive : OperandShape.Statement .waive :=
  fun _ => ⟨Nat.zero_le _, Nat.zero_le _, .inl rfl⟩
theorem OperandShape.clearOverflow : OperandShape.Statement .clearOverflow :=
  fun _ => ⟨Nat.zero_le _, Nat.zero_le _, .inl rfl⟩
theorem OperandShape.setPlan : OperandShape.Statement .setPlan :=
  fun _ => ⟨Nat.zero_le _, Nat.zero_le _, .inl rfl⟩
theorem OperandShape.flowTram : OperandShape.Statement .flowTram :=
  fun _ => ⟨Nat.zero_le _, Nat.zero_le _, .inl rfl⟩
theorem OperandShape.flowSupport : OperandShape.Statement .flowSupport :=
  fun _ => ⟨Nat.zero_le _, Nat.zero_le _, .inl rfl⟩
theorem OperandShape.flowRelease : OperandShape.Statement .flowRelease :=
  fun _ => ⟨Nat.zero_le _, Nat.zero_le _, .inl rfl⟩
theorem OperandShape.writeZone : OperandShape.Statement .writeZone :=
  fun _ => ⟨Nat.zero_le _, Nat.zero_le _, .inl rfl⟩
theorem OperandShape.loadZone : OperandShape.Statement .loadZone :=
  fun _ => ⟨Nat.zero_le _, Nat.zero_le _, .inl rfl⟩
theorem OperandShape.saveWear : OperandShape.Statement .saveWear :=
  fun _ => ⟨Nat.zero_le _, Nat.zero_le _, .inl rfl⟩
theorem OperandShape.pageWriteComplete : OperandShape.Statement .pageWriteComplete :=
  fun _ => ⟨Nat.zero_le _, Nat.zero_le _, .inl rfl⟩
theorem OperandShape.loadComplete : OperandShape.Statement .loadComplete :=
  fun _ => ⟨Nat.zero_le _, Nat.zero_le _, .inl rfl⟩
theorem OperandShape.saveComplete : OperandShape.Statement .saveComplete :=
  fun _ => ⟨Nat.zero_le _, Nat.zero_le _, .inl rfl⟩
theorem OperandShape.selfCheck : OperandShape.Statement .selfCheck :=
  fun _ => ⟨Nat.zero_le _, Nat.zero_le _, .inl rfl⟩
theorem OperandShape.checkStepEnd (code : Code) : OperandShape.Statement (.checkStepEnd code) :=
  fun _ => ⟨Nat.zero_le _, Nat.zero_le _, .inl rfl⟩
theorem OperandShape.reset (pins : Straps) : OperandShape.Statement (.reset pins) :=
  fun _ => ⟨Nat.zero_le _, Nat.zero_le _, .inl rfl⟩
theorem OperandShape.flagSeen (b : Boom) (bits : List Bool) : OperandShape.Statement (.flagSeen b bits) := by
  intro h
  simp only [Instr.wellFormed, Bool.and_eq_true, decide_eq_true_eq] at h
  exact ⟨h.1, Nat.zero_le _, .inr rfl⟩
theorem OperandShape.frameStart (b : Boom) (bits : List Bool) : OperandShape.Statement (.frameStart b bits) := by
  intro h
  simp only [Instr.wellFormed, Bool.and_eq_true, decide_eq_true_eq] at h
  exact ⟨h.1, Nat.zero_le _, .inr rfl⟩
theorem OperandShape.syncLostToHunt (b : Boom) (bits : List Bool) : OperandShape.Statement (.syncLostToHunt b bits) := by
  intro h
  simp only [Instr.wellFormed, Bool.and_eq_true, decide_eq_true_eq] at h
  exact ⟨h.1, Nat.zero_le _, .inr rfl⟩
theorem OperandShape.powerOff : OperandShape.Statement .powerOff :=
  fun _ => ⟨Nat.zero_le _, Nat.zero_le _, .inl rfl⟩

end Sys2Proof.Laws
end

