-- ==== Sys2Proof/Laws/Ports.lean ====
section
/-! SUPPORT. What the processing of a request does: the spec lemma of `State.serve`, and what `State.finish` and `State.reject`
leave alone. -/
namespace Sys2Proof.Machine

variable (s : State) (p : Port)

/-! ## The end of processing -/

@[simp] theorem phase_finish (q : Request) (k : RequestKind) (c : ReplyCode) (x : List Byte) :
    (s.finish p q k c x).phase = s.phase := by cases p <;> rfl
@[simp] theorem resetNLow_finish (q : Request) (k : RequestKind) (c : ReplyCode) (x : List Byte) :
    (s.finish p q k c x).resetNLow = s.resetNLow := by cases p <;> rfl
@[simp] theorem straps_finish (q : Request) (k : RequestKind) (c : ReplyCode) (x : List Byte) :
    (s.finish p q k c x).straps = s.straps := by cases p <;> rfl
@[simp] theorem postFail_finish (q : Request) (k : RequestKind) (c : ReplyCode) (x : List Byte) :
    (s.finish p q k c x).postFail = s.postFail := by cases p <;> rfl
@[simp] theorem millis_finish (q : Request) (k : RequestKind) (c : ReplyCode) (x : List Byte) :
    (s.finish p q k c x).millis = s.millis := by cases p <;> rfl
@[simp] theorem params_finish (q : Request) (k : RequestKind) (c : ReplyCode) (x : List Byte) :
    (s.finish p q k c x).params = s.params := by cases p <;> rfl
@[simp] theorem left_finish (q : Request) (k : RequestKind) (c : ReplyCode) (x : List Byte) :
    (s.finish p q k c x).left = s.left := by cases p <;> rfl
@[simp] theorem right_finish (q : Request) (k : RequestKind) (c : ReplyCode) (x : List Byte) :
    (s.finish p q k c x).right = s.right := by cases p <;> rfl
@[simp] theorem arbiter_finish (q : Request) (k : RequestKind) (c : ReplyCode) (x : List Byte) :
    (s.finish p q k c x).arbiter = s.arbiter := by cases p <;> rfl
@[simp] theorem rowMap_finish (q : Request) (k : RequestKind) (c : ReplyCode) (x : List Byte) :
    (s.finish p q k c x).rowMap = s.rowMap := by cases p <;> rfl
@[simp] theorem holeLog_finish (q : Request) (k : RequestKind) (c : ReplyCode) (x : List Byte) :
    (s.finish p q k c x).holeLog = s.holeLog := by cases p <;> rfl
@[simp] theorem faultLog_finish (q : Request) (k : RequestKind) (c : ReplyCode) (x : List Byte) :
    (s.finish p q k c x).faultLog = s.faultLog := by cases p <;> rfl
@[simp] theorem monitor_finish (q : Request) (k : RequestKind) (c : ReplyCode) (x : List Byte) :
    (s.finish p q k c x).monitor = s.monitor := by cases p <;> rfl
@[simp] theorem mem_finish (q : Request) (k : RequestKind) (c : ReplyCode) (x : List Byte) :
    (s.finish p q k c x).mem = s.mem := by cases p <;> rfl
@[simp] theorem check_finish (q : Request) (k : RequestKind) (c : ReplyCode) (x : List Byte) :
    (s.finish p q k c x).check = s.check := by cases p <;> rfl
@[simp] theorem free_finish (q : Request) (k : RequestKind) (c : ReplyCode) (x : List Byte) :
    (s.finish p q k c x).free = s.free := by cases p <;> rfl
@[simp] theorem pending_finish (q : Request) (k : RequestKind) (c : ReplyCode) (x : List Byte) :
    (s.finish p q k c x).pending = s.pending := by cases p <;> rfl

@[simp] theorem boom_finish (q : Request) (k : RequestKind) (c : ReplyCode) (x : List Byte) (b : Boom) :
    (s.finish p q k c x).boom b = s.boom b := by cases p <;> cases b <;> rfl

/-- The port that asked stands in PENDING with the reply; a command has joined its recent-request list (R172, R176). -/
@[simp] theorem port_finish_same (q : Request) (k : RequestKind) (c : ReplyCode) (x : List Byte) :
    (s.finish p q k c x).port p =
      { s.port p with
        reply := .pending { code := c, payload := x }
        recent := if k.isCommand then appendCapped 4 (s.port p).recent (q.entry c) else (s.port p).recent } := by
  cases p <;> rfl

theorem port_finish_other {p r : Port} (h : r ≠ p) (q : Request) (k : RequestKind) (c : ReplyCode) (x : List Byte) :
    (s.finish p q k c x).port r = s.port r := port_modPort_other s h _

@[simp] theorem replied_finish (q : Request) (k : RequestKind) (c : ReplyCode) (x : List Byte) :
    (s.finish p q k c x).replied p c x := by simp [State.replied]

/-- The backdrop after a reply is settled by the backdrop before it. -/
theorem backdrop_finish_congr {s t : State} (h : t.backdrop = s.backdrop) (p : Port) (q : Request) (k : RequestKind)
    (c : ReplyCode) (x : List Byte) : (t.finish p q k c x).backdrop = (s.finish p q k c x).backdrop := by
  simp only [State.backdrop, Backdrop.mk.injEq, MasterPort.quiet, MasterPort.mk.injEq] at h
  cases p <;> simp only [State.finish, State.modPort, State.backdrop, MasterPort.quiet, Backdrop.mk.injEq, MasterPort.mk.injEq] <;>
    simp_all

/-! ## The processing of a request -/

/-- A request that passes tests 1 to 4 of R172 gets the answer of the block that owns it. -/
theorem serve_taken {s : State} {p : Port} {k : RequestKind} {q : Request} (h : s.taken p k q)
    (body : List Byte → State → Answer) :
    s.serve p k body =
      (body q.operands s).state.finish p q k (body q.operands s).code (body q.operands s).payload := by
  obtain ⟨h1, h2, h3⟩ := h
  unfold State.serve
  rw [h1]
  rcases h2 with h2 | h2 <;> simp [h2, h3]

/-- A request without the kind in its frame is not served. -/
theorem serve_none {s : State} {p : Port} {k : RequestKind} (h : s.held p k = none) (body : List Byte → State → Answer) :
    s.serve p k body = s := by
  simp [State.serve, h]

/-- On the port of a boom disabled by its pin every request but a read gets BOOM_ABSENT (R172, test 3). -/
theorem serve_absent {s : State} {p : Port} {k : RequestKind} {q : Request} (h : s.held p k = some q)
    (ha : s.absentPort p = true) (hr : k.isRead = false) (body : List Byte → State → Answer) :
    s.serve p k body = s.finish p q k .boomAbsent [] := by
  simp [State.serve, h, ha, hr]

/-- A length byte that is not the operand size of the kind gets RANGE (R172, test 4). -/
theorem serve_range {s : State} {p : Port} {k : RequestKind} {q : Request} (h : s.held p k = some q)
    (ha : s.absentPort p = false ∨ k.isRead = true) (hz : k.sizeOk p q = false) (body : List Byte → State → Answer) :
    s.serve p k body = s.finish p q k .range [] := by
  unfold State.serve
  rw [h]
  rcases ha with ha | ha <;> simp [ha, hz]

/-- A law that the block's answer keeps and a reply keeps holds after the processing. -/
theorem serve_keeps (I : State → Prop) {s : State} {p : Port} {k : RequestKind} (hs : I s)
    (hf : ∀ (t : State) (q : Request) (c : ReplyCode) (x : List Byte), I t → I (t.finish p q k c x))
    (body : List Byte → State → Answer) (hb : ∀ ops, I (body ops s).state) : I (s.serve p k body) := by
  unfold State.serve
  split
  · exact hs
  · split
    · exact hf _ _ _ _ hs
    · split
      · exact hf _ _ _ _ hs
      · exact hf _ _ _ _ (hb _)

/-! ## Frames and the replies of reads -/

theorem finish_read (s : State) (p : Port) (q : Request) (k : RequestKind) (h : k.isCommand = false) (c : ReplyCode) (x : List Byte) :
    s.finish p q k c x = s.onlyReply p c x := by
  simp [State.finish, State.onlyReply, h]

theorem sealFrame_length (b : List Byte) : (sealFrame b).length = 32 := by
  simp [sealFrame, List.length_take]

theorem sealFrame_crc (b : List Byte) : crc8 ((sealFrame b).take 31) = (sealFrame b).getD 31 0 := by
  have key : ∀ x : List Byte, x.length = 31 → crc8 ((x ++ [crc8 x]).take 31) = (x ++ [crc8 x]).getD 31 0 := by
    intro x hx
    rw [List.take_append_of_le_length (by omega), List.take_of_length_le (by omega), List.getD_eq_getElem?_getD,
      List.getElem?_append_right (by omega), hx]
    rfl
  exact key _ (by simp [List.length_take])

theorem sealFrame_take (b : List Byte) (h : b.length ≤ 31) : (sealFrame b).take b.length = b := by
  unfold sealFrame
  simp only []
  rw [List.take_append_of_le_length (by simp [List.length_take]; omega), List.take_take, Nat.min_eq_left h,
    List.take_append_of_le_length (Nat.le_refl _), List.take_length]

end Sys2Proof.Machine
end

