-- ==== Sys2Proof/Laws/Receiver.lean ====
section
/-! SUPPORT. What the receiver of a head link makes of a run of bits (R3 to R5): one event after the other, and what is left over held. -/
namespace Sys2Proof.Machine

/-- What is left of a run behind its last event brings nothing more: the receiver holds it. -/
theorem takeBits_quiet {l : HeadLink} {address : Nat} {bits : List Bool} (h : l.nextEvent address (l.line ++ bits) = none) (n : Nat) :
    HeadLink.takeBits address n l bits = l.hold (l.line ++ bits) := by
  cases n <;> simp [HeadLink.takeBits, h]

/-- The receiver takes the first event of a run, and then what is left over. -/
theorem takeBits_event {l m : HeadLink} {address : Nat} {bits rest : List Bool}
    (h : l.nextEvent address (l.line ++ bits) = some (m, rest)) (n : Nat) :
    HeadLink.takeBits address (n + 1) l bits = HeadLink.takeBits address n m rest := by
  simp [HeadLink.takeBits, h]

/-- A receiver with no bits to take stays as it was, in HUNT, SYNC or FRAME, behind an event that leaves no line. -/
theorem takeBits_done {m : HeadLink} {address : Nat} (h : m.line = []) (n : Nat) : HeadLink.takeBits address n m [] = m := by
  have e : m.nextEvent address (m.line ++ []) = none := by
    rw [h]
    unfold HeadLink.nextEvent
    cases m.receiver <;> rfl
  rw [takeBits_quiet e, h]
  unfold HeadLink.hold
  cases m
  subst h
  split <;> rfl

/-- A running link whose run ends with its first event stands as that event leaves it. -/
theorem receive_last {s : State} {b : Boom} {bits : List Bool} {m : HeadLink} (hr : (s.boom b).link.running = true)
    (h : (s.boom b).link.nextEvent (s.calib b).headAddress ((s.boom b).link.line ++ bits) = some (m, [])) (hm : m.line = []) :
    s.receive b bits = s.modLink b fun _ => m := by
  have e : HeadLink.takeBits (s.calib b).headAddress (2 * ((s.boom b).link.line.length + bits.length) + 2) (s.boom b).link bits = m := by
    rw [takeBits_event h, takeBits_done hm]
  unfold State.receive
  cases b <;> simp only [State.modLink, State.modBoom, State.boom] at * <;> simp [hr, e]

/-- A stopped link takes no bits (R17). -/
theorem receive_stopped {s : State} {b : Boom} {bits : List Bool} (hr : (s.boom b).link.running = false) : s.receive b bits = s := by
  unfold State.receive
  cases b <;> simp only [State.modLink, State.modBoom, State.boom] at * <;> simp [hr]

/-- Bits without an event are held. -/
theorem receive_quiet {s : State} {b : Boom} {bits : List Bool} (hr : (s.boom b).link.running = true)
    (h : (s.boom b).link.nextEvent (s.calib b).headAddress ((s.boom b).link.line ++ bits) = none) :
    s.receive b bits = s.modLink b fun l => l.hold (l.line ++ bits) := by
  unfold State.receive
  cases b <;> simp only [State.modLink, State.modBoom, State.boom] at * <;> simp [hr, takeBits_quiet h]

theorem lastBits_append (last x : List Bool) (b : Bool) :
    lastBits 8 (lastBits 8 (last ++ [b]) ++ x) = lastBits 8 (last ++ b :: x) := by
  unfold lastBits
  simp only [List.length_append, List.length_drop, List.length_cons, List.length_nil]
  rw [← List.singleton_append, ← List.append_assoc, ← List.drop_append_of_le_length (by simp; omega), List.drop_drop]
  congr 1
  · simp; omega
  · simp

/-- In HUNT the first flag ends the run: no earlier eight bits match, and what stands behind it is left over. -/
theorem findFlag_first : ∀ (n : Nat) (bits last : List Bool), 1 ≤ n → n ≤ bits.length →
    (∀ i, 1 ≤ i → i < n → lastBits 8 (last ++ bits.take i) ≠ flagBits) →
    lastBits 8 (last ++ bits.take n) = flagBits → findFlag last bits = some (bits.drop n)
  | 0, _, _, h, _, _, _ => absurd h (by omega)
  | n + 1, [], _, _, h, _, _ => by simp at h
  | 1, b :: bs, last, _, _, _, h => by simp only [List.take_succ_cons, List.take_zero] at h; simp [findFlag, h]
  | n + 2, b :: bs, last, _, hn, hi, h => by
    have h1 := hi 1 (by omega) (by omega)
    simp only [List.take_succ_cons, List.take_zero] at h1
    rw [findFlag]
    simp only [h1, if_false, List.drop_succ_cons]
    apply findFlag_first (n + 1) bs _ (by omega) (by simpa using hn)
    · intro i h1 h2
      rw [lastBits_append]
      have := hi (i + 1) (by omega) (by omega)
      simpa using this
    · rw [lastBits_append]
      simpa using h

/-- Data bits only join those collected: an abort, or the end of the run, loses none. -/
theorem scanLine_grows : ∀ (bits : List Bool) (ones : Nat) (acc : List Bool),
    (∀ data rest, scanLine ones acc bits = .abort data rest → acc.length ≤ data.length) ∧
      ∀ data, scanLine ones acc bits = .collecting data → acc.length ≤ data.length
  | [], ones, acc => by simp [scanLine]
  | true :: bs, ones, acc => by
    unfold scanLine
    split
    · exact ⟨fun d r h => Nat.le_trans (by simp) ((scanLine_grows bs _ _).1 d r h),
        fun d h => Nat.le_trans (by simp) ((scanLine_grows bs _ _).2 d h)⟩
    · split
      · exact scanLine_grows bs _ _
      · simp
  | false :: bs, ones, acc => by
    unfold scanLine
    split
    · exact ⟨fun d r h => Nat.le_trans (by simp) ((scanLine_grows bs _ _).1 d r h),
        fun d h => Nat.le_trans (by simp) ((scanLine_grows bs _ _).2 d h)⟩
    · split
      · exact scanLine_grows bs _ _
      · simp

/-- SYNC and FRAME agree on an abort before the eighth data bit (R3, R4). -/
theorem scanGroup_abort : ∀ (bits : List Bool) (ones : Nat) (acc seen data rest : List Bool), ones ≤ 6 → acc.length ≤ 7 →
    scanLine ones acc bits = .abort data rest → data.length < 8 → scanGroup ones acc.length seen bits = .abort rest
  | [], _, _, _, _, _, _, _, h, _ => by simp [scanLine] at h
  | bit :: bs, ones, acc, seen, data, rest, ho, ha, h, hd => by
    have grow := scanLine_grows bs
    rcases Nat.lt_or_ge ones 5 with h5 | h5
    · have e6 : ones ≠ 6 := by omega
      have e5 : ones ≠ 5 := by omega
      cases bit <;> simp only [scanLine, h5, if_true] at h <;>
        (have g := (grow _ _).1 _ _ h
         simp only [List.length_cons] at g
         have e7 : acc.length ≠ 7 := by omega
         simp only [scanGroup, e6, e5, e7, if_false]
         exact scanGroup_abort bs _ (_ :: acc) _ data rest (by simp; try omega) (by simp; omega) h hd)
    · rcases Nat.lt_or_ge ones 6 with h6 | h6
      · have e : ones = 5 := by omega
        subst e
        cases bit <;> simp [scanLine] at h <;> simp only [scanGroup] <;>
          exact scanGroup_abort bs _ acc _ data rest (by simp) ha h hd
      · have e : ones = 6 := by omega
        subst e
        cases bit <;> simp [scanLine] at h <;> simp [scanGroup, h]

/-- SYNC takes eight data bits for a first byte, and leaves over the line bits behind them (R3). -/
theorem scanGroup_byte : ∀ (bits : List Bool) (ones : Nat) (acc seen data : List Bool), ones ≤ 6 → acc.length ≤ 7 →
    scanLine ones acc bits = .collecting data → 8 ≤ data.length →
    ∃ group rest, scanGroup ones acc.length seen bits = .byte group rest ∧ group ++ rest = seen.reverse ++ bits
  | [], _, _, _, _, _, ha, h, hd => by
    simp only [scanLine, Scan.collecting.injEq] at h
    subst h
    simp at hd; omega
  | bit :: bs, ones, acc, seen, data, ho, ha, h, hd => by
    rcases Nat.lt_or_ge ones 5 with h5 | h5
    · have e6 : ones ≠ 6 := by omega
      have e5 : ones ≠ 5 := by omega
      by_cases e7 : acc.length = 7
      · exact ⟨(bit :: seen).reverse, bs, by simp [scanGroup, e6, e5, e7], by simp⟩
      · cases bit <;> simp only [scanLine, h5, if_true] at h <;>
          (simp only [scanGroup, e6, e5, e7, if_false]
           obtain ⟨g, r, h1, h2⟩ := scanGroup_byte bs _ (_ :: acc) (_ :: seen) data (by omega) (by simp; omega) h hd
           exact ⟨g, r, h1, by rw [h2]; simp⟩)
    · rcases Nat.lt_or_ge ones 6 with h6 | h6
      · have e : ones = 5 := by omega
        subst e
        cases bit <;> simp [scanLine] at h <;> simp only [scanGroup] <;>
          (obtain ⟨g, r, h1, h2⟩ := scanGroup_byte bs _ acc (_ :: seen) data (by omega) ha h hd
           exact ⟨g, r, h1, by rw [h2]; simp⟩)
      · have e : ones = 6 := by omega
        subst e
        cases bit <;> simp [scanLine] at h

/-- Eight data bits in SYNC bring FRAME, with every line bit behind the flag kept (R3). -/
theorem receive_start {s : State} {b : Boom} {bits data : List Bool} (hr : (s.boom b).link.running = true)
    (hs : (s.boom b).link.receiver = .sync) (h : scanLine 0 [] ((s.boom b).link.line ++ bits) = .collecting data)
    (hd : 8 ≤ data.length) :
    s.receive b bits = s.modLink b fun l => { l with receiver := .frame, line := l.line ++ bits } := by
  obtain ⟨g, r, h1, h2⟩ := scanGroup_byte _ 0 [] [] data (by omega) (by simp) h hd
  simp only [List.length_nil, List.reverse_nil, List.nil_append] at h1 h2
  have e1 : (s.boom b).link.nextEvent (s.calib b).headAddress ((s.boom b).link.line ++ bits) =
      some ({ (s.boom b).link with receiver := .frame, line := g }, r) := by simp [HeadLink.nextEvent, hs, h1]
  have e2 : HeadLink.nextEvent { (s.boom b).link with receiver := .frame, line := g } (s.calib b).headAddress (g ++ r) = none := by
    simp [HeadLink.nextEvent, h2, h]
  have e : HeadLink.takeBits (s.calib b).headAddress (2 * ((s.boom b).link.line.length + bits.length) + 2) (s.boom b).link bits =
      { (s.boom b).link with receiver := .frame, line := (s.boom b).link.line ++ bits } := by
    rw [takeBits_event e1, takeBits_quiet e2]
    simp [HeadLink.hold, h2]
  unfold State.receive
  cases b <;> simp only [State.modLink, State.modBoom, State.boom] at * <;> simp [hr, e]

/-! ## The bound on the events of a run -/

theorem findFlag_length : ∀ (bits last rest : List Bool), findFlag last bits = some rest → rest.length < bits.length
  | [], _, _, h => by simp [findFlag] at h
  | b :: bs, last, rest, h => by
    simp only [findFlag] at h
    split at h
    · cases h; simp
    · have := findFlag_length bs _ rest h
      simp only [List.length_cons]; omega

theorem scanLine_length : ∀ (bits : List Bool) (ones : Nat) (acc data rest : List Bool),
    (scanLine ones acc bits = .flag data rest ∨ scanLine ones acc bits = .abort data rest) → rest.length < bits.length
  | [], _, _, _, _, h => by simp [scanLine] at h
  | true :: bs, ones, acc, data, rest, h => by
    simp only [scanLine] at h
    split at h
    · have := scanLine_length bs _ _ data rest h; simp only [List.length_cons]; omega
    · split at h
      · have := scanLine_length bs _ _ data rest h; simp only [List.length_cons]; omega
      · simp only [reduceCtorEq, Scan.abort.injEq, false_or] at h; rw [← h.2]; simp
  | false :: bs, ones, acc, data, rest, h => by
    simp only [scanLine] at h
    split at h
    · have := scanLine_length bs _ _ data rest h; simp only [List.length_cons]; omega
    · split at h
      · have := scanLine_length bs _ _ data rest h; simp only [List.length_cons]; omega
      · simp only [reduceCtorEq, Scan.flag.injEq, or_false] at h; rw [← h.2]; simp

theorem scanGroup_length : ∀ (bits : List Bool) (ones k : Nat) (seen : List Bool),
    (∀ rest, scanGroup ones k seen bits = .flag rest ∨ scanGroup ones k seen bits = .abort rest → rest.length < bits.length) ∧
      ∀ group rest, scanGroup ones k seen bits = .byte group rest → group ++ rest = seen.reverse ++ bits
  | [], _, _, _ => by simp [scanGroup]
  | bit :: bs, ones, k, seen => by
    have ih := scanGroup_length bs
    simp only [scanGroup]
    split
    · split <;> simp
    · split
      · exact ⟨fun r h => Nat.lt_succ_of_lt ((ih _ _ _).1 r h), fun g r h => by simpa using (ih _ _ _).2 g r h⟩
      · split
        · simp +contextual
        · exact ⟨fun r h => Nat.lt_succ_of_lt ((ih _ _ _).1 r h), fun g r h => by simpa using (ih _ _ _).2 g r h⟩

/-- What bounds the events that a receiver can find in a run: each takes bits away, or brings FRAME. -/
def HeadLink.events (l : HeadLink) (run : List Bool) : Nat := 2 * run.length + if l.receiver = .frame then 0 else 1

theorem nextEvent_events {l m : HeadLink} {address : Nat} {run rest : List Bool} (h : l.nextEvent address run = some (m, rest)) :
    m.events (m.line ++ rest) < l.events run := by
  unfold HeadLink.nextEvent at h
  split at h <;> rename_i hr
  · rw [Option.map_eq_some_iff] at h
    obtain ⟨r, h1, h2⟩ := h
    cases h2
    have := findFlag_length _ _ _ h1
    simp [HeadLink.events, hr]; omega
  · have hg := scanGroup_length run 0 0 []
    split at h
    · cases h
    · cases h; rename_i e; have := hg.1 _ (.inl e); simp [HeadLink.events, hr]; omega
    · cases h; rename_i e; have := hg.1 _ (.inr e); simp [HeadLink.events, hr]; omega
    · cases h; rename_i e; have := congrArg List.length (hg.2 _ _ e); simp [HeadLink.events, hr] at this ⊢; omega
  · split at h
    · cases h
    · cases h; rename_i e; have := scanLine_length _ _ _ _ _ (.inl e); simp [HeadLink.events, hr]; omega
    · cases h; rename_i e; have := scanLine_length _ _ _ _ _ (.inr e); simp [HeadLink.events, hr, HeadLink.abort]; omega

/-- Any two bounds that suffice give the same. -/
theorem takeBits_enough (address : Nat) : ∀ (n k : Nat) (l : HeadLink) (bits : List Bool), l.events (l.line ++ bits) ≤ n →
    l.events (l.line ++ bits) ≤ k → HeadLink.takeBits address n l bits = HeadLink.takeBits address k l bits := by
  intro n
  induction n with
  | zero =>
    intro k l bits hn _
    have hz : l.nextEvent address (l.line ++ bits) = none := by
      cases h : l.nextEvent address (l.line ++ bits) with
      | none => rfl
      | some e => have := nextEvent_events (rest := e.2) (m := e.1) h; omega
    rw [takeBits_quiet hz, takeBits_quiet hz]
  | succ n ih =>
    intro k l bits hn hk
    cases h : l.nextEvent address (l.line ++ bits) with
    | none => rw [takeBits_quiet h, takeBits_quiet h]
    | some e =>
      have := nextEvent_events (rest := e.2) (m := e.1) h
      cases k with
      | zero => omega
      | succ k => rw [takeBits_event h, takeBits_event h]; exact ih k _ _ (by omega) (by omega)

/-- A run is received event after event: what stands behind an event is received from there. -/
theorem receive_event {s : State} {b : Boom} {bits rest : List Bool} {m : HeadLink} (hr : (s.boom b).link.running = true)
    (hm : m.running = true)
    (h : (s.boom b).link.nextEvent (s.calib b).headAddress ((s.boom b).link.line ++ bits) = some (m, rest)) :
    s.receive b bits = (s.modLink b fun _ => m).receive b rest := by
  have hc : (s.modLink b fun _ => m).calib b = s.calib b := by cases b <;> rfl
  have e : HeadLink.takeBits (s.calib b).headAddress (2 * ((s.boom b).link.line.length + bits.length) + 2) (s.boom b).link bits =
      HeadLink.takeBits (s.calib b).headAddress (2 * (m.line.length + rest.length) + 2) m rest := by
    have := nextEvent_events h
    rw [takeBits_event h]
    apply takeBits_enough
    · have hl : (s.boom b).link.events ((s.boom b).link.line ++ bits) ≤ 2 * ((s.boom b).link.line.length + bits.length) + 1 := by
        simp only [HeadLink.events, List.length_append]; split <;> omega
      omega
    · simp only [HeadLink.events, List.length_append]; split <;> omega
  cases b <;> simp_all [State.receive, State.modLink, State.modBoom, State.boom]

end Sys2Proof.Machine
end

