-- ==== Sys2Proof/Laws/Tick.lean ====
section
/-! SUPPORT. What a millisecond puts into the queue: every expiry that is due, once, in the order that the free values give. -/
namespace Sys2Proof.Machine

/-- A list with one of its entries in front. -/
theorem getElem_cons_perm {α : Type} : ∀ (l : List α) (i : Nat) (h : i < l.length), (l[i] :: l.eraseIdx i).Perm l
  | a :: l, 0, _ => .refl _
  | a :: l, i + 1, h => ((List.Perm.swap _ _ _)).trans ((getElem_cons_perm l i (by simpa using h)).cons a)

/-- The order that the free values give keeps each command once. -/
theorem freeOrder_perm : ∀ (k n : Nat) (cs : List Instr), cs.length ≤ k → (freeOrder k n cs).Perm cs
  | 0, _, cs, h => by
    have : cs = [] := List.length_eq_zero_iff.1 (by omega)
    subst this
    exact .nil
  | _ + 1, _, [], _ => .nil
  | _ + 1, _, [c], _ => .refl _
  | k + 1, n, c :: d :: cs, h => by
    have hi : Config.dueOrder n % (cs.length + 2) < (c :: d :: cs).length := Nat.mod_lt _ (by omega)
    simp only [freeOrder]
    rw [List.getElem?_eq_getElem hi]
    have hl : ((c :: d :: cs).eraseIdx (Config.dueOrder n % (cs.length + 2))).length ≤ k := by
      rw [List.length_eraseIdx_of_lt hi]
      simp only [List.length_cons] at h ⊢
      omega
    refine ((freeOrder_perm k (n + 1) _ hl).cons _).trans ?_
    exact getElem_cons_perm _ _ hi

/-- A command stands among those due exactly if it is the one named and due. -/
@[simp] theorem mem_dueCommand (due : Bool) (c d : Instr) : d ∈ dueCommand due c ↔ d = c ∧ due = true := by
  unfold dueCommand
  split <;> simp_all

/-- A timer stands at its limit. -/
theorem reached_iff (t : Option Nat) (limit : Nat) : reached t limit = true ↔ ∃ n, t = some n ∧ limit ≤ n := by
  cases t <;> simp [reached]

/-- The between-stage timer stands at the limit of its code (R93): none for 0, 5 s steps to 240, whole minutes above. -/
theorem waitTimeoutDue_iff (s : State) (b : Boom) : s.waitTimeoutDue b = true ↔
    (s.boom b).ctl.state.waitsBetween = true ∧ 0 < s.params.plan.betweenCode ∧ ∃ n, (s.boom b).ctl.betweenStage = some n ∧
      (if s.params.plan.betweenCode ≤ 240 then s.params.plan.betweenCode * 5000 else (s.params.plan.betweenCode - 240) * 60000) ≤ n := by
  simp only [State.waitTimeoutDue, betweenLimit]
  by_cases h0 : s.params.plan.betweenCode = 0
  · simp [h0]
  · have hp : 0 < s.params.plan.betweenCode := by omega
    by_cases h1 : s.params.plan.betweenCode ≤ 240 <;> simp [h0, h1, hp, reached_iff]

/-- A page write has run its 5 ms (R187). -/
theorem pageDue_iff (m : MemoryController) : m.pageDue = true ↔ (∃ pages, m.op = .write pages) ∧ 5 ≤ m.opTimer := by
  unfold MemoryController.pageDue; split <;> simp_all

/-- A load has run its 2 ms (R188). -/
theorem loadDue_iff (m : MemoryController) : m.loadDue = true ↔ (∃ z, m.op = .load z) ∧ 2 ≤ m.opTimer := by
  unfold MemoryController.loadDue; split <;> simp_all

/-- A save has run its 5 ms (R189). -/
theorem saveDue_iff (m : MemoryController) : m.saveDue = true ↔ (∃ page, m.op = .save page) ∧ 5 ≤ m.opTimer := by
  unfold MemoryController.saveDue; split <;> simp_all

/-- The expiries of one boom that are due (R8, R84, R87, R90, R92, R93). -/
theorem mem_boomDue (s : State) (b : Boom) (c : Instr) : c ∈ s.boomDue b ↔
    (c = .pollExpiry b ∧ (s.boom b).link.pollDue = true) ∨ (c = .noContact b ∧ s.noContactDue b = true) ∨
      (c = .holdTimeElapsed b ∧ s.holdDue b = true) ∨ (c = .torqueTimeout b ∧ s.torqueTimeoutDue b = true) ∨
      (c = .spinLate b ∧ s.spinLateDue b = true) ∨ (c = .mixIncomplete b ∧ s.mixIncompleteDue b = true) ∨
      (c = .torqueMissed b ∧ s.torqueMissedDue b = true) ∨ (c = .waitTimeout b ∧ s.waitTimeoutDue b = true) := by
  simp [State.boomDue]

/-- The expiries that are due. -/
theorem mem_due (s : State) (c : Instr) : c ∈ s.due ↔
    (∃ b, c ∈ s.boomDue b) ∨ (c = .roundStart ∧ s.monitor.roundDue = true) ∨ (c = .pageWriteComplete ∧ s.mem.pageDue = true) ∨
      (c = .loadComplete ∧ s.mem.loadDue = true) ∨ (c = .saveComplete ∧ s.mem.saveDue = true) := by
  have hb : (∃ b, c ∈ s.boomDue b) ↔ c ∈ s.boomDue .left ∨ c ∈ s.boomDue .right :=
    ⟨fun ⟨b, h⟩ => by cases b <;> simp [h], fun h => h.elim (⟨_, ·⟩) (⟨_, ·⟩)⟩
  rw [hb]
  simp [State.due, or_assoc]

theorem nodup_dueCommand (due : Bool) (c : Instr) : (dueCommand due c).Nodup := by unfold dueCommand; split <;> simp

/-- Every expiry that is due is due once. -/
theorem nodup_due (s : State) : s.due.Nodup := by
  have hb : ∀ b, (s.boomDue b).Nodup := by
    intro b
    simp only [State.boomDue, List.nodup_append, nodup_dueCommand, mem_dueCommand, List.mem_append]
    simp only [true_and]
    refine ⟨⟨⟨⟨⟨⟨?_, ?_⟩, ?_⟩, ?_⟩, ?_⟩, ?_⟩, ?_⟩ <;> (intro a ha d hd; rintro rfl; revert ha hd; simp; intros; simp_all)
  simp only [State.due, List.nodup_append, hb, nodup_dueCommand, mem_dueCommand, List.mem_append, mem_boomDue]
  simp only [true_and]
  grind

end Sys2Proof.Machine
end

