-- ==== Sys2Proof/Tests/Slice0.lean ====
section
/-! SUPPORT. Tests: the checks of WellFormed, the manual's worked cases, and for each statement with hypotheses a state and operands
that meet them, clause by clause and at the ends of the ranges. -/
namespace Sys2Proof.Tests

open Sys2Proof.Machine

set_option Elab.async false

/-! ## WellFormed refuses an ill-formed command -/

theorem test_frame_close_needs_a_final_zero : (Instr.frameClose .left [false, true]).wellFormed = false := by decide
theorem test_frame_abort_needs_a_final_one : (Instr.frameAbort .left [true, false]).wellFormed = false := by decide
theorem test_flag_seen_needs_the_flag : (Instr.flagSeen .left [false, true, true, true, true, true, true, true]).wellFormed = false := by
  decide
theorem test_frame_start_needs_a_bit : (Instr.frameStart .left []).wellFormed = false := by decide
theorem test_a_run_has_a_greatest_length : (Instr.frameStart .left (List.replicate 40961 false)).wellFormed = false := by
  simp only [Instr.wellFormed, maxLineBits, List.length_replicate, show ¬ 40961 ≤ 40960 by decide, decide_false, Bool.false_and]
theorem test_a_transfer_has_a_greatest_length : (Instr.transferEnd .left (List.replicate 32769 false)).wellFormed = false := by
  simp only [Instr.wellFormed, maxTransferBits, List.length_replicate, show ¬ 32769 ≤ 32768 by decide, decide_false]
theorem test_sync_loss_needs_a_final_one : (Instr.syncLostToHunt .left (List.replicate 8 false)).wellFormed = false := by decide
theorem test_well_formed_commands :
    (Instr.flagSeen .left flagBits).wellFormed = true ∧ (Instr.transferEnd .left [true, false]).wellFormed = true ∧
      (Instr.powerOn).wellFormed = true := by decide

/-! ## The manual's worked cases -/

/-- The slice of section 3.8, with the samples that answered. -/
def workedSlice (n : Nat) : ClosedSlice :=
  { top := 0, bottom := 8000, sf := n * 2250, sr := n * 2000000, n, nSpan := 200, saturated := false }

/-- Section 3.8: energies, SE10 and hardness with a new bit. -/
theorem test_worked_slice_new_bit :
    measureSlice Zone1.builtIn.consts (Calib.builtIn .left) (crOf 25) 256 (workedSlice 200) =
      { ef := 180000, er := 2094395, se10 := 3969, w := 256, sec := 3969, h := 126, raw := .hard } := by decide +kernel

/-- Section 3.8: a worn bit after 65 m, W 282. -/
theorem test_worked_slice_worn_bit :
    measureSlice Zone1.builtIn.consts (Calib.builtIn .left) (crOf 25) (wearFactor 6500 40) (workedSlice 200) =
      { ef := 180000, er := 2094395, se10 := 3969, w := 282, sec := 3603, h := 114, raw := .firm } := by decide +kernel

/-- Section 3.8: ten polls missed leave the energies as they were. -/
theorem test_worked_slice_missed_polls :
    feedEnergy 800 (workedSlice 190) = 180000 ∧ rotationEnergy (crOf 25) (workedSlice 190) = 2094395 ∧
      (workedSlice 190).isPartial = true := by decide +kernel

/-- Section 3.8: the class given at H 114 over each open layer. -/
theorem test_worked_given_classes :
    [none, some .hard, some .firm, some .soft, some .void, some .unmeasured].map (givenClass Zone1.builtIn.consts 114) =
      [.firm, .hard, .firm, .firm, .firm, .firm] := by decide

/-- A slice of 10 mm with a hardness, or without samples, laid on a list. -/
def layOn (layers : List Layer) (top : Nat) (h : Option Nat) : List Layer :=
  let g := match h with
    | some h => givenClass Zone1.builtIn.consts h (layers.getLast?.map Layer.ground)
    | none => .unmeasured
  (placeSlice 3 layers
    { top, bottom := top + 8000, ground := g, slices := 1, measured := if h.isSome then 1 else 0, sumH := h.getD 0
      isPartial := false, saturated := false }).layers

/-- Section 3.9: the layer list of ten slices from the collar. -/
theorem test_worked_layer_list :
    (([some 70, some 72, some 47, some 130, some 60, some 8, some 15, some 40, none, some 49].zipIdx.foldl
      (fun ls p => layOn ls (8000 * p.2) p.1) []).map fun l => (l.ground, l.bottom / 800, l.slices, l.sumH)) =
      [(.firm, 50, 5, 379), (.void, 70, 2, 23), (.soft, 80, 1, 40), (.unmeasured, 90, 1, 0), (.soft, 100, 1, 49)] := by
  decide +kernel

/-- The full list of section 3.10: classes and slice counts, 10 mm a slice. -/
def fullList : List Layer :=
  ([(Ground.firm, 12), (.soft, 3), (.hard, 20), (.void, 1), (.firm, 4), (.soft, 2), (.firm, 6), (.unmeasured, 5), (.hard, 9),
    (.soft, 2), (.hard, 7), (.void, 2), (.firm, 5), (.hard, 3), (.soft, 4), (.firm, 2)] : List (Ground × Nat)).foldl
    (fun ls p =>
      let top := (ls.getLast?.map Layer.bottom).getD 0
      ls ++ [{ top, bottom := top + 8000 * p.2, ground := p.1, slices := p.2, measured := p.2, sumH := 0, isPartial := false
               saturated := false }]) []

/-- Section 3.10: layers 5 to 7 become one FIRM layer of 12 slices, and a HARD layer opens as the fifteenth. -/
theorem test_worked_merge :
    ((layOn fullList 696000 (some 140)).map fun l => (l.ground, l.slices)) =
      [(.firm, 12), (.soft, 3), (.hard, 20), (.void, 1), (.firm, 12), (.unmeasured, 5), (.hard, 9), (.soft, 2), (.hard, 7),
        (.void, 2), (.firm, 5), (.hard, 3), (.soft, 4), (.firm, 2), (.hard, 1)] := by decide +kernel

/-- A layer of a class between two depths in mm. -/
def layerOf (g : Ground) (top bottom : Nat) : Layer :=
  { top := top * 800, bottom := bottom * 800, ground := g, slices := (bottom - top) / 10, measured := (bottom - top) / 10
    sumH := 0, isPartial := false, saturated := false }

/-- Section 4.11: the evaluation after the first drilling end. -/
theorem test_worked_evaluation :
    evaluate Zone5.builtIn 25 [layerOf .firm 0 410, layerOf .soft 410 520, layerOf .hard 520 1400, layerOf .void 1400 1420]
      1136000 0 .stop =
      { evaluations := 1, reason := .stop, d := 1420, bondTop := 820, lb := 600, competent := 580, voidLen := 20, softLen := 0
        unmeasuredLen := 0, verdict := .extraResin, vNeed := 177800, unclamped := 1, cartridges := 1, resinCapped := false
        rMix := 30, mixTarget := 900000, pTq := 8000 } := by decide +kernel

/-- The grants of a list of default demands. -/
def grants (q : Nat) (ds : List (Port × DemandKind)) : List Nat :=
  (allocate q (ds.map fun d => newDemand Zone5.builtIn d.1 d.2)).map Demand.grant

/-- R111: an older TORQUE and a younger SPIN at 900; SPIN and HOLD at 675, in either order. -/
theorem test_worked_critical_grants :
    grants 900 [(.left, .torque), (.right, .spin)] = [450, 0] ∧ grants 675 [(.left, .spin), (.right, .hold)] = [600, 0] ∧
      grants 675 [(.right, .hold), (.left, .spin)] = [100, 0] := by decide

/-- R112: both machine entries at 1,200 and at 900, in either order. -/
theorem test_worked_machine_grants :
    grants 1200 [(.machine, .tram), (.machine, .support)] = [900, 300] ∧
      grants 900 [(.machine, .tram), (.machine, .support)] = [900, 0] ∧
      grants 900 [(.machine, .support), (.machine, .tram)] = [300, 500] := by decide

/-- Section 9.7: normalised BIT_WEAR at W 471 and 472; section 9.8: FEED_ZERO at 383 and LINK_QUALITY at 39. -/
theorem test_worked_normalised_values :
    normBitWear 471 = 41 ∧ normBitWear 472 = 40 ∧ normFeedZero 383 = 60 ∧ normLinkQuality 39 = 97 ∧ wearFactor 54000 40 = 472 := by
  decide

/-- The catalogue's check values of the two frame checks of R2 and R169 over the nine ASCII digits. -/
theorem test_check_values :
    let digits : List Byte := [0x31, 0x32, 0x33, 0x34, 0x35, 0x36, 0x37, 0x38, 0x39]
    bytesOfBits (checkBits (digits.flatMap bitsLsb)) = [0x6E, 0x90] ∧ crc8 digits = 0xF4 := by decide +kernel

/-- R19: from 65,530 to 4 is a delta of 10. -/
theorem test_encoder_delta_wraps : encoderDelta (some 65530) 4 = 10 ∧ isGlitch 2000 = false ∧ isGlitch (-2001) = true := by decide

/-- R20: a depth of −1 unit is −1 mm, one of 799 units 0 mm. -/
theorem test_depth_rounds_down : (-1 : Int) / 800 = -1 ∧ (799 : Int) / 800 = 0 := by decide

/-- R93: the codes of the between-stage limit. -/
theorem test_between_codes : [0, 24, 240, 241, 251].map betweenLimit = [none, some 120000, some 1200000, some 60000, some 660000] := by
  decide

/-! ## Witnesses: small states -/

/-- An operating part with both booms enabled, the support set, the warm-up over and the monitor asleep. -/
def bench : State :=
  { State.reset with
    phase := .operating
    straps := { leftEnabled := true, rightEnabled := true, fast := false }
    arbiter := { qAvail := 1200, demands := [] }
    rowMap := { RowMap.rowZero builtInPlan with supportSet := true }
    monitor := { State.reset.monitor with round := .sleeping, sleepLimit := 50, warming := false, warmup := 2 } }

/-- A plan of 1,800 mm in good ground. -/
def goodPlan : Anchorage :=
  { evaluations := 1, reason := .depthReached, d := 1800, bondTop := 1200, lb := 600, competent := 600, voidLen := 0
    softLen := 0, unmeasuredLen := 0, verdict := .good, vNeed := 154800, unclamped := 1, cartridges := 1, resinCapped := false
    rMix := 30, mixTarget := 900000, pTq := 8000 }

/-- The bench with the left boom at a state of a hole in slot 2, its link up. -/
def holed (st : BoomState) (run : Option RunCondition) (f : BoomUnit → BoomUnit) : State :=
  ({ bench with rowMap := bench.rowMap.mapSlots fun sl => if sl.number = 2 then { sl with state := .claimed .left } else sl }).modBoom
    .left fun u => f
      { u with
        link := { u.link with running := true, state := .up, stopLatch := false, receiver := .frame, pollTimer := 2 }
        tracker := { u.tracker with contactSeen := true, encoderRef := some 100 }
        anchorage := some goodPlan
        ctl := { u.ctl with state := st, run, firstRun := run == some RunCondition.running, hole := some (HoleRecord.start 0 2 .left 1800) } }

/-- The state with demands in the list. -/
def demanding (s : State) (ds : List Demand) : State := { s with arbiter := { s.arbiter with demands := ds } }

/-- A demand granted in full. -/
def granted (p : Port) (k : DemandKind) : Demand :=
  { newDemand Zone5.builtIn p k with grant := (newDemand Zone5.builtIn p k).demand }

/-- A request as a master sends it. -/
def request (code : Byte) (payload : List Byte) : Request := { frame := requestFrame code payload, ended := 5 }

/-- A port with a request in processing. -/
def asked (s : State) (p : Port) (code : Byte) (payload : List Byte) : State :=
  s.modPort p fun port => { port with reply := .processing (request code payload) }

/-- The payload of a sample. -/
def sampleBytes (feed rotation speed count switches cartridges : Nat) : List Byte :=
  bytesLE 2 feed ++ bytesLE 2 rotation ++ bytesLE 2 speed ++ bytesLE 2 count ++ bytesLE 1 switches ++ bytesLE 1 cartridges ++ [7]

/-- The left FIFO with entries in it. -/
def queued (s : State) (es : List FifoEntry) : State := s.modLink .left fun l => { l with fifo := es }

/-- A sample that answers. -/
def answering (p : List Byte) : FifoEntry := { status := .good, kind := some 0x10, payload := some p, answer := true }

/-- The sample at the front of a queue made by `answering`. -/
theorem next_sample {s : State} {p : List Byte} (h : (s.boom .left).link.fifo = [answering p]) (hl : p.length = 11) :
    s.nextSample .left (readSample p) := ⟨p, [], h, hl, rfl⟩

/-! ## Witnesses: the step and the laws -/

theorem test_witness_step : ∃ (s : State) (c : Instr) (rest : List Instr), s.pending = c :: rest :=
  ⟨{ bench with pending := [.opening, .powerOff] }, .opening, [.powerOff], rfl⟩

theorem test_witness_millisecond : bench.pending = [] ∧ bench.phase = .operating := ⟨rfl, rfl⟩

/-- A drilling boom with its demand granted, for the laws. -/
def drillingBench : State :=
  (demanding (holed .drilling (some .running) id) [granted .left .drill]).modLink .right fun l => { l with running := true }

theorem test_witness_laws :
    drillingBench.flowSound ∧ drillingBench.memorySound ∧ drillingBench.imageCurrent ∧ drillingBench.logsSound ∧ drillingBench.demandsSound ∧
      drillingBench.headsSound ∧ drillingBench.listsSound ∧ (∀ b, (drillingBench.boom b).layersSound) ∧
      ∃ t, step drillingBench = .next t := by
  refine ⟨by unfold State.flowSound; decide +kernel, ⟨by decide +kernel, by decide +kernel⟩, fun _ => rfl,
    ⟨⟨by decide +kernel, by decide +kernel, by decide +kernel⟩, ⟨by decide +kernel, by decide +kernel, by decide +kernel⟩⟩,
    fun b => by cases b <;> decide +kernel, fun b => ⟨by cases b <;> decide +kernel, ?_⟩, fun p => by cases p <;> decide +kernel,
    fun b => ?_, _, rfl⟩
  · cases b <;> exact ⟨by decide +kernel, by decide +kernel, by decide +kernel⟩
  · cases b
    · exact ⟨by decide, nofun, nofun, by decide, nofun, by decide +kernel⟩
    · exact ⟨by decide, nofun, nofun, by decide, nofun, by decide +kernel⟩

/-- A drilling boom whose grant reaches its floor is RUNNING; one below it is not. -/
theorem test_witness_grants :
    drillingBench.grantsRun ∧ (demanding (holed .drilling (some .paused) id) [{ granted .left .drill with grant := 0 }]).grantsRun := by
  have hf : ∀ k, 0 < (flowOf Zone5.builtIn k).floor := by intro k; cases k <;> decide
  refine ⟨⟨fun k => hf k, by decide +kernel, fun b d h => ?_⟩, ⟨fun k => hf k, by decide +kernel, fun b d h => ?_⟩⟩
  all_goals
    cases b
    · obtain rfl := Option.some.inj h
      decide +kernel
    · exact nomatch h

/-- A drilling boom and an idle one keep the laws that tie the blocks together. -/
theorem test_witness_lawful : drillingBench.lawful := by
  refine ⟨fun b => by cases b <;> unfold State.boomLawful <;> decide +kernel, ?_, by unfold State.phaseLawful; exact fun h => absurd rfl h,
    fun b => by cases b <;> decide +kernel⟩
  refine ⟨by decide +kernel, by decide +kernel, by decide +kernel, nofun, nofun, by decide +kernel⟩

/-- The cause flags of a disabled boom's port stand clear. -/
theorem test_witness_disabled_flags :
    let s : State := { bench with straps := { bench.straps with leftEnabled := false } }
    ∃ t, step s = .next t ∧ t.enabled .left = false ∧ (s.port .left).causes = Causes.clear := ⟨_, rfl, by decide +kernel, by decide +kernel⟩

theorem test_witness_depth : ∃ t, exec (.fifoTake .left) drillingBench = .next t ∧ (drillingBench.boom .left).ctl.state ≠ .idle ∧
    (t.boom .left).ctl.state ≠ .idle := ⟨_, rfl, by decide +kernel, by decide +kernel⟩

theorem test_witness_logs : (∃ t, exec .roundStart bench = .next t) ∧ HoleLog.empty.places.length = 32 ∧ HoleLog.empty.pointer ≤ 32 ∧
    ({ HoleLog.empty with pointer := 32 } : HoleLog).pointer ≤ 32 ∧ FaultLog.empty.places.length = 8 ∧
    ({ FaultLog.empty with pointer := 8 } : FaultLog).pointer ≤ 8 := ⟨⟨_, rfl⟩, by decide +kernel⟩

/-! ## Witnesses: resets and start-up -/

theorem test_witness_power : ∀ c ∈ ({ bench.mem with op := .save [(0xD0, 1)] } : MemoryController).op.pageInProgress, c.1 ≠ 0xD1 := by
  decide

theorem test_witness_cut_page :
    Memory.wf [(3, 1)] = true ∧ (([(3, 7), (4, 0)] : List Host.Cell).map Prod.fst).Nodup ∧ ((3, 7) : Host.Cell) ∈ [(3, 7), (4, 0)] := by
  decide

theorem test_witness_reset_n : bench.resetNLow = false ∧ bench.phase ≠ .off ∧
    ({ bench with resetNLow := true, phase := .inReset } : State).phase = .inReset := by decide +kernel

theorem test_witness_start_up : State.reset.phase = .selfTest ∧ State.reset.mem.zones.length = 7 ∧
    State.reset.monitor.channels.length = 6 ∧ State.reset.faultLog.count ≤ 65535 := by decide +kernel

theorem test_witness_opening : (∀ a, ({ bench with phase := .zonesRead a } : State).phase = .zonesRead a) ∧ bench.arbiter.demands = [] ∧
    ∀ a, ({ bench with phase := .zonesRead a } : State).linksLawful :=
  ⟨fun _ => rfl, rfl, fun a b => by cases b <;> exact ⟨by cases a <;> decide +kernel, fun _ => by cases a <;> decide +kernel⟩⟩

/-- A row that a RESET request finds ready, with a worn bit, raises ROW_READY and WEAR at the opening (R129, R163, R181). -/
theorem test_opening_raises_what_stands :
    (match exec .opening
        (({ bench with phase := .zonesRead true, rowMap := bench.rowMap.mapSlots fun sl => { sl with state := .waived } }).modBoom .left
          fun u => { u with wear := { u.wear with bitWear := { u.wear.bitWear with crossed := true } } }) with
      | .next t => (t.portMachine.causes.c3, t.portMachine.causes.c7, t.portLeft.causes.c6, t.portRight.causes.c6)
      | _ => (false, false, false, true)) = (true, true, true, false) := by decide +kernel

theorem test_witness_reset_request :
    (∀ s ∈ [asked (holed .drilling (some .running) id) .machine 0x4E [], asked (holed .set none id) .machine 0x4E [],
        asked { bench with check := { running := true, remaining := 7, last := none, c1 := 655, stepTimer := 2 } } .machine 0x4E []],
      s.held .machine .reset = some (request 0x4E []) ∧ s.absentPort .machine = false ∧
        RequestKind.reset.sizeOk .machine (request 0x4E []) = true ∧ s.monitor.channels.length = 6 ∧ s.mem.zones.length = 7) ∧
      ((holed .drilling (some .running) id).boom .left).ctl.hole = some (HoleRecord.start 0 2 .left 1800) ∧
      (bench.boom .left).ctl.hole = none := by decide +kernel

/-! ## Witnesses: the head links -/

/-- The left link with a receiver state and line bits. -/
def receiving (r : ReceiverState) (line : List Bool) (f : HeadLink → HeadLink) : State :=
  bench.modLink .left fun l => f { l with running := true, receiver := r, line }

/-- Eight data bits of 0. -/
def zeros (n : Nat) : List Bool := List.replicate n false

theorem test_witness_receiver :
    ((receiving .hunt [] id).boom .left).link.receiver = .hunt ∧
      (∀ run ∈ [zeros 3 ++ flagBits, zeros 3 ++ flagBits ++ flagBits],
        11 ≤ run.length ∧ (run.take 11).drop (11 - 8) = flagBits ∧ ∀ i, i < 11 → (run.take i).drop (i - 8) ≠ flagBits) ∧
      scanLine 0 [] (zeros 8) = .collecting (zeros 8) ∧ scanLine 0 [] (List.replicate 7 true) = .abort (List.replicate 5 true) [] ∧
      scanLine 0 [] (zeros 8 ++ List.replicate 7 true) = .abort (zeros 8 ++ List.replicate 5 true) [] := by decide +kernel

/-- R4: a flag whose 0 was removed as an inserted one leaves all eight data bits before it. -/
theorem test_flag_behind_a_removed_zero :
    scanLine 0 [] (zeros 3 ++ List.replicate 5 true ++ flagBits) = .flag (zeros 3 ++ List.replicate 5 true) [] := by decide

/-- The line bits of a frame as the left head sends it, flag included. -/
def sentBits (kind : Byte) (payload : List Byte) : List Bool :=
  insertZeros 0 (((0x31 :: kind :: payload) ++ bytesOfBits (checkBits ((0x31 :: kind :: payload).flatMap bitsLsb))).flatMap bitsLsb) ++
    flagBits

theorem test_witness_good_frame :
    let s := receiving .frame ((sentBits 0x10 (sampleBytes 0 0 0 0 0 0)).take 8) fun l => { l with fifo := List.replicate 3 (answering []) }
    (s.boom .left).link.running = true ∧ (s.boom .left).link.receiver = .frame ∧ (s.boom .left).link.fifo.length < 4 ∧
      BitVec.ofNat 8 (s.calib .left).headAddress = 0x31 ∧ (sampleBytes 0 0 0 0 0 0).length ≤ 20 ∧
      (s.boom .left).link.line ++ (sentBits 0x10 (sampleBytes 0 0 0 0 0 0)).drop 8 = sentBits 0x10 (sampleBytes 0 0 0 0 0 0) := by
  decide +kernel

/-- The line bits of data bytes, flag included. -/
def closedBits (bytes : List Byte) : List Bool := insertZeros 0 (bytes.flatMap bitsLsb) ++ flagBits

/-- R3: a run in HUNT with a flag, a frame and its closing flag brings SYNC, FRAME and SYNC, and the frame enters the FIFO. -/
theorem test_a_run_of_a_whole_frame :
    (match exec (.flagSeen .left (zeros 2 ++ flagBits ++ sentBits 0x11 [0, 0])) (receiving .hunt [] id) with
      | .next t => some (t.left.link.receiver, t.left.link.fifo, t.left.link.stats.good)
      | _ => none) =
      some (.sync, [{ status := .good, kind := some 0x11, payload := some [0, 0], answer := false }], 1) := by decide +kernel

theorem test_witness_bad_frames :
    scanLine 0 [] (closedBits [0x30, 0x10]) = .flag ([0x30, 0x10].flatMap bitsLsb) [] ∧
      (bytesOfBits (([0x30, 0x10] : List Byte).flatMap bitsLsb)).head?.map BitVec.toNat ≠ some 0x31 ∧
      (bytesOfBits (([0x31, 0x10] : List Byte).flatMap bitsLsb)).head?.map BitVec.toNat = some 0x31 ∧
      scanLine 0 [] (insertZeros 0 (bitsLsb 0x31 ++ zeros 185) ++ flagBits) = .flag (bitsLsb 0x31 ++ zeros 185) [] ∧
      192 < (bitsLsb 0x31 ++ zeros 185).length ∧ (bitsLsb 0x31 ++ zeros 183).length % 8 ≠ 0 ∧
      scanLine 0 [] (closedBits [0x31, 0x10, 0]) = .flag ([0x31, 0x10, 0].flatMap bitsLsb) [] ∧
      (([0x31, 0x10, 0] : List Byte).flatMap bitsLsb).length < 32 ∧
      (let data := ([0x31, 0x10, 0, 0] : List Byte).flatMap bitsLsb
       scanLine 0 [] (closedBits [0x31, 0x10, 0, 0]) = .flag data [] ∧ data.length = 32 ∧
         checkBits (data.take (data.length - 16)) ≠ data.drop (data.length - 16)) := by decide +kernel

/-- A link due for a poll expiry. -/
def polling (f : HeadLink → HeadLink) : State := receiving .hunt [] fun l => f { l with pollTimer := 2 }

theorem test_witness_polls :
    ((polling id).boom .left).link.outstanding = none ∧
      (let l := ((polling fun l => { l with state := .up, outstanding := some 3, answered := true, blockPolls := 1022 }).boom .left).link
       l.running = true ∧ 2 ≤ l.pollTimer ∧ l.blockPolls < 1023 ∧ l.answered = true ∧ l.state = .up) ∧
      (let l := ((polling fun l => { l with outstanding := some 3, answered := true, answeredRun := 2 }).boom .left).link
       l.answered = true ∧ l.state ≠ .up ∧ l.answeredRun < 3) ∧
      (let l := ((polling fun l => { l with outstanding := some 3 }).boom .left).link
       l.answered = false ∧ l.state ≠ .up) ∧
      (let l := ((polling fun l => { l with state := .up, outstanding := some 3, missedRun := 1 }).boom .left).link
       l.answered = false ∧ l.state = .up ∧ l.missedRun < 2) := by
  decide +kernel

theorem test_witness_link_up : ∀ n ∈ [0, 1022, 1023],
    let l := ((polling fun l => { l with outstanding := some 3, answered := true, answeredRun := 3, blockPolls := n }).boom .left).link
    l.running = true ∧ 2 ≤ l.pollTimer ∧ l.blockPolls = n ∧ l.outstanding.isSome = true ∧ l.answered = true ∧ l.state ≠ .up ∧
      3 ≤ l.answeredRun := by decide +kernel

theorem test_witness_link_lost :
    ∀ st ∈ [BoomState.drilled, .collaring, .drilling, .retracting, .inserting, .spinning, .holding, .torquing], ∀ n ∈ [0, 1023],
      let u := (holed st none fun u => { u with link := { u.link with outstanding := some 3, missedRun := 2, blockPolls := n } }).boom .left
      u.link.running = true ∧ 2 ≤ u.link.pollTimer ∧ u.link.blockPolls = n ∧ u.link.outstanding.isSome = true ∧
        u.link.answered = false ∧ u.link.state = .up ∧ 2 ≤ u.link.missedRun ∧ u.ctl.state = st := by decide +kernel

/-- The last poll of a block: with the link as it was, with the link becoming UP, and with the link lost. -/
theorem test_witness_quality_block :
    ∀ f ∈ ([fun l => { l with state := .up, answered := true }, fun l => { l with answered := true, answeredRun := 2 },
          fun l => { l with state := .up, missedRun := 1, blockErrors := 39 }, fun l => { l with state := .lost, missedRun := 3 },
          fun l => { l with answered := true, answeredRun := 3 }, fun l => { l with state := .up, missedRun := 2 }] :
          List (HeadLink → HeadLink)),
      let l := ((polling fun l => f { l with outstanding := some 3, blockPolls := 1023 }).boom .left).link
      l.running = true ∧ 2 ≤ l.pollTimer ∧ l.blockPolls = 1023 ∧ l.outstanding.isSome = true := by
  simp only [List.forall_mem_cons]
  decide +kernel

/-- Section 9.8's block of 39 errors at the default threshold of 100: LINK_QUALITY 97, CROSSED. -/
theorem test_block_of_39_errors_crosses :
    (match exec (.qualityBlockEnd .left)
        (polling fun l => { l with state := .up, outstanding := some 3, answered := true, blockPolls := 1023, blockErrors := 39 }) with
      | .next t => (t.left.wear.linkQuality.norm, t.left.wear.linkQuality.crossed, t.portLeft.causes.c6)
      | _ => (0, false, false)) = (97, true, true) := by decide +kernel

/-- The same block ended by the poll that loses the link: both come about in one act. -/
theorem test_a_loss_ends_a_block :
    (match exec (.qualityBlockEnd .left)
        (polling fun l => { l with state := .up, outstanding := some 3, missedRun := 2, blockPolls := 1023, blockErrors := 39 }) with
      | .next t => (t.left.link.state, t.left.link.lastBlockErrors, t.left.wear.linkQuality.norm)
      | _ => (.up, 0, 0)) = (.lost, 39, 97) := by decide +kernel

/-! ## Witnesses: samples -/

/-- A head status entry. -/
def headStatus (code : Byte) : FifoEntry := { status := .good, kind := some 0x11, payload := some [0, code], answer := false }

theorem test_witness_entries :
    ((queued bench [{ headStatus 0 with status := .residue }]).boom .left).link.fifo = [{ headStatus 0 with status := .residue }] ∧
      ({ answering [] with answer := false } : FifoEntry).kind = some 0x10 ∧ 15 < (([0, 16] : List Byte).getD 1 0).toNat ∧
      (headStatus 15).status = .good ∧ (([0, 15] : List Byte).getD 1 0).toNat ≤ 15 ∧
      ((queued bench [headStatus 15]).boom .left).link.headFault = 0 ∧
      ((queued bench [headStatus 15]).boom .left).ctl.state.isStage = false := by decide +kernel

/-- Good entries of another kind or payload length (R6). -/
theorem test_witness_other_entries :
    ({ headStatus 0 with kind := some 0x12 } : FifoEntry).kind ≠ some 0x11 ∧
      (answering (List.replicate 10 0)).payload = some (List.replicate 10 0) ∧ (List.replicate 10 (0 : Byte)).length ≠ 11 ∧
      ({ headStatus 0 with payload := some [0] } : FifoEntry).payload = some [0] ∧ ([0] : List Byte).length ≠ 2 := by decide

/-- A head-fault onset with each stage in progress. -/
theorem test_witness_head_fault_in_a_stage :
    ∀ st ∈ [BoomState.collaring, .drilling, .retracting, .inserting, .spinning, .holding, .torquing],
      let u := (queued (holed st (some .running) id) [headStatus 1]).boom .left
      u.link.fifo = [headStatus 1] ∧ u.ctl.state = st ∧ u.ctl.state.isStage = true ∧ u.link.headFault = 0 ∧
        u.ctl.hole = some (HoleRecord.start 0 2 .left 1800) ∧ (([0, 1] : List Byte).getD 1 0).toNat = 1 := by decide +kernel

/-- The boom in a state with one sample waiting. -/
def sampled (st : BoomState) (p : List Byte) (f : BoomUnit → BoomUnit) : State := queued (holed st (some .running) f) [answering p]

/-- The left boom with an encoder reference of 100 (or none), a depth and a maximum depth, and a sample of a count and switches
waiting. -/
def met (st : BoomState) (depth : Int) (feed count switches : Nat) (f : DepthTracker → DepthTracker) : State :=
  sampled st (sampleBytes feed 3000 400 count switches 1) fun u =>
    { u with tracker := f { u.tracker with depth, maxDepth := depth.toNat } }

/-- That sample. -/
def metSample (feed count switches : Nat) : Sample := readSample (sampleBytes feed 3000 400 count switches 1)

/-- What the statements about samples ask of a sample: it is the next, and no glitch. -/
theorem met_next (st : BoomState) (depth : Int) (feed count switches : Nat) (f : DepthTracker → DepthTracker)
    (hf : ∀ t, (f t).encoderRef = t.encoderRef ∨ (f t).encoderRef = none)
    (h : -2000 ≤ ((metSample feed count switches).count - 100).toInt ∧ ((metSample feed count switches).count - 100).toInt ≤ 2000) :
    (met st depth feed count switches f).nextSample .left (metSample feed count switches) ∧
      ((met st depth feed count switches f).boom .left).tracker.accepts (metSample feed count switches) := by
  refine ⟨next_sample rfl rfl, fun r hr => ?_⟩
  obtain e | e := hf { (holed st (some .running) id |>.boom .left).tracker with depth, maxDepth := depth.toNat }
  · obtain rfl : (100 : BitVec 16) = r := Option.some.inj (e.symm.trans hr)
    exact h
  · exact nomatch e.symm.trans hr

/-- The reference absent behind glitches. -/
def lost (t : DepthTracker) : DepthTracker := { t with encoderRef := none, glitchRun := 3 }

theorem test_witness_sample :
    (met .holeOpen 0 5000 2100 0 id).nextSample .left (metSample 5000 2100 0) ∧
      ((met .holeOpen 0 5000 2100 0 id).boom .left).tracker.accepts (metSample 5000 2100 0) :=
  met_next _ _ _ _ _ _ (fun _ => .inl rfl) (by decide +kernel)

theorem test_witness_sample_without_reference :
    (met .drilling 0 5000 2100 0 lost).nextSample .left (metSample 5000 2100 0) ∧
      ((met .drilling 0 5000 2100 0 lost).boom .left).tracker.accepts (metSample 5000 2100 0) :=
  met_next _ _ _ _ _ _ (fun _ => .inr rfl) (by decide +kernel)

/-- Collar contact. -/
def touching : State := met .collaring 0 5000 100 1 fun t => { t with contactSeen := false }

theorem test_witness_collar_contact :
    (touching.nextSample .left (metSample 5000 100 1) ∧ (touching.boom .left).tracker.accepts (metSample 5000 100 1)) ∧
      (touching.boom .left).ctl.state = .collaring ∧ (metSample 5000 100 1).collar = true ∧
      (touching.boom .left).tracker.contactSeen = false ∧ 0 < touching.params.plan.collarDepth :=
  ⟨met_next _ _ _ _ _ _ (fun _ => .inl rfl) (by decide +kernel), by decide +kernel⟩

/-- A slice open from the collar. -/
def slicing (t : DepthTracker) : DepthTracker :=
  { t with slice := some { start := 0, top := 0, sf := 0, sr := 0, n := 0, nSpan := 0, saturated := false } }

/-- Behind contact: COLLARING a step above the collar depth, and DRILLING across a slice boundary, off the face, and pressed without
new ground with a stall run still short. -/
theorem test_witness_new_ground :
    ((met .collaring 39800 5000 101 1 slicing).depthAfter .left (metSample 5000 101 1) = 39900 ∧
        ((met .collaring 39800 5000 101 1 slicing).boom .left).tracker.contactSeen = true) ∧
      (met .drilling 0 5000 200 0 slicing).deepestAfter .left (metSample 5000 200 0) = 10000 ∧
      (met .drilling 0 5000 200 0 slicing).boundariesReached .left (metSample 5000 200 0)
        { start := 0, top := 0, sf := 0, sr := 0, n := 0, nSpan := 0, saturated := false } = 1 ∧
      (met .drilling 0 5000 90 0 slicing).deepestAfter .left (metSample 5000 90 0) = 0 ∧
      ((met .drilling 0 9000 100 0 fun t => { slicing t with stallCount := 248 }).boom .left).tracker.stallCount < 249 := by
  decide +kernel

/-- Samples that end nothing, each at the end of its range: HOLDING, RETRACTING a unit before the clear distance, COLLARING before
contact, INSERTING in WAIT_FLOW, and the stall and the block run one below their limits. -/
theorem test_witness_samples_that_end_nothing :
    ((met .holding 0 0 100 0 id).boom .left).ctl.state = .holding ∧
      (-((50 * 800 : Nat) : Int) < (met .retracting (-39899) 0 99 0 id).depthAfter .left (metSample 0 99 0) ∧
        (met .retracting (-39899) 0 99 0 id).params.plan.clearDistance = 50) ∧
      (((met .collaring 0 0 100 0 fun t => { t with contactSeen := false }).boom .left).tracker.contactSeen = false ∧
        (metSample 0 100 0).collar = false) ∧
      ((holed .inserting (some .waitFlow) id).boom .left).ctl.run ≠ some .running ∧
      (met .drilling 2039199 9000 100 0 fun t => { slicing t with stallCount := 248, stallBase := 2039199 }).stallAfter .left
        (metSample 9000 100 0) = (249, 2039199) ∧
      (met .inserting 1319999 12000 100 0 fun t => { t with blockRun := 148 }).blockAfter .left (metSample 12000 100 0) goodPlan = 149 ∧
      (metSample 12000 100 0).plate = false := by decide +kernel

/-- A torquing boom with its counts. -/
def torquingWith (p : List Byte) (hold slip acc : Nat) : State :=
  sampled .torquing p fun u => { u with ctl := { u.ctl with holdRun := hold, slipRun := slip, torqueAcc := acc, reachMark := true } }

/-- Samples of a RUNNING stage that end nothing: the mix one below its target, and the torque counts one below their limits. -/
theorem test_witness_counts_below_their_limits :
    (let s := sampled .spinning (sampleBytes 0 0 500 100 0 1) fun u => { u with ctl := { u.ctl with mix := 899499 } }
     min 4294967295 ((s.boom .left).ctl.mix + 500) < goodPlan.mixTarget ∧ (s.boom .left).ctl.run = some .running) ∧
      (let c := (torquingWith (sampleBytes 0 8000 60 100 0 1) 248 0 179940).left.ctl.torqued goodPlan
          (readSample (sampleBytes 0 8000 60 100 0 1))
       c.holdRun = 249 ∧ c.slipRun = 0 ∧ c.torqueAcc = 180000 ∧ c.peak = 8000 ∧ Zone5.builtIn.rTq * 30000 = 180000) ∧
      ((torquingWith (sampleBytes 0 3199 60 100 0 1) 0 98 0).left.ctl.torqued goodPlan
        (readSample (sampleBytes 0 3199 60 100 0 1))).slipRun = 99 := by decide +kernel

/-- A sample at the goal of its stage, each at the end of its range: the collar depth, the planned depth, the depth limit, the clear
distance, the plate in place and the plate too early. -/
theorem test_witness_goals :
    (met .collaring 39900 5000 101 0 id).depthAfter .left (metSample 5000 101 0) = 50 * 800 ∧
      (met .drilling 1439900 5000 101 0 slicing).deepestAfter .left (metSample 5000 101 0) = 1800 * 800 ∧
      ((met .drilling 1439900 5000 101 0 slicing).boom .left).ctl.hole = some (HoleRecord.start 0 2 .left 1800) ∧
      (met .drilling 2039999 5000 101 0 slicing).deepestAfter .left (metSample 5000 101 0) = 2040000 ∧
      (met .retracting (-39900) 5000 99 0 id).depthAfter .left (metSample 5000 99 0) = -(50 * 800) ∧
      (met .inserting 1319900 5000 101 2 id).depthAfter .left (metSample 5000 101 2) = (1800 - 150) * 800 ∧
      (met .inserting 1319899 5000 101 2 id).depthAfter .left (metSample 5000 101 2) < (1800 - 150) * 800 ∧
      (metSample 5000 101 2).plate = true ∧ ((met .inserting 1319900 5000 101 2 id).boom .left).anchorage = some goodPlan ∧
      ((met .inserting 1319900 5000 101 2 id).boom .left).ctl.run = some .running := by decide +kernel

/-- The sample at a goal is the next one, and no glitch. -/
def samplesTo (st : BoomState) (depth : Int) (count switches : Nat) : Prop :=
  (met st depth 5000 count switches id).nextSample .left (metSample 5000 count switches) ∧
    ((met st depth 5000 count switches id).boom .left).tracker.accepts (metSample 5000 count switches)

theorem goal_sample (st : BoomState) (depth : Int) (count switches : Nat)
    (h : -2000 ≤ ((metSample 5000 count switches).count - 100).toInt ∧ ((metSample 5000 count switches).count - 100).toInt ≤ 2000) :
    samplesTo st depth count switches := met_next _ _ _ _ _ _ (fun _ => .inl rfl) h

theorem test_witness_goal_samples :
    samplesTo .collaring 39900 101 0 ∧ samplesTo .drilling 1439900 101 0 ∧ samplesTo .drilling 2039999 101 0 ∧
      samplesTo .retracting (-39900) 99 0 ∧ samplesTo .inserting 1319900 101 2 ∧ samplesTo .inserting 1319899 101 2 := by
  refine ⟨?_, ?_, ?_, ?_, ?_, ?_⟩ <;> exact goal_sample _ _ _ _ (by decide +kernel)

/-- A glitch behind any run of them, with no slice and with one open. -/
theorem test_witness_glitch :
    ∀ f ∈ [id, slicing], ∀ n,
      let s := met .drilling 0 5000 2101 0 fun t => { f t with glitchRun := n }
      s.nextSample .left (metSample 5000 2101 0) ∧ (s.boom .left).tracker.glitchRun = n ∧
        ¬ (s.boom .left).tracker.accepts (metSample 5000 2101 0) := by
  intro f hf n
  rcases List.mem_cons.mp hf with rfl | hf
  · exact ⟨next_sample rfl rfl, rfl, fun h => absurd (h 100 rfl) (by decide +kernel)⟩
  · obtain rfl : f = slicing := by simpa using hf
    exact ⟨next_sample rfl rfl, rfl, fun h => absurd (h 100 rfl) (by decide +kernel)⟩

/-- The stall run one short of its end. -/
def stalling (t : DepthTracker) : DepthTracker := { t with stallCount := 249, stallBase := t.maxDepth - 100 }

/-- The 250th sample of a stall run: at rest at the end of the depth range, with new ground, and off the face by less than 1 mm, each with
an encoder reference and without one. -/
theorem test_witness_stall :
    ∀ f ∈ [stalling, fun t => lost (stalling t)], ∀ v ∈ [((2039999 : Int), 100), (1000000, 101), (1000000, 99)],
      let s := met .drilling v.1 9000 v.2 0 f
      let x := metSample 9000 v.2 0
      (s.nextSample .left x ∧ (s.boom .left).tracker.accepts x) ∧ (s.boom .left).ctl.state = .drilling ∧
        (s.boom .left).ctl.run = some .running ∧ (s.boom .left).tracker.contactSeen = true ∧ s.deepestAfter .left x < 2040000 ∧
        (s.deepestAfter .left x = (s.boom .left).tracker.maxDepth ∨
          ((s.boom .left).ctl.hole = some (HoleRecord.start 0 2 .left 1800) ∧ s.deepestAfter .left x < 1800 * 800)) ∧
        250 ≤ (s.stallAfter .left x).1 := by
  simp only [List.forall_mem_cons, List.not_mem_nil, false_implies, implies_true, and_true]
  refine ⟨⟨?_, ?_, ?_⟩, ?_, ?_, ?_⟩ <;>
    exact ⟨met_next _ _ _ _ _ _ (fun _ => by first | exact .inl rfl | exact .inr rfl) (by decide +kernel), by decide +kernel⟩

/-- The block run one short of its end. -/
def blocking (t : DepthTracker) : DepthTracker := { t with blockRun := 149 }

/-- The 150th pressed sample above the insert line: just above it at rest, moving to just above it, with the plate switch closed, and
without a reference. -/
theorem test_witness_block :
    ∀ f ∈ [blocking, fun t => lost (blocking t)], ∀ v ∈ [((1319999 : Int), 100, 0), (1300000, 101, 0), (1319999, 100, 2)],
      let s := met .inserting v.1 12000 v.2.1 v.2.2 f
      let x := metSample 12000 v.2.1 v.2.2
      (s.nextSample .left x ∧ (s.boom .left).tracker.accepts x) ∧ (s.boom .left).ctl.state = .inserting ∧
        (s.boom .left).ctl.run = some .running ∧ (s.boom .left).anchorage = some goodPlan ∧
        (s.boom .left).ctl.hole = some (HoleRecord.start 0 2 .left 1800) ∧ 150 ≤ s.blockAfter .left x goodPlan := by
  simp only [List.forall_mem_cons, List.not_mem_nil, false_implies, implies_true, and_true]
  refine ⟨⟨?_, ?_, ?_⟩, ?_, ?_, ?_⟩ <;>
    exact ⟨met_next _ _ _ _ _ _ (fun _ => by first | exact .inl rfl | exact .inr rfl) (by decide +kernel), by decide +kernel⟩

theorem test_witness_mix :
    let s := sampled .spinning (sampleBytes 0 0 500 100 0 1) fun u => { u with ctl := { u.ctl with mix := 899500 } }
    let x := readSample (sampleBytes 0 0 500 100 0 1)
    s.nextSample .left x ∧ (s.boom .left).tracker.accepts x ∧ (s.boom .left).ctl.state = .spinning ∧
      (s.boom .left).ctl.run = some .running ∧ (s.boom .left).anchorage = some goodPlan ∧
      goodPlan.mixTarget ≤ min 4294967295 ((s.boom .left).ctl.mix + x.speed) :=
  ⟨next_sample rfl rfl, fun r h => by
    obtain rfl : (100 : BitVec 16) = r := Option.some.inj (h : some _ = some r)
    decide +kernel, by decide +kernel⟩

/-- The ends of TORQUING, each at the end of its range: the hold run, the slip run, and the revolutions below and at the target. -/
theorem test_witness_torque :
    ∀ v ∈ [(sampleBytes 0 8000 60 100 0 1, 249, 0, 0), (sampleBytes 0 3199 60 100 0 1, 0, 99, 0), (sampleBytes 0 3200 60 100 0 1, 0, 0, 179941),
        (sampleBytes 0 8000 60 100 0 1, 248, 0, 179941)],
      let s := torquingWith v.1 v.2.1 v.2.2.1 v.2.2.2
      let x := readSample v.1
      let c := (s.boom .left).ctl.torqued goodPlan x
      (s.boom .left).link.fifo = [answering v.1] ∧ v.1.length = 11 ∧ (x.count - 100).toInt = 0 ∧
        (s.boom .left).tracker.encoderRef = some 100 ∧ (s.boom .left).ctl.state = .torquing ∧ (s.boom .left).ctl.run = some .running ∧
        (s.boom .left).anchorage = some goodPlan ∧ (s.boom .left).ctl.hole = some (HoleRecord.start 0 2 .left 1800) ∧
        (250 ≤ c.holdRun ∨ (c.holdRun < 250 ∧ (100 ≤ c.slipRun ∨ s.params.plan.rTq * 30000 < c.torqueAcc))) := by decide +kernel

/-! ## Witnesses: the timers -/

theorem test_witness_collar_and_hold :
    (let u := (holed .collaring (some .running) fun u =>
        { u with tracker := { u.tracker with contactSeen := false }, ctl := { u.ctl with collarTimer := some 3000 } }).boom .left
     u.ctl.state = .collaring ∧ u.tracker.contactSeen = false ∧ u.ctl.collarTimer = some 3000) ∧
      (let s := holed .holding (some .paused) fun u => { u with ctl := { u.ctl with holdTimer := some 5000 } }
       (s.boom .left).ctl.holdTimer = some 5000 ∧ s.params.plan.holdTime ≤ 5000) := by decide +kernel

theorem test_witness_closing_timers :
    (let s := holed .torquing (some .running) fun u => { u with ctl := { u.ctl with torqueTime := some 8000, torqueWindow := some 30000 } }
     (s.boom .left).ctl.hole = some (HoleRecord.start 0 2 .left 1800) ∧ (s.boom .left).ctl.torqueTime = some 8000 ∧
       (s.boom .left).ctl.torqueWindow = some 30000 ∧ s.params.plan.torqueWindow ≤ 30000) ∧
      (let s := holed .spinning (some .waitFlow) fun u => { u with ctl := { u.ctl with gelDeadline := some 15000, insertToSpin := some 6000 } }
       (s.boom .left).ctl.gelDeadline = some 15000 ∧ s.params.plan.gelDeadline ≤ 15000 ∧ (s.boom .left).ctl.insertToSpin = some 6000 ∧
         s.params.plan.insertToSpin ≤ 6000) ∧
      (let s := holed .retracted none fun u => { u with ctl := { u.ctl with betweenStage := some 120000 } }
       (s.boom .left).ctl.state.waitsBetween = true ∧ betweenLimit s.params.plan.betweenCode = some 120000 ∧
         (s.boom .left).ctl.betweenStage = some 120000) := by decide +kernel

/-! ## Witnesses: the monitor -/

/-- The bench at the end of a conversion of channel k, with that channel's record changed. -/
def converting (k : Nat) (f : Channel → Channel) : State :=
  { bench with monitor := { bench.monitor with
      channels := bench.monitor.channels.modify k f, round := .converting k, roundTimer := 1 } }

/-- A disabled channel being converted. -/
theorem test_witness_disabled_channel :
    let s := converting 0 fun c => { c with limits := { c.limits with enabled := false }, debounce := some .hi }
    s.monitor.round = .converting 0 ∧ 1 ≤ s.monitor.roundTimer ∧
      (s.monitor.channels[0]?.map fun c => (c.limits.enabled, c.debounce)) = some (false, some .hi) := by decide +kernel

theorem test_witness_rounds :
    (({ bench with monitor := { bench.monitor with roundTimer := 50 } } : State).monitor.sleepLimit ≤ 50 ∧
      bench.monitor.round = .sleeping) ∧
      (converting 5 id).monitor.round = .converting 5 ∧ 1 ≤ (converting 0 id).monitor.roundTimer ∧
      (converting 0 id).monitor.channels[0]? = some (Channel.reset { enabled := true, hi := 205, lo := 20, hyst := 10 }) := by
  decide +kernel

/-- The gas channel: HI limit 205, LO limit 20, h 10. -/
def gasChannel (b : Breach) (d : Option Breach) : Channel :=
  { Channel.reset { enabled := true, hi := 205, lo := 20, hyst := 10 } with breach := b, debounce := d }

/-- The rows of the table of R141 at the ends of the ranges. -/
theorem test_witness_targets :
    (gasChannel .inside none).sees 206 (some .hi) ∧ (gasChannel .inside none).sees 205 none ∧ (gasChannel .inside none).sees 20 none ∧
      (gasChannel .inside none).sees 19 (some .lo) ∧ (gasChannel .hi none).sees 195 (some .inside) ∧
      (gasChannel .hi none).sees 196 none ∧ (gasChannel .hi none).sees 19 (some .lo) ∧
      (gasChannel .lo none).sees 30 (some .inside) ∧ (gasChannel .lo none).sees 29 none ∧ (gasChannel .lo none).sees 206 (some .hi) := by
  simp [Channel.sees, gasChannel, Channel.reset, ChannelLimits.isClear]

theorem test_witness_gas_onset :
    let s := { holed .drilling (some .running) id with monitor := (converting 0 fun _ => gasChannel .inside (some .hi)).monitor }
    s.monitor.round = .converting 0 ∧ 1 ≤ s.monitor.roundTimer ∧ s.monitor.channels[0]? = some (gasChannel .inside (some .hi)) ∧
      (gasChannel .inside (some .hi)).limits.enabled = true ∧ (gasChannel .inside (some .hi)).sees 206 (some .hi) ∧
      (gasChannel .inside (some .hi)).debounce = some .hi ∧ (s.boom .left).ctl.state = .drilling :=
  ⟨by decide +kernel, by decide +kernel, by decide +kernel, by decide +kernel,
    by simp [Channel.sees, gasChannel, Channel.reset], by decide +kernel, by decide +kernel⟩

theorem test_witness_breach_change :
    (let s := converting 0 fun _ => gasChannel .inside (some .hi)
     s.monitor.channels[0]? = some (gasChannel .inside (some .hi)) ∧ (gasChannel .inside (some .hi)).debounce = some .hi ∧
       (gasChannel .inside (some .hi)).limits.enabled = true ∧ s.monitor.round = .converting 0 ∧ 1 ≤ s.monitor.roundTimer) ∧
      (∀ k ∈ [3, 4, 5], ∃ c, (converting k fun c => { c with debounce := some .lo }).monitor.channels[k]? = some c ∧
        c.debounce = some .lo ∧ c.breach = .inside ∧ c.limits.enabled = true ∧ 0 < c.limits.lo) ∧
      (converting 3 id).rowMap.supportSet = true ∧
      ({ holed .drilling (some .running) id with monitor := (converting 0 id).monitor } : State).left.ctl.state = .drilling := by
  refine ⟨by decide +kernel, ?_, by decide +kernel, by decide +kernel⟩
  intro k hk
  have : k = 3 ∨ k = 4 ∨ k = 5 := by simpa using hk
  rcases this with rfl | rfl | rfl <;> exact ⟨_, rfl, by decide +kernel⟩

/-- The bench at the end of a conversion of the reference channel. -/
def referring (f : Monitor → Monitor) : State := { bench with monitor := f { bench.monitor with round := .converting 6, roundTimer := 1 } }

theorem test_witness_reference :
    (referring id).monitor.round = .converting 6 ∧ 1 ≤ (referring id).monitor.roundTimer ∧
      ((referring id).monitor.refExp ≤ 643 + (referring id).monitor.refTol ∧ 667 ≤ (referring id).monitor.refExp + (referring id).monitor.refTol) ∧
      ¬ (668 ≤ (referring id).monitor.refExp + (referring id).monitor.refTol) ∧ ¬ ((referring id).monitor.refExp ≤ 642 + (referring id).monitor.refTol) ∧
      (referring id).monitor.warming = false ∧ (referring fun m => { m with fault := true, passRun := 2 }).monitor.passRun < 3 ∧
      (referring id).monitor.failRun = 0 ∧ 1 ≤ (referring fun m => { m with failRun := 1 }).monitor.failRun ∧
      3 ≤ (referring fun m => { m with fault := true, passRun := 3 }).monitor.passRun ∧
      (referring fun m => { m with warming := true, warmup := 1 }).monitor.warming = true ∧
      (let m := (referring fun m => { m with warming := true, warmup := 1, failRun := 1 }).monitor
       m.warming = true ∧ 1 ≤ m.warmup ∧ m.fault = false ∧ 1 ≤ m.failRun) ∧
      (let m := (referring fun m => { m with warming := true, warmup := 1, fault := true, passRun := 3 }).monitor
       m.warming = true ∧ 1 ≤ m.warmup ∧ m.fault = true ∧ 3 ≤ m.passRun) := by decide +kernel

/-- R1: a frame of 0xFF, 0x00 stands behind its opening flag least significant bit first, a 0 after five 1s; behind its closing flag come
flags. R17: a stopped link has neither data nor clock. -/
theorem test_line_of_a_head_link :
    (let s := receiving .hunt [] fun l => { l with sent := some [0xFF, 0x00] }
     (List.range 41).map (s.headData .left) =
        ([0, 1, 1, 1, 1, 1, 1, 0,  1, 1, 1, 1, 1, 0, 1, 1, 1,  0, 0, 0, 0, 0, 0, 0, 0,  0, 1, 1, 1, 1, 1, 1, 0,
          0, 1, 1, 1, 1, 1, 1, 0] : List Nat).map (fun k => some (k == 1)) ∧
       s.headClock .left = some 1000 ∧ s.headClock .right = none ∧ s.headData .right 1 = none) := by decide +kernel

/-! ## Witnesses: the ports -/

theorem test_witness_transfers :
    bench.phase ≠ .off ∧ (bench.port .left).transfer = none ∧ (bench.port .left).reply = .pending { code := .noReply, payload := [] } ∧
      (bench.port .left).isOpen = false ∧
      ((bench.modPort .left fun p => { p with isOpen := true, reply := .pending { code := .data, payload := List.replicate 28 1 } }).port
        .left).isOpen = true ∧
      ((asked bench .left 0 []).port .left).reply = .processing (request 0 []) ∧
      ((bench.modPort .left fun p => { p with transfer := some .begunPending }).port .left).transfer = some .begunPending ∧
      ((bench.modPort .left fun p => { p with transfer := some .begunPending }).port .left).driven = none ∧
      (List.replicate 32 (0 : Byte)).length = 32 ∧ (List.replicate 255 true).length < 256 := by decide +kernel

/-- R168: of a status byte 10000011 the first bit on data-out is 1, the second 0, the last two 1; behind the 32nd byte stand 1s. -/
theorem test_data_out_is_most_significant_bit_first :
    (let s := bench.modPort .left fun p => { p with transfer := some .begunPending, driven := some (0x83 :: List.replicate 31 0) }
     [0, 1, 6, 7, 8, 255, 256].map (s.dataOut .left)) =
      [some true, some false, some true, some true, some false, some false, some true] := by decide +kernel

theorem test_witness_request_frames : ((0x4A, .writeZone) : Nat × RequestKind) ∈ RequestKind.codes ∧
    RequestKind.writeZone.onPort .machine = true ∧ (List.replicate 29 (0 : Byte)).length ≤ 29 := by decide

theorem test_witness_port_requests :
    (let q : Request := { frame := List.replicate 32 1, ended := 0 }
     ((bench.modPort .left fun p => { p with reply := .processing q }).port .left).reply = .processing q ∧
       crc8 (q.frame.take 31) ≠ q.frame.getD 31 0) ∧
      (crc8 ((request 0x40 []).frame.take 31) = (request 0x40 []).frame.getD 31 0 ∧ (request 0x40 []).lengthByte ≤ 29 ∧
        ∀ c ∈ RequestKind.codes, c.1 = (request 0x40 []).kindByte.toNat → c.2.onPort .left = false) ∧
      29 < (request 0 (List.replicate 30 0)).lengthByte ∧ operand (request 1 [7]).operands 0 = 7 ∧ operand (request 1 [8]).operands 0 = 8 := by
  decide +kernel

theorem test_witness_nop_and_clear :
    (asked bench .left 0 []).taken .left .nop (request 0 []) ∧ (asked bench .machine 1 [1]).taken .machine .clearCause (request 1 [1]) :=
  ⟨⟨by decide +kernel, by decide +kernel, by decide +kernel⟩, ⟨by decide +kernel, by decide +kernel, by decide +kernel⟩⟩

theorem test_witness_absent_boom :
    let s : State := { bench with straps := { bench.straps with leftEnabled := false } }
    s.absentPort .left = true ∧ (asked s .left 0 []).held .left .nop = some (request 0 []) ∧
      (asked s .left 1 [1]).held .left .clearCause = some (request 1 [1]) := by
  decide +kernel

/-- Tests 3 and 4 of R172: a stage request on the port of a disabled boom, and length bytes that no kind of theirs takes. -/
theorem test_witness_absent_and_length :
    (let s : State := asked { bench with straps := { bench.straps with leftEnabled := false } } .left 0x22 []
     RequestKind.drill.onPort .machine = false ∧ s.held .left .drill = some (request 0x22 []) ∧ s.absentPort .left = true ∧
       RequestKind.drill.isRead = false) ∧
      (asked bench .left 0x22 [0]).held .left .drill = some (request 0x22 [0]) ∧
      (asked bench .machine 0x46 [2, 0]).held .machine .setPlan = some (request 0x46 [2, 0]) ∧
      ¬ RequestKind.drill.takesLength .left (request 0x22 [0]) (request 0x22 [0]).lengthByte ∧
      ¬ RequestKind.setPlan.takesLength .machine (request 0x46 [2, 0]) (request 0x46 [2, 0]).lengthByte := by
  refine ⟨by decide +kernel, by decide +kernel, by decide +kernel, ?_, ?_⟩ <;> unfold RequestKind.takesLength <;> decide +kernel

/-- Every request of a list passes tests 1 to 4 of R172 on its port. -/
def allTaken (rs : List (Port × Byte × RequestKind × List Byte)) : Bool :=
  rs.all fun r =>
    let s := asked bench r.1 r.2.1 r.2.2.2
    s.held r.1 r.2.2.1 == some (request r.2.1 r.2.2.2) && r.2.2.1.sizeOk r.1 (request r.2.1 r.2.2.2) && !s.absentPort r.1

theorem test_witness_reads :
    allTaken [(.left, 0x10, .readStatus, [2]), (.left, 0x11, .readLive, [10]), (.machine, 0x11, .readLive, [1, 10]),
      (.left, 0x12, .readHole, [31, 4]), (.left, 0x13, .readRow, [5]), (.right, 0x14, .readFault, [7, 2]),
      (.left, 0x15, .readAttributes, [1, 1]), (.left, 0x16, .readMonitor, [3]), (.machine, 0x17, .readLink, [1, 1])] = true := by
  decide +kernel

/-- The first parts of reads; the two logs hold a record. -/
theorem test_witness_parts_read :
    allTaken [(.left, 0x10, .readStatus, [0]), (.machine, 0x10, .readStatus, [0]), (.left, 0x11, .readLive, [0]),
        (.machine, 0x11, .readLive, [1, 0]), (.left, 0x15, .readAttributes, [0, 0]),
        (.right, 0x15, .readAttributes, [1, 0])] = true ∧
      (let r := drillingBench.faultRecord drillingBench .left .stall none
       ({ bench with faultLog := FaultLog.empty.record r } : State).faultLog.places[(1 + 15 - 0) % 8]? = some (some r)) ∧
      (let s := asked { bench with holeLog := HoleLog.empty.archive (HoleRecord.start 0 2 .left 1800) } .left 0x12 [0, 0]
       s.held .left .readHole = some (request 0x12 [0, 0]) ∧ s.absentPort .left = false ∧
         RequestKind.readHole.sizeOk .left (request 0x12 [0, 0]) = true ∧ 0 < s.holeLog.count ∧
         s.holeLog.places[(s.holeLog.pointer + 63 - 0) % 32]? = some (some (HoleRecord.start 0 2 .left 1800))) := by decide +kernel

/-- READ_LIVE part 0 of a part just reset: 28 bytes, the last four the peak of 0 with the other counts, and the two timer groups absent
(R103, section 10.8). -/
theorem test_live_part_0_after_reset : State.reset.live0 .left =
    [0, 0xFF, 0, 0, 0, 0, 0, 0xFF, 0xFF] ++ List.replicate 14 0 ++ [0, 0, 0, 0, 0] := by decide +kernel

/-- READ_LIVE part 4 of a boom in TORQUING with its torque timer running: the limit of 8,000 ms stands behind the listed fields (R90,
R103, log 34). -/
theorem test_live_part_4_limit :
    ((holed .torquing none fun u => { u with ctl := { u.ctl with torqueTime := some 5 } }).live4 .left).drop 26 = [0x40, 0x1F] := by
  decide +kernel

/-- READ_LINK part 0 of a part just reset, and READ_ROW part 0 of row 0 of the built-in plan: six slots, support released, not ready
(section 10.8). -/
theorem test_link_and_row_after_reset :
    HeadLink.reset.part0 = [0, 0, 0, 0, 1, 0, 0, 0, 0, 0, 0, 0, 0, 0, 0] ∧
      (RowMap.rowZero builtInPlan).part0 = [0, 0, 0, 1, 0, 0, 6, 0, 0, 0] := by decide +kernel

/-- A pending debounce is a group led by its present byte (section 10.8). -/
theorem test_debounce_is_a_group :
    [none, some Breach.lo].map (fun d => (channelBytes { limits := { enabled := true, hi := 205, lo := 20, hyst := 10 }, last := some 19
                                                         breach := .inside, debounce := d }).drop 8) =
      [[0, 0, 0, 0], [0, 1, 2, 1]] := by decide +kernel

theorem test_witness_logs_read :
    (HoleLog.empty.archive (HoleRecord.start 0 2 .left 1800)).places[(1 + 63 - 0) % 32]? =
      some (some (HoleRecord.start 0 2 .left 1800)) ∧ 0 < (HoleLog.empty.archive (HoleRecord.start 0 2 .left 1800)).count := by
  decide +kernel

/-! ## Witnesses: the requests of a boom -/

theorem test_witness_boom_requests :
    allTaken [(.left, 0x20, .beginHole, [2]), (.left, 0x21, .collar, []), (.left, 0x22, .drill, []), (.left, 0x23, .retract, []),
      (.left, 0x24, .insert, []), (.left, 0x25, .spin, []), (.left, 0x26, .torque, []), (.left, 0x27, .stop, []),
      (.left, 0x28, .abandon, []), (.left, 0x29, .resume, []), (.left, 0x2A, .bitChanged, [])] = true := by decide +kernel

/-- The machine requests whose operands have a fixed size, and SET_PLAN and WRITE_ZONE at both ends of theirs. -/
theorem test_witness_machine_requests :
    allTaken [(.machine, 0x40, .supportSet, []), (.machine, 0x41, .supportReleased, []), (.machine, 0x42, .rowAdvance, []),
      (.machine, 0x43, .tramDone, []), (.machine, 0x44, .waive, [2]), (.machine, 0x45, .clearOverflow, []),
      (.machine, 0x46, .setPlan, [1, 0, 0x08, 7]), (.machine, 0x46, .setPlan, 8 :: List.replicate 24 1), (.machine, 0x47, .flowTram, []),
      (.machine, 0x48, .flowSupport, []), (.machine, 0x49, .flowRelease, [0]), (.machine, 0x4A, .writeZone, [0, 0, 1]),
      (.machine, 0x4A, .writeZone, [5, 0] ++ List.replicate 24 1), (.machine, 0x4B, .loadZone, [6]), (.machine, 0x4C, .saveWear, []),
      (.machine, 0x4D, .selfCheck, []), (.machine, 0x4E, .reset, [])] = true := by decide +kernel

/-- A slot of the built-in plan. -/
def slotOf (n : Nat) (st : SlotState) : Slot := { number := n, position := n, depth := 1800, parent := none, state := st }

/-- A port is processing a request of a kind that passes tests 1 to 4 of R172. -/
def takes (s : State) (p : Port) (code : Byte) (k : RequestKind) (payload : List Byte) : Bool :=
  s.held p k == some (request code payload) && !s.absentPort p && k.sizeOk p (request code payload)

/-- What `takes` says, as the statements say it. -/
theorem taken_of_takes {s : State} {p : Port} {code : Byte} {k : RequestKind} {payload : List Byte}
    (h : takes s p code k payload = true) : s.taken p k (request code payload) := by
  simp only [takes, Bool.and_eq_true, beq_iff_eq, Bool.not_eq_true'] at h
  exact ⟨h.1.1, .inl h.1.2, h.2⟩

/-- BEGIN_HOLE refused, one state for each test in its order. -/
theorem test_witness_begin_hole_refused :
    (let s := asked (holed .drilled none id) .left 0x20 [3]
     takes s .left 0x20 .beginHole [3] = true ∧ s.check.running = false ∧ (s.boom .left).ctl.state ≠ .idle) ∧
      (let s := asked bench .left 0x20 [6]
       takes s .left 0x20 .beginHole [6] = true ∧ (s.boom .left).ctl.state = .idle ∧ s.rowMap.slot 6 = none) ∧
      (let s := asked { bench with mem := { bench.mem with op := .load 0 } } .left 0x20 [5]
       takes s .left 0x20 .beginHole [5] = true ∧ s.rowMap.slot 5 = some (slotOf 5 .isOpen) ∧ s.mem.op = .load 0) ∧
      (let s := asked { bench with mem := { bench.mem with zones := bench.mem.zones.set 2 .defaulted } } .left 0x20 [5]
       takes s .left 0x20 .beginHole [5] = true ∧ s.mem.zones[calibZone .left]? = some .defaulted) ∧
      (let s := asked (holed .drilled none id) .right 0x20 [2]
       takes s .right 0x20 .beginHole [2] = true ∧ (s.boom .right).ctl.state = .idle ∧ s.check.running = false ∧
         s.rowMap.slot 2 = some (slotOf 2 (.claimed .left)) ∧ s.mem.op = .none ∧ s.mem.zones[calibZone .right]? ≠ some .defaulted ∧
         s.rowMap.claimOf (otherBoom .right) = some (slotOf 2 (.claimed .left)) ∧ s.rowMap.slot 3 = some (slotOf 3 .isOpen) ∧
         ((2 : Int) - 3).natAbs < s.params.plan.separation ∧ s.params.plan.separation ≤ ((2 : Int) - 4).natAbs) ∧
      (let s := asked { bench with rowMap := RowMap.rowZero builtInPlan } .left 0x20 [2]
       takes s .left 0x20 .beginHole [2] = true ∧ s.rowMap.slot 2 = some (slotOf 2 .isOpen) ∧
         s.rowMap.claimOf .right = none ∧ s.interlocks.inter claimBlockers ≠ Interlocks.empty) := by decide +kernel

theorem test_witness_begin_hole_admitted :
    let s := asked (holed .drilled none id) .right 0x20 [4]
    takes s .right 0x20 .beginHole [4] = true ∧ s.check.running = false ∧ (s.boom .right).ctl.state = .idle ∧
      s.rowMap.slot 4 = some (slotOf 4 .isOpen) ∧ s.mem.op = .none ∧ s.mem.zones[calibZone .right]? ≠ some .defaulted ∧
      s.rowMap.claimOf (otherBoom .right) = some (slotOf 2 (.claimed .left)) ∧ s.params.plan.separation ≤ ((2 : Int) - 4).natAbs ∧
      s.interlocks.inter claimBlockers = Interlocks.empty := by decide +kernel

/-- A boom in a state of its hole, its cartridges counted and its feed window full, with a request in processing. -/
def stageAsked (st : BoomState) (code : Byte) : State :=
  asked (holed st none fun u =>
    { u with tracker := { u.tracker with cartridgeBase := some 3, latestCartridge := some 3, window := List.replicate 25 20 } }) .left code []

theorem test_witness_stage_requests :
    ∀ v ∈ ([(0x21, .collar, .holeOpen, .collaring), (0x22, .drill, .collared, .drilling), (0x22, .drill, .drilled, .drilling),
        (0x23, .retract, .drilled, .retracting), (0x24, .insert, .retracted, .inserting), (0x25, .spin, .inserted, .spinning),
        (0x26, .torque, .set, .torquing)] : List (Byte × RequestKind × BoomState × BoomState)),
      let s := stageAsked v.2.2.1 v.1
      takes s .left v.1 v.2.1 [] = true ∧ (s.boom .left).ctl.state = v.2.2.1 ∧ (s.boom .left).link.state = .up ∧
        (s.boom .left).link.headFault = 0 ∧ s.interlocks.inter (blockers v.2.2.2) = Interlocks.empty ∧ s.demandKinds .left = [] ∧
        (s.boom .left).anchorage = some goodPlan ∧
        ({ s with rowMap := RowMap.rowZero builtInPlan } : State).interlocks.inter (blockers v.2.2.2) ≠ Interlocks.empty := by
  decide +kernel

/-- A COLLAR whose own capture crosses FEED_ZERO: its hole carries SENSOR_SUSPECT, and WEAR is raised (R154, R158, R161). -/
theorem test_collar_crosses_feed_zero :
    (match exec (.collar .left) ((stageAsked .holeOpen 0x21).modBoom .left fun u =>
        { u with tracker := { u.tracker with window := List.replicate 25 500 } }) with
      | .next t => (t.left.wear.feedZero.norm, t.left.ctl.hole.map HoleRecord.sensorSuspect, t.portLeft.causes.c6, t.portMachine.causes.c7)
      | _ => (0, none, false, false)) = (1, some true, true, true) := by decide +kernel

/-- The head's count wraps at 256 (R33): from a base of 250, a count of 3 is 9 cartridges. -/
theorem test_cartridge_count_wraps :
    (match exec (.insert .left) ((stageAsked .retracted 0x24).modTracker .left fun t =>
        { t with cartridgeBase := some 250, latestCartridge := some 3 }) with
      | .next t => t.left.ctl.hole.bind HoleRecord.cartridgesCounted
      | _ => none) = some 9 := by decide +kernel

theorem test_witness_resume :
    ∀ st ∈ [BoomState.collaring, .drilling, .retracting, .inserting, .spinning, .holding, .torquing],
      let s := asked (holed st (some .suspended) id) .left 0x29 []
      takes s .left 0x29 .resume [] = true ∧ (s.boom .left).ctl.state.isStage = true ∧ (s.boom .left).ctl.run = some .suspended ∧
        (s.boom .left).link.state = .up ∧ (s.boom .left).link.headFault = 0 ∧
        s.interlocks.inter (blockers (s.boom .left).ctl.state) = Interlocks.empty ∧ s.demandKinds .left = [] := by decide +kernel

theorem test_witness_stop_and_abandon :
    ∀ st ∈ [BoomState.collaring, .drilling, .retracting, .inserted, .torquing],
      takes (asked (holed st none id) .left 0x27 []) .left 0x27 .stop [] = true ∧
        takes (asked (holed st none id) .left 0x28 []) .left 0x28 .abandon [] = true ∧
        ((asked (holed st none id) .left 0x28 []).boom .left).ctl.state = st ∧
        ((asked (holed st none id) .left 0x28 []).boom .left).ctl.hole = some (HoleRecord.start 0 2 .left 1800) := by decide +kernel

/-! ## Witnesses: the row and the flow -/

theorem test_witness_support :
    bench.interlocks.supportLost = false ∧ (bench.monitor.breach 3 == .lo || !false) = true ∧
      ((holed .holding (some .running) id).boom .left).ctl.state.isStage = true := by decide +kernel

/-- The bench with every slot waived. -/
def readyRow : State := { bench with rowMap := bench.rowMap.mapSlots fun sl => { sl with state := .waived } }

theorem test_witness_row :
    (let s := asked readyRow .machine 0x42 []
     takes s .machine 0x42 .rowAdvance [] = true ∧ s.check.running = false ∧ s.rowMap.tramPermitted = false ∧
       (∀ sl ∈ s.rowMap.slots, sl.state = .waived) ∧ s.rowMap.overflow = false ∧
       s.arbiter.qAvail = availableFlow s.params.plan.qPump s.interlocks ∧ s.arbiter.demands = []) ∧
      takes (asked bench .machine 0x42 []) .machine 0x42 .rowAdvance [] = true ∧ slotOf 0 .isOpen ∈ bench.rowMap.slots ∧
      ∀ plan ∈ [none, some builtInPlan],
        let s := asked { readyRow with rowMap := { readyRow.rowMap with tramPermitted := true, pendingPlan := plan } } .machine 0x43 []
        takes s .machine 0x43 .tramDone [] = true ∧ s.rowMap.tramPermitted = true ∧ s.rowMap.supportSet = true ∧
          s.rowMap.pendingPlan = plan := by decide +kernel

theorem test_witness_plans :
    let s := asked bench .machine 0x46 [2, 0, 0x08, 7, 7, 0xC4, 9]
    takes s .machine 0x46 .setPlan [2, 0, 0x08, 7, 7, 0xC4, 9] = true ∧
      planOperand ((request 0x46 [2, 0, 0x08, 7, 7, 0xC4, 9]).operands.drop 1) =
        [{ position := 0, depth := 1800 }, { position := 7, depth := 2500 }] ∧
      operand (request 0x46 [2, 0, 0x08, 7, 7, 0xC4, 9]).operands 0 = 2 ∧
      (∀ sl ∈ s.rowMap.planned, sl.state = .isOpen) ∧ s.rowMap.supplementary = [] ∧
      (∃ sl ∈ readyRow.rowMap.planned, sl.state ≠ .isOpen) ∧
      ({ bench.rowMap with overflow := true } : RowMap).overflow = true :=
  ⟨by decide +kernel, by decide +kernel, by decide +kernel, by decide +kernel, by decide +kernel,
    ⟨slotOf 0 .waived, by decide +kernel, by decide +kernel⟩, by decide +kernel⟩

theorem test_witness_waive :
    takes (asked bench .machine 0x44 [0]) .machine 0x44 .waive [0] = true ∧ bench.rowMap.slot 0 = some (slotOf 0 .isOpen) ∧
      bench.rowMap.slot 6 = none ∧ (holed .drilled none id).rowMap.slot 2 = some (slotOf 2 (.claimed .left)) ∧
      readyRow.rowMap.slot 0 = some (slotOf 0 .waived) := by decide +kernel

theorem test_witness_flow :
    (let s := asked { bench with rowMap := { bench.rowMap with tramPermitted := true } } .machine 0x47 []
     takes s .machine 0x47 .flowTram [] = true ∧ s.check.running = false ∧ s.rowMap.tramPermitted = true ∧ s.arbiter.demands = [] ∧
       ∀ sl ∈ s.rowMap.slots, sl.state = .isOpen) ∧
      (let s := asked (demanding bench [granted .machine .support]) .machine 0x49 [1]
       takes s .machine 0x49 .flowRelease [1] = true ∧ s.check.running = false ∧ operand (request 0x49 [1]).operands 0 = 1 ∧
         s.arbiter.demands = [granted .machine .support] ∧ (granted .machine .support).owner = .machine) ∧
      slotOf 2 (.claimed .left) ∈ (holed .drilled none id).rowMap.slots := by decide +kernel

/-! ## Witnesses: the memory and the check -/

theorem test_witness_write :
    bench.mem.op = .none ∧ 93 ≤ zoneSize 5 ∧ zoneSize 5 < 69 + 25 ∧ 69 + 24 ≤ zoneSize 5 ∧
      (writePages 5 0 (List.replicate 17 1)).length = 2 ∧
      (let m : MemoryController := { bench.mem with op := .write (writePages 5 8 [1, 2, 3, 4, 5, 6, 7, 8, 9]), opTimer := 5 }
       m.op = .write [[(0x78, 1), (0x79, 2), (0x7A, 3), (0x7B, 4), (0x7C, 5), (0x7D, 6), (0x7E, 7), (0x7F, 8)], [(0x80, 9)]] ∧
         5 ≤ m.opTimer ∧ Memory.wf m.memory = true ∧ Memory.wf m.image = true) := by decide +kernel

/-- Zone 0 with machine number 1 and its checksum. -/
def zoneZero : List Host.Cell := [(0, 1), (1, 0)]

theorem test_witness_load :
    zoneSumOk [] 0 = false ∧ zoneSumOk zoneZero 0 = true ∧ ({ bench.mem with op := .load 6, opTimer := 2 } : MemoryController).op = .load 6 ∧
      bench.mem.zones.length = 7 ∧ (bench.boom .left).ctl.state = .idle ∧ (bench.boom .right).ctl.state = .idle ∧
      ((holed .drilled none id).boom .left).ctl.state ≠ .idle := by decide +kernel

/-- Loads of the zones with values of their own at the end of their 2 ms. -/
theorem test_witness_loads :
    (∀ z ∈ [0, 1, 2, 3, 4, 5, 6],
      let s : State := { bench with mem := { bench.mem with op := .load z, opTimer := 2 } }
      s.mem.op = .load z ∧ 2 ≤ s.mem.opTimer ∧ z ≤ 6 ∧ s.mem.zones.length = 7) ∧
      ∀ k ∈ [0, 5], bench.monitor.channels[k]?.isSome = true := by decide +kernel

/-- A load with an arbiter that is current and a save waiting. -/
theorem test_witness_current_load :
    ({ bench with mem := { bench.mem with op := .load 6, opTimer := 2, pendingSave := true } } : State).flowCurrent :=
  ⟨by decide +kernel, fun _ h => absurd h (List.not_mem_nil)⟩

/-- Values in their ranges. -/
theorem test_witness_ranges : Zone1.builtIn.inRange ∧ (Calib.builtIn .left).inRange ∧ Zone4.builtIn.inRange ∧ Zone5.builtIn.inRange := by
  refine ⟨by unfold Zone1.inRange; decide, by unfold Calib.inRange; decide, by unfold Zone4.inRange; decide, ?_⟩
  unfold Zone5.inRange Flow.inRange
  refine ⟨by decide, by decide, by decide, by decide, by decide, by decide, by decide, ?_, by decide⟩
  rintro q (rfl | rfl | rfl | rfl) <;> decide

theorem test_witness_save :
    bench.mem.op = .none ∧ ({ bench.mem with op := .load 0 } : MemoryController).op ≠ .none ∧
      ({ bench.mem with op := .save (savePage 0 16777215), opTimer := 5 } : MemoryController).op = .save (savePage 0 16777215) ∧
      16777215 < 2 ^ 24 ∧ Memory.wf bench.mem.memory = true ∧ Memory.wf bench.mem.image = true := by decide +kernel

/-- R157: a BIT_WEAR that was CROSSED recovers and raises WEAR on both ports, and the request joins the list. -/
theorem test_bit_changed_recovers :
    (match exec (.bitChanged .left) (asked (bench.modBoom .left fun u =>
        { u with wear := { u.wear with bitWear := { u.wear.bitWear with norm := 1, crossed := true } } }) .left 0x2A []) with
      | .next t => (t.left.wear.bitWear.crossed, t.portLeft.causes.c6, t.portMachine.causes.c7, t.portLeft.recent.map RecentEntry.kind)
      | _ => (true, false, false, [])) = (false, true, true, [0x2A]) := by decide +kernel

/-- A check running with steps to go and the code of step 1. -/
def checking (remaining c1 : Nat) : SelfCheck := { running := true, remaining, last := none, c1, stepTimer := 2 }

theorem test_witness_check :
    (checking 15 0).running = true ∧ 2 ≤ (checking 15 0).stepTimer ∧ 16 - (checking 15 0).remaining = 1 ∧ 16 - (checking 13 655).remaining = 3 ∧
      16 - (checking 12 655).remaining = 4 ∧ 1 ≤ (checking 1 655).remaining ∧ bench.monitor.refExp = 655 ∧
      (∀ d ∈ bench.arbiter.demands, d.owner ≠ .machine) ∧ ({ bench with check := checking 1 655 } : State).check.running = true := by
  decide +kernel

theorem test_witness_abort :
    let s := asked { bench with check := checking 7 655 } .machine 0x47 []
    s.check.running = true ∧ s.taken .machine .flowTram (request 0x47 []) ∧
      s.arbiter.qAvail = availableFlow s.params.plan.qPump s.interlocks :=
  ⟨by decide +kernel, ⟨by decide +kernel, by decide +kernel, by decide +kernel⟩, by decide +kernel⟩

/-! ## Witnesses: ground, plan and allocation -/

theorem test_witness_slices :
    (workedSlice 1).n ≠ 0 ∧ 256 ≤ (256 : Nat) ∧ 1 ≤ Zone1.builtIn.consts.seFull ∧
      (classify Zone1.builtIn.consts (Calib.builtIn .left) 256 Classifier.reset (workedSlice 1)).classifier.last.isSome = true := by
  decide +kernel

/-- Where a slice is placed: an open layer of its class; one of another class; a thin one between it and a layer of its class; a full
list with a pair that may merge; and a full one without. -/
theorem test_witness_placements :
    let cl (ls : List Layer) : Classifier := { Classifier.reset with layers := ls }
    let full : List Layer := (List.range 16).map fun i => layerOf (if i % 2 = 0 then .void else .unmeasured) (10 * i) (10 * i + 10)
    let placed (ls : List Layer) : Option (Ground × Placement) :=
      (classify Zone1.builtIn.consts (Calib.builtIn .left) 256 (cl ls) (workedSlice 200)).classifier.last.map fun r =>
        (r.given, r.placement)
    placed [] = some (.hard, .opened) ∧ placed [layerOf .hard 0 10] = some (.hard, .extended) ∧
      placed [layerOf .firm 0 10, layerOf .void 10 20] = some (.hard, .opened) ∧
      placed [layerOf .hard 0 10, layerOf .soft 10 20] = some (.hard, .absorbed) ∧
      fullList.length = 16 ∧ placed fullList = some (.hard, .merged) ∧ full.length = 16 ∧ placed (full.drop 1 ++ [layerOf .void 160 170]) =
        some (.hard, .forced) := by decide +kernel

/-- In the full list of section 3.10 a pair may merge; in one of VOID and UNMEASURED layers none may. -/
theorem test_witness_pairs : mayPair fullList 5 4 := by
  refine ⟨by decide, by decide, fun l h => ?_⟩
  rcases h with h | h <;> (obtain rfl := Option.some.inj h; exact ⟨by decide, by decide⟩)

theorem test_witness_layers :
    let layers := [layerOf .firm 0 410, layerOf .soft 410 520, layerOf .hard 520 1400]
    (∀ p ∈ layers.zip (layers.drop 1), p.1.bottom / 800 = p.2.top / 800) ∧ (∀ l ∈ layers, l.top ≤ l.bottom) := by decide +kernel

theorem test_witness_evaluation : 1 ≤ Zone5.builtIn.cMax ∧ 1 ≤ Zone5.builtIn.vC ∧ 1 ≤ (Calib.builtIn .left).kt := by decide

theorem test_witness_demands :
    ∀ d ∈ [granted .left .torque, granted .machine .tram, granted .right .drill, granted .left .drill], 0 < d.floor ∧ d.floor ≤ d.demand := by
  decide

end Sys2Proof.Tests
end

/-! ## What a step can do

The inversion of `step`, said once: an event of the part, or the service of a held request followed by its reply.
Every law that a step keeps is proved from these cases. -/
namespace Sys2Proof.Machine

/-- A stage request that leads to, or resumes, a stage passes its tests on link, head and interlocks (R77, R99). -/
def State.fitFor (s : State) (b : Boom) (st : BoomState) : Prop :=
  (s.boom b).link.fit = true ∧ s.interlocks.inter (blockers st) = Interlocks.empty

/-- What the block that owns a request does with it, before the reply is built. -/
inductive Service : State → State → Prop
  | nothing (s) : Service s s
  | clearCause (s) (p : Port) (code : Nat) :
      Service s (s.modPort p fun port => { port with causes := port.causes.put false code })
  | refuseForCheck (s) : Service s (s.stopCheck 1 none)
  | claim {s : State} {b : Boom} {n : Nat} {sl : Slot} (idle : (s.boom b).ctl.state = .idle) (found : s.rowMap.slot n = some sl)
      (isOpen : sl.state = .isOpen) (clear : s.interlocks.inter claimBlockers = Interlocks.empty) : Service s (s.grantClaim b sl)
  | collar {s : State} {b : Boom} (at' : (s.boom b).ctl.state = .holeOpen) (fit : s.fitFor b .collaring) : Service s (s.takeCollar b)
  | drill {s : State} {b : Boom} (at' : (s.boom b).ctl.state = .collared ∨ (s.boom b).ctl.state = .drilled)
      (fit : s.fitFor b .drilling) : Service s (s.takeDrill b)
  | retract {s : State} {b : Boom} (at' : (s.boom b).ctl.state = .collared ∨ (s.boom b).ctl.state = .drilled)
      (fit : s.fitFor b .retracting) : Service s (s.takeRetract b)
  | insert {s : State} {b : Boom} (at' : (s.boom b).ctl.state = .retracted) (fit : s.fitFor b .inserting) : Service s (s.takeInsert b)
  | spin {s : State} {b : Boom} (at' : (s.boom b).ctl.state = .inserted) (fit : s.fitFor b .spinning) : Service s (s.takeSpin b)
  | torque {s : State} {b : Boom} (at' : (s.boom b).ctl.state = .set) (fit : s.fitFor b .torquing) : Service s (s.takeTorque b)
  | resume {s : State} {b : Boom} (stage : (s.boom b).ctl.state.isStage = true) (held : (s.boom b).ctl.run = some .suspended)
      (fit : s.fitFor b (s.boom b).ctl.state) : Service s (s.takeResume b)
  | endStage {s : State} {b : Boom} (e : StageEnd) (stage : (s.boom b).ctl.state.isStage = true) (fails : e ≠ .success) :
      Service s (s.endStage b e none (s.stance b))
  | abandonWait {s : State} {b : Boom} (away : (s.boom b).ctl.state ≠ .idle) (wait : (s.boom b).ctl.state.isStage = false) :
      Service s (s.closeHole b .givenUp (s.boom b).ctl.state none)
  | bitChanged (s) (b : Boom) : Service s (s.modWear b WearTable.newBit).askSave
  | declare (s) (isSet : Bool) : Service s (s.declare isSet)
  | rowAdvance {s : State} (ready : s.rowMap.ready = true) : Service s ((s.setTram true).raiseBoth .row)
  | tramDone {s : State} (permitted : s.rowMap.tramPermitted = true) : Service s s.tramDone.state
  | waive {s : State} {n : Nat} {sl : Slot} (found : s.rowMap.slot n = some sl) (isOpen : sl.state = .isOpen) :
      Service s
        ({ s with rowMap := s.rowMap.mapSlots fun x => if x.number = n then { x with state := .waived } else x } : State).raiseReady
  | clearOverflow (s) : Service s ({ s with rowMap := { s.rowMap with overflow := false } } : State).raiseReady
  | setPlan {s : State} {count : Nat} {plan : List PlanSlot} (usable : planUsable count plan = true) :
      Service s (s.placePlan (clampPlan plan))
  | askFlow {s : State} {k : DemandKind} (machine : k = .tram ∨ k = .support) (unclaimed : s.rowMap.anyClaim = false)
      (permitted : k = .tram → s.rowMap.tramPermitted = true) : Service s (s.arrive .machine k)
  | releaseFlow (s) (k : DemandKind) : Service s (s.depart fun d => d.owner == .machine && d.kind == k)
  | memory (s) (f : MemoryController → MemoryController) : Service s (s.modMem f)
  | badZone (s) (z : Nat) : Service s (s.logPartFault .device .configZoneBad (some z))
  | askSave (s) : Service s s.askSave
  | startCheck (s) : Service s s.startCheck.state

/-- What a command does that is no request settled by a block. -/
inductive Event : State → State → Prop
  | nothing (s) : Event s s
  | power (s) (ph : Phase) (h : ph ≠ .operating) : Event s (s.powerCycle ph)
  | resetN (s) : Event s { s.resetN with resetNLow := true }
  | pinLow (s) : Event s { s with resetNLow := true }
  | pinHigh (s) : Event s { s with resetNLow := false, phase := if s.phase = .inReset then .selfTest else s.phase }
  | selfTest {s : State} (h : s.phase = .selfTest) (memoryPass logicPass : Bool) (pins : Straps) :
      Event s (State.zonePass { s.recordPost memoryPass logicPass with straps := pins } false)
  | opening {s : State} {a : Bool} (h : s.phase = .zonesRead a) : Event s (s.openPart a)
  | requestReset {s : State} {q : Request} (h : s.processing .machine = some q) (pins : Straps) : Event s (s.requestReset pins)
  | receive (s) (b : Boom) (bits : List Bool) : Event s (s.receive b bits)
  | take (s) (b : Boom) : Event s (s.take b).state
  | poll {s : State} {b : Boom} (due : (s.boom b).link.pollDue = true) : Event s (s.expirePoll b)
  | stageTimer {s : State} {b : Boom} (e : StageEnd) (stage : (s.boom b).ctl.state.isStage = true)
      (held : e = .success → (s.boom b).ctl.state = .holding) : Event s (s.endStage b e none (s.stance b))
  | waitTimer {s : State} {b : Boom} (f : FaultCode) (how : CloseKind) (away : (s.boom b).ctl.state ≠ .idle)
      (wait : (s.boom b).ctl.state.isStage = false) : Event s (s.faultInWait b f how)
  | convert (s) (code : Nat) : Event s (s.convert code)
  | round (s) : Event s (s.modMonitor Monitor.startRound)
  | transferBegin (s) (p : Port) : Event s (s.modPort p fun _ => s.beginTransfer p)
  | transferEnd (s) (p : Port) (bits : List Bool) : Event s (s.modPort p fun port => port.endTransfer bits s.millis)
  | reject {s : State} {p : Port} {q : Request} (h : s.processing p = some q) (code : ReplyCode) : Event s (s.reject p code)
  | page (s) (f : MemoryController → MemoryController) : Event s (s.modMem f)
  | operationDone (s) (f : MemoryController → MemoryController) : Event s (s.modMem f).finishOperation
  | loadDone (s) (z : Nat) (st : ZoneState) : Event s ((s.applyLoad z).markZone z st).finishOperation
  | checkStep (s) (code : Nat) : Event s (s.passStep code)
  | checkFails (s) (result : Nat) (detail : Option Nat) : Event s (s.stopCheck result detail)

/-- What a command does: an event, or a held request served and answered. -/
inductive Command (s t : State) : Prop
  | event (h : Event s t)
  | served {u : State} {p : Port} {q : Request} {k : RequestKind} (held : s.held p k = some q) (h : Service s u) (c : ReplyCode)
      (payload : List Byte) (ht : t = u.finish p q k c payload)

theorem Command.nothing (s : State) : Command s s := .event (.nothing s)

/-- A request whose block does one of the services is a command. -/
theorem command_serve {s : State} {p : Port} {k : RequestKind} {body : List Byte → State → Answer}
    (hb : ∀ ops, Service s (body ops s).state) : Command s (s.serve p k body) := by
  unfold State.serve
  cases held : s.held p k with
  | none => exact .nothing s
  | some q =>
    simp only []
    split
    · exact .served held (.nothing s) _ _ rfl
    · split
      · exact .served held (.nothing s) _ _ rfl
      · exact .served held (hb _) _ _ rfl

/-! ### The blocks -/

theorem service_stageRequest {s : State} {b : Boom} {inState planOk : Bool} {stage : BoomState} {take : State → State}
    (h : inState = true → planOk = true → s.fitFor b stage → Service s (take s)) :
    Service s (s.stageRequest b inState planOk stage take).state := by
  unfold State.stageRequest
  simp only []
  repeat' split
  all_goals first | exact .nothing s | skip
  exact h (by simp_all) (by simp_all) ⟨by simp_all, by simp_all⟩

theorem service_part (s : State) (part : Option (List Byte)) : Service s (answerPart s part).state := by
  cases part <;> exact .nothing s

theorem service_clearCause (s : State) (p : Port) (code : Nat) : Service s (s.clearCause p code).state := by
  unfold State.clearCause
  split
  · exact .clearCause s p code
  · exact .nothing s

theorem service_beginHole (s : State) (b : Boom) (n : Nat) : Service s (s.beginHole b n).state := by
  unfold State.beginHole
  split
  · exact .nothing s
  · rename_i idle
    split
    · exact .refuseForCheck s
    · split
      · exact .nothing s
      · rename_i sl found
        unfold State.claim
        simp only []
        repeat' split
        all_goals first | exact .nothing s | skip
        exact .claim (by simpa using idle) found (by assumption) (by simp_all)

theorem service_stop (s : State) (b : Boom) : Service s (s.stopStage b).state := by
  unfold State.stopStage
  split
  · rename_i h
    refine .endStage .stop ?_ (by simp)
    simp only [State.inState, Bool.or_eq_true, beq_iff_eq] at h
    rcases h with (h | h) | h <;> simp [h, BoomState.isStage]
  · exact .nothing s

theorem service_abandon (s : State) (b : Boom) : Service s (s.abandon b).state := by
  unfold State.abandon
  simp only []
  split
  · exact .nothing s
  · split
    · exact .endStage .abandon (by assumption) (by simp)
    · exact .abandonWait (by assumption) (by simp_all)

theorem service_bitChanged (s : State) (b : Boom) : Service s (s.bitChanged b).state := by
  unfold State.bitChanged
  split
  · exact .bitChanged s b
  · exact .nothing s

theorem service_rowAdvance (s : State) : Service s s.rowAdvance.state := by
  unfold State.rowAdvance
  repeat' split
  · exact .refuseForCheck s
  · exact .nothing s
  · exact .nothing s
  · exact .rowAdvance (by simp_all)

theorem service_tramDone (s : State) : Service s s.tramDone.state := by
  by_cases h : s.rowMap.tramPermitted = true
  · exact .tramDone h
  · simp only [State.tramDone, h]
    exact .nothing s

theorem service_waive (s : State) (n : Nat) : Service s (s.waive n).state := by
  unfold State.waive
  split
  · exact .nothing s
  · rename_i sl found
    split
    · exact .nothing s
    · exact .nothing s
    · exact .nothing s
    · exact .waive found (by assumption)

theorem service_clearOverflow (s : State) : Service s s.clearOverflow.state := by
  unfold State.clearOverflow
  split
  · exact .clearOverflow s
  · exact .nothing s

theorem service_setPlan (s : State) (count : Nat) (plan : List PlanSlot) : Service s (s.setPlan count plan).state := by
  unfold State.setPlan
  split
  · exact .setPlan (by assumption)
  · exact .nothing s

theorem service_askFlow (s : State) {k : DemandKind} (hk : k = .tram ∨ k = .support) : Service s (s.askFlow k).state := by
  unfold State.askFlow
  repeat' split
  · exact .refuseForCheck s
  · exact .nothing s
  · exact .nothing s
  · exact .nothing s
  · exact .askFlow hk (by simp_all) (by simp_all)

theorem service_releaseFlow (s : State) (n : Nat) : Service s (s.releaseFlow n).state := by
  unfold State.releaseFlow
  repeat' split
  · exact .refuseForCheck s
  · exact .nothing s
  · exact .releaseFlow s _
  · exact .nothing s

theorem service_writeZone (s : State) (z offset : Nat) (data : List Byte) : Service s (s.writeZone z offset data).state := by
  unfold State.writeZone
  repeat' split
  · exact .nothing s
  · exact .nothing s
  · exact .memory s fun m => { m with op := .write (writePages z offset data), opTimer := 0 }

theorem service_loadZone (s : State) (z : Nat) : Service s (s.loadZone z).state := by
  unfold State.loadZone
  repeat' split
  · exact .nothing s
  · exact .nothing s
  · exact .nothing s
  · exact .badZone s z
  all_goals exact .memory s fun m => { m with op := .load z, opTimer := 0 }

/-! ### The events -/

theorem event_expire {s : State} {b : Boom} (f : FaultCode) (how : CloseKind) (away : (s.boom b).ctl.state ≠ .idle) :
    Event s (s.expire b f how) := by
  unfold State.expire
  split
  · exact .stageTimer _ (by assumption) (by simp)
  · exact .waitTimer f how away (by simp_all)

theorem event_convert (s : State) (c : Prop) [Decidable c] (code : Nat) {t : State}
    (h : (if c then Host.Outcome.next (φ := Fault) (ρ := Refusal) (s.convert code) else .next s) = .next t) : Event s t := by
  split at h <;> cases h
  · exact .convert s code
  · exact .nothing s

theorem event_poll {s : State} {b : Boom} {due : Bool} (h : due = true → (s.boom b).link.pollDue = true) {t : State}
    (ht : (if due then Host.Outcome.next (φ := Fault) (ρ := Refusal) (s.expirePoll b) else .next s) = .next t) : Event s t := by
  split at ht <;> cases ht
  · exact .poll (h (by assumption))
  · exact .nothing s

theorem event_takeWhen (s : State) (b : Boom) (due : Bool) : Event s (takeWhen s b due) := by
  unfold takeWhen
  split
  · exact .take s b
  · exact .nothing s

/-- A timer of a stage in progress that is due ends the stage, and one that is not does nothing. -/
theorem event_stageTimer {s : State} {b : Boom} {due : Bool} {e : StageEnd} {st : BoomState}
    (h : due = true → (s.boom b).ctl.state = st) (hs : st.isStage = true) (hm : e = .success → st = .holding) {t : State}
    (ht : (if due then Host.Outcome.next (φ := Fault) (ρ := Refusal) (s.endStage b e none (s.stance b)) else .next s) = .next t) :
    Event s t := by
  split at ht <;> cases ht
  · have hst := h (by assumption)
    exact .stageTimer e (by rw [hst]; exact hs) (fun he => hst.trans (hm he))
  · exact .nothing s

theorem event_pageWriteComplete {s t : State} (h : execPageWriteComplete s = .next t) : Event s t := by
  unfold execPageWriteComplete at h
  repeat' split at h
  all_goals cases h
  · exact .page s _
  · exact .operationDone s _
  · exact .operationDone s id
  · exact .nothing s

theorem event_loadComplete {s t : State} (h : execLoadComplete s = .next t) : Event s t := by
  unfold execLoadComplete at h
  repeat' split at h
  all_goals cases h
  · exact .loadDone s _ _
  · exact .nothing s
  · exact .nothing s

theorem event_saveComplete {s t : State} (h : execSaveComplete s = .next t) : Event s t := by
  unfold execSaveComplete at h
  repeat' split at h
  all_goals cases h
  · exact .operationDone s _
  · exact .nothing s
  · exact .nothing s

theorem event_checkStepEnd {code : Code} {s t : State} (h : execCheckStepEnd code s = .next t) : Event s t := by
  unfold execCheckStepEnd at h
  repeat' split at h
  all_goals cases h
  · exact .checkStep s _
  · exact .checkFails s _ _
  · exact .nothing s

theorem event_transferBegin {p : Port} {s t : State} (h : execTransferBegin p s = .next t) : Event s t := by
  unfold execTransferBegin at h
  split at h <;> cases h
  · exact .nothing s
  · exact .transferBegin s p

theorem event_transferEnd {p : Port} {bits : List Bool} {s t : State} (h : execTransferEnd p bits s = .next t) : Event s t := by
  simp only [execTransferEnd, Host.Outcome.next.injEq] at h
  subst h
  by_cases hp : (s.port p).transfer.isSome = true
  · have : (s.modPort p fun port => if port.transfer.isSome then port.endTransfer bits s.millis else port) =
        s.modPort p fun port => port.endTransfer bits s.millis := by
      cases p <;> simp_all [State.modPort, State.port]
    rw [this]
    exact .transferEnd s p bits
  · have : (s.modPort p fun port => if port.transfer.isSome then port.endTransfer bits s.millis else port) = s := by
      cases p <;> simp_all [State.modPort, State.port]
    rw [this]
    exact .nothing s

theorem command_reset {pins : Straps} {s t : State} (h : execReset pins s = .next t) : Command s t := by
  unfold execReset at h
  cases held : s.held .machine .reset with
  | none => rw [held] at h; cases h; exact .nothing s
  | some q =>
    rw [held] at h
    simp only [] at h
    split at h <;> cases h
    · refine .event (.requestReset (q := q) ?_ pins)
      revert held
      unfold State.held
      split <;> simp_all
    · exact .served held (.nothing s) _ _ rfl

/-! ### The inversion -/

/-- Whatever a command does is an event or a service with its reply. -/
theorem exec_command {c : Instr} {s t : State} (h : exec c s = .next t) : Command s t := by
  cases c with
  | powerOn => cases h; exact .event (.power s _ (by split <;> simp))
  | powerOff => cases h; exact .event (.power s _ (by simp))
  | resetNAssert =>
    simp only [exec, execResetNAssert] at h
    repeat' split at h
    all_goals cases h
    · exact .nothing s
    · exact .event (.pinLow s)
    · exact .event (.resetN s)
  | resetNRelease =>
    simp only [exec, execResetNRelease] at h
    split at h <;> cases h
    · exact .event (.pinHigh s)
    · exact .nothing s
  | startUpSelfTestComplete memoryPass logicPass pins =>
    simp only [exec, execStartUpSelfTestComplete] at h
    split at h <;> cases h
    · exact .event (.selfTest (by assumption) memoryPass logicPass pins)
    · exact .nothing s
  | opening =>
    simp only [exec, execOpening] at h
    split at h <;> cases h
    · exact .event (.opening (by assumption))
    · exact .nothing s
  | frameClose b bits | frameAbort b bits | flagSeen b bits | frameStart b bits | syncLostToHunt b bits =>
    cases h; exact .event (.receive s b bits)
  | fifoTake b => cases h; exact .event (.take s b)
  | encoderReferenceDrop b | block b | stall b | mixTargetReached b | torqueAchieved b | slipped b =>
    cases h; exact .event (event_takeWhen s b _)
  | pollExpiry b => exact .event (event_poll id h)
  | linkUp b => exact .event (event_poll (fun d => by simp_all [HeadLink.upDue]) h)
  | linkLost b => exact .event (event_poll (fun d => by simp_all [HeadLink.lostDue]) h)
  | qualityBlockEnd b => exact .event (event_poll (fun d => by simp_all [HeadLink.blockDue]) h)
  | noContact b =>
    exact .event (event_stageTimer (st := .collaring) (fun d => by simp_all [State.noContactDue]) rfl (by simp) h)
  | holdTimeElapsed b =>
    exact .event (event_stageTimer (st := .holding) (fun d => by simp_all [State.holdDue]) rfl (by simp) h)
  | torqueTimeout b =>
    exact .event (event_stageTimer (st := .torquing) (fun d => by simp_all [State.torqueTimeoutDue]) rfl (by simp) h)
  | mixIncomplete b =>
    exact .event (event_stageTimer (st := .spinning) (fun d => by simp_all [State.mixIncompleteDue]) rfl (by simp) h)
  | spinLate b =>
    simp only [exec, execSpinLate] at h
    split at h <;> cases h
    · exact .event (event_expire _ _ (fun e => by simp_all [State.spinLateDue]))
    · exact .nothing s
  | torqueMissed b =>
    simp only [exec, execTorqueMissed] at h
    split at h <;> cases h
    · exact .event (event_expire _ _ (fun e => by simp_all [State.torqueMissedDue]))
    · exact .nothing s
  | waitTimeout b =>
    simp only [exec, execWaitTimeout] at h
    split at h <;> cases h
    · rename_i due
      have hw := ((waitTimeoutDue_iff s b).1 due).1
      refine .event (.waitTimer _ _ ?_ ?_) <;> cases hs : (s.boom b).ctl.state <;>
        simp_all [BoomState.waitsBetween, BoomState.isStage]
    · exact .nothing s
  | conversionEnd code => cases h; exact .event (.convert s _)
  | breachChange code | monitorFault code | monitorFaultClear code | warmupEnd code =>
    exact .event (event_convert s _ _ h)
  | roundStart =>
    simp only [exec, execRoundStart] at h
    split at h <;> cases h
    · exact .event (.round s)
    · exact .nothing s
  | transferBegin p => exact .event (event_transferBegin h)
  | transferEnd p received => exact .event (event_transferEnd h)
  | frameError p =>
    simp only [exec, execFrameError] at h
    repeat' split at h
    all_goals cases h
    · exact .event (.reject (by assumption) _)
    · exact .nothing s
    · exact .nothing s
  | unknownKind p =>
    simp only [exec, execUnknownKind] at h
    repeat' split at h
    all_goals cases h
    · exact .event (.reject (by assumption) _)
    · exact .nothing s
    · exact .nothing s
  | nop p => cases h; exact command_serve fun _ => .nothing s
  | clearCause p => cases h; exact command_serve fun _ => service_clearCause s p _
  | readStatus p | readHole p | readRow p | readFault p | readMonitor p => cases h; exact command_serve fun _ => service_part s _
  | readAttributes p | readLink p => cases h; exact command_serve fun _ => service_part s _
  | readLive p =>
    cases h
    refine command_serve fun ops => ?_
    cases p with
    | left => exact service_part s _
    | right => exact service_part s _
    | machine => exact service_part s _
  | beginHole b => cases h; exact command_serve fun _ => service_beginHole s b _
  | stop b => cases h; exact command_serve fun _ => service_stop s b
  | abandon b => cases h; exact command_serve fun _ => service_abandon s b
  | bitChanged b => cases h; exact command_serve fun _ => service_bitChanged s b
  | supportSet | supportReleased => cases h; exact command_serve fun _ => .declare s _
  | rowAdvance => cases h; exact command_serve fun _ => service_rowAdvance s
  | tramDone => cases h; exact command_serve fun _ => service_tramDone s
  | waive => cases h; exact command_serve fun _ => service_waive s _
  | clearOverflow => cases h; exact command_serve fun _ => service_clearOverflow s
  | setPlan => cases h; exact command_serve fun _ => service_setPlan s _ _
  | flowTram => cases h; exact command_serve fun _ => service_askFlow s (.inl rfl)
  | flowSupport => cases h; exact command_serve fun _ => service_askFlow s (.inr rfl)
  | flowRelease => cases h; exact command_serve fun _ => service_releaseFlow s _
  | writeZone => cases h; exact command_serve fun _ => service_writeZone s _ _ _
  | loadZone => cases h; exact command_serve fun _ => service_loadZone s _
  | saveWear => cases h; exact command_serve fun _ => .askSave s
  | selfCheck => cases h; exact command_serve fun _ => .startCheck s
  | pageWriteComplete => exact .event (event_pageWriteComplete h)
  | loadComplete => exact .event (event_loadComplete h)
  | saveComplete => exact .event (event_saveComplete h)
  | checkStepEnd code => exact .event (event_checkStepEnd h)
  | reset pins => exact command_reset h
  | collar b =>
    cases h
    exact command_serve fun _ => service_stageRequest fun hi _ hf => .collar (by simpa [State.inState] using hi) hf
  | drill b =>
    cases h
    exact command_serve fun _ => service_stageRequest fun hi _ hf => .drill (by simpa [State.inState] using hi) hf
  | retract b =>
    cases h
    exact command_serve fun _ => service_stageRequest fun hi _ hf => .retract (by simpa [State.inState] using hi) hf
  | insert b =>
    cases h
    exact command_serve fun _ => service_stageRequest fun hi _ hf => .insert (by simpa [State.inState] using hi) hf
  | spin b =>
    cases h
    exact command_serve fun _ => service_stageRequest fun hi _ hf => .spin (by simpa [State.inState] using hi) hf
  | torque b =>
    cases h
    exact command_serve fun _ => service_stageRequest fun hi _ hf => .torque (by simpa [State.inState] using hi) hf
  | resume b =>
    cases h
    exact command_serve fun _ => service_stageRequest fun hi _ hf => by
      simp only [Bool.and_eq_true, beq_iff_eq] at hi
      exact .resume hi.1 hi.2 hf

/-- A step is a millisecond, or the command at the front of the queue on the state with the queue's rest. -/
theorem step_command {s t : State} (h : step s = .next t) :
    t = s.tick ∨ ∃ rest, Command { s with pending := rest } t := by
  unfold step at h
  split at h
  · cases h; exact .inl rfl
  · exact .inr ⟨_, exec_command h⟩

/-- The induction over a step, packaged once: a law that does not speak of the queue, and that a millisecond, each event, each service and
the end of a request's processing keep, is kept by every step. -/
theorem step_keeps {I : State → Prop} (queue : ∀ s q, I s → I { s with pending := q }) (tick : ∀ s, I s → I s.tick)
    (event : ∀ {s t}, Event s t → I s → I t)
    (service : ∀ {s u p k q}, s.held p k = some q → Service s u → I s → I u)
    (finish : ∀ u p q k c x, I u → I (u.finish p q k c x)) {s t : State} (h : step s = .next t) (hs : I s) : I t := by
  rcases step_command h with rfl | ⟨rest, hc⟩
  · exact tick s hs
  · cases hc with
    | event he => exact event he (queue s rest hs)
    | served held hu c x ht => rw [ht]; exact finish _ _ _ _ _ _ (service held hu (queue s rest hs))

end Sys2Proof.Machine

/-! ## Slices handed on

What a slice, and a run of slices, makes of its own boom: the classifier and the wear table of `State.handed`, and the mark in the hole. -/
namespace Sys2Proof.Machine

/-- The classification of a slice with a boom's classifier and wear table as given. -/
def State.classifyWith (s : State) (b : Boom) (r : Classifier × WearTable) (c : ClosedSlice) : Classified :=
  classify s.params.classifier (s.calib b) r.2.w r.1 c

/-- Classifier and wear table after one slice. -/
def State.handOne (s : State) (b : Boom) (r : Classifier × WearTable) (c : ClosedSlice) : Classifier × WearTable :=
  ((s.classifyWith b r c).classifier, r.2.addGround s.params.classifier.wearRate (c.bottom - c.top))

/-- Whether one of the slices handed on brings an act that `f` tells of it. -/
def State.anyHanded (s : State) (b : Boom) (f : Classifier × WearTable → ClosedSlice → Bool) :
    Classifier × WearTable → List ClosedSlice → Bool
  | _, [] => false
  | r, c :: cs => f r c || s.anyHanded b f (s.handOne b r c) cs

/-- The slice brings more than 16 layers, which marks the hole (R53). -/
def State.overflowing (s : State) (b : Boom) (r : Classifier × WearTable) (c : ClosedSlice) : Bool := (s.classifyWith b r c).overflow

/-- The slice calls for LAYER (R52, R54). -/
def State.layering (s : State) (b : Boom) (r : Classifier × WearTable) (c : ClosedSlice) : Bool := (s.classifyWith b r c).raiseLayer

/-- The ground of the slice makes BIT_WEAR cross or recover (R154, R156). -/
def State.turning (s : State) (b : Boom) (r : Classifier × WearTable) (c : ClosedSlice) : Bool :=
  r.2.bitWear.crossed != (s.handOne b r c).2.bitWear.crossed

theorem anyHanded_iff {s : State} {b : Boom} {f : Classifier × WearTable → ClosedSlice → Bool} {cs : List ClosedSlice} : ∀ {r},
    s.anyHanded b f r cs = true ↔ ∃ pre c post, cs = pre ++ c :: post ∧ f (pre.foldl (s.handOne b) r) c = true := by
  induction cs with
  | nil => simp [State.anyHanded]
  | cons d cs ih =>
    intro r
    simp only [State.anyHanded, Bool.or_eq_true, ih]
    constructor
    · rintro (h | ⟨pre, c, post, rfl, h⟩)
      · exact ⟨[], d, cs, rfl, h⟩
      · exact ⟨d :: pre, c, post, rfl, h⟩
    · rintro ⟨pre, c, post, hcs, h⟩
      cases pre with
      | nil => cases hcs; exact .inl h
      | cons e pre => cases hcs; exact .inr ⟨pre, c, post, rfl, h⟩

/-- A hole record marked with LAYER_OVERFLOW, or left. -/
def HoleRecord.markOverflow (full : Bool) (h : HoleRecord) : HoleRecord := { h with layerOverflow := h.layerOverflow || full }

theorem HoleRecord.markOverflow_false (h : HoleRecord) : h.markOverflow false = h := by simp [HoleRecord.markOverflow]

theorem HoleRecord.markOverflow_or (x y : Bool) (h : HoleRecord) :
    (h.markOverflow x).markOverflow y = h.markOverflow (x || y) := by simp [HoleRecord.markOverflow, Bool.or_assoc]

theorem HoleRecord.markOverflow_true : HoleRecord.markOverflow true = fun h => { h with layerOverflow := true } := by
  funext h; simp [HoleRecord.markOverflow]

theorem map_markOverflow_false (h : Option HoleRecord) : h.map (HoleRecord.markOverflow false) = h := by
  cases h <;> simp [HoleRecord.markOverflow_false]

/-- A boom's blocks after slices: what `State.handed` gives, the bottom of the last, and the mark of an overflow. -/
def BoomUnit.withSlices (u : BoomUnit) (r : Classifier × WearTable) (bottom : Option Nat) (full : Bool) : BoomUnit :=
  { u with
    classifier := r.1, wear := r.2, tracker := { u.tracker with handedBottom := bottom }
    ctl := { u.ctl with hole := u.ctl.hole.map (HoleRecord.markOverflow full) } }

/-- The wear and the classifier of a boom, as a pair. -/
def BoomUnit.strata (u : BoomUnit) : Classifier × WearTable := (u.classifier, u.wear)

theorem handed_eq (s : State) (b : Boom) (cs : List ClosedSlice) : s.handed b cs = cs.foldl (s.handOne b) (s.boom b).strata := rfl

theorem boom_handSlice (s : State) (b : Boom) (c : ClosedSlice) :
    (s.handSlice b c).boom b =
      (s.boom b).withSlices (s.handOne b (s.boom b).strata c) (some c.bottom) (s.classifyWith b (s.boom b).strata c).overflow := by
  unfold State.handSlice BoomUnit.withSlices State.handOne State.classifyWith
  simp only [BoomUnit.strata]
  split <;> split <;> simp_all [ClosedSlice.length, map_markOverflow_false, HoleRecord.markOverflow_true]

theorem handOne_congr {s t : State} (h : t.backdrop = s.backdrop) (b : Boom) : t.handOne b = s.handOne b := by
  have hp : t.params = s.params := congrArg Backdrop.params h
  funext r c
  simp only [State.handOne, State.classifyWith, hp, calib_of_backdrop h b]

theorem anyHanded_congr {s t : State} (h : t.backdrop = s.backdrop) (b : Boom) (f : Classifier × WearTable → ClosedSlice → Bool)
    (cs : List ClosedSlice) : ∀ r, t.anyHanded b f r cs = s.anyHanded b f r cs := by
  induction cs with
  | nil => intro r; rfl
  | cons c cs ih =>
    intro r
    simp only [State.anyHanded, ih, handOne_congr h]

/-- What a slice brings depends on the boom's strata, on the live parameters, and on nothing else. -/
theorem acts_congr {s t : State} (h : t.backdrop = s.backdrop) (b : Boom) :
    t.overflowing b = s.overflowing b ∧ t.layering b = s.layering b ∧ t.turning b = s.turning b := by
  have hp : t.params = s.params := congrArg Backdrop.params h
  refine ⟨?_, ?_, ?_⟩ <;> funext r c <;>
    simp only [State.overflowing, State.layering, State.turning, State.classifyWith, hp, calib_of_backdrop h b, handOne_congr h]

/-- A run of slices handed on one after the other. -/
def State.handSlices (s : State) (b : Boom) (cs : List ClosedSlice) : State := cs.foldl (fun s c => s.handSlice b c) s

/-- The bottom of the ground handed on, after slices. -/
def bottomAfter (bottom : Option Nat) (cs : List ClosedSlice) : Option Nat := (cs.getLast?.map ClosedSlice.bottom).or bottom

theorem bottomAfter_cons (bottom : Option Nat) (c : ClosedSlice) (cs : List ClosedSlice) :
    bottomAfter (some c.bottom) cs = bottomAfter bottom (c :: cs) := by
  cases cs with
  | nil => simp [bottomAfter]
  | cons d ds => simp [bottomAfter, List.getLast?_cons]

theorem boom_handSlices (b : Boom) (cs : List ClosedSlice) : ∀ s : State,
    (s.handSlices b cs).boom b = (s.boom b).withSlices (s.handed b cs) (bottomAfter (s.boom b).tracker.handedBottom cs)
      (s.anyHanded b (s.overflowing b) (s.boom b).strata cs) := by
  induction cs with
  | nil =>
    intro s
    simp [State.handSlices, State.anyHanded, BoomUnit.withSlices, map_markOverflow_false, bottomAfter, handed_eq, BoomUnit.strata]
  | cons c cs ih =>
    intro s
    have hb := backdrop_handSlice s b c
    have h := ih (s.handSlice b c)
    rw [State.handSlices] at h ⊢
    simp only [List.foldl_cons]
    rw [h, handed_eq, handed_eq, boom_handSlice, handOne_congr hb, anyHanded_congr hb, (acts_congr hb b).1]
    simp only [BoomUnit.withSlices, BoomUnit.strata, Option.map_map, List.foldl_cons, State.anyHanded]
    rw [bottomAfter_cons (s.boom b).tracker.handedBottom]
    congr 3
    funext h
    simp [HoleRecord.markOverflow_or, State.overflowing]

theorem backdrop_handSlices (b : Boom) (cs : List ClosedSlice) : ∀ s : State, (s.handSlices b cs).backdrop = s.backdrop := by
  induction cs with
  | nil => intro s; rfl
  | cons c cs ih => intro s; exact (ih _).trans (backdrop_handSlice s b c)

theorem boom_handSlices_other {b d : Boom} (hd : d ≠ b) (cs : List ClosedSlice) :
    ∀ s : State, (s.handSlices b cs).boom d = s.boom d := by
  induction cs with
  | nil => intro s; rfl
  | cons c cs ih => intro s; exact (ih _).trans (boom_handSlice_other s hd c)

/-- A slice handed on leaves the arbiter, the row, both logs and the monitor. -/
theorem handSlices_keeps (b : Boom) (cs : List ClosedSlice) : ∀ s : State,
    (s.handSlices b cs).arbiter = s.arbiter ∧ (s.handSlices b cs).rowMap = s.rowMap ∧ (s.handSlices b cs).holeLog = s.holeLog ∧
      (s.handSlices b cs).faultLog = s.faultLog ∧ (s.handSlices b cs).monitor = s.monitor := by
  induction cs with
  | nil => intro s; exact ⟨rfl, rfl, rfl, rfl, rfl⟩
  | cons c cs ih =>
    intro s
    obtain ⟨ha, hr, hh, hf, hm⟩ := ih (s.handSlice b c)
    exact ⟨ha.trans (by simp), hr.trans (by simp), hh.trans (by simp), hf.trans (by simp), hm.trans (by simp)⟩

/-! ### The slice of a stage that ends -/

/-- The open slice closed where it holds 1 mm or more of ground (R30). -/
def DepthTracker.remnant (t : DepthTracker) : List ClosedSlice :=
  match t.slice with
  | some o => if 800 ≤ t.maxDepth - o.top then [o.close t.maxDepth] else []
  | none => []

theorem settleSlice_eq (s : State) (b : Boom) :
    s.settleSlice b =
      (s.handSlices b (s.boom b).tracker.remnant).modTracker b fun t => { t with slice := none, stallCount := 0 } := by
  unfold State.settleSlice DepthTracker.remnant State.handSlices
  cases hs : (s.boom b).tracker.slice with
  | none => simp [hs]
  | some o => by_cases h : 800 ≤ (s.boom b).tracker.maxDepth - o.top <;> simp [hs, h]

/-- A boom's blocks after the settling of its open slice. -/
theorem boom_settleSlice (s : State) (b : Boom) :
    (s.settleSlice b).boom b =
      { ((s.boom b).withSlices (s.handed b (s.boom b).tracker.remnant)
          (bottomAfter (s.boom b).tracker.handedBottom (s.boom b).tracker.remnant)
          (s.anyHanded b (s.overflowing b) (s.boom b).strata (s.boom b).tracker.remnant)) with
        tracker :=
          { (s.boom b).tracker with
            handedBottom := bottomAfter (s.boom b).tracker.handedBottom (s.boom b).tracker.remnant, slice := none, stallCount := 0 } } := by
  rw [settleSlice_eq, boom_modTracker_same, boom_handSlices]
  rfl

/-! ### The slices at boundaries -/

/-- The slices that the boundaries reached by maximum depth close. -/
def DepthTracker.cuts (t : DepthTracker) : List ClosedSlice :=
  match t.slice with
  | some o => boundaryCloses o (o.reached t.maxDepth)
  | none => []

/-- The slice open behind the boundaries reached. -/
def DepthTracker.reopened (t : DepthTracker) : Option OpenSlice :=
  t.slice.map fun o =>
    if o.reached t.maxDepth = 0 then o
    else OpenSlice.fresh (o.start + 8000 * o.reached t.maxDepth) (o.start + 8000 * o.reached t.maxDepth)

theorem modTracker_self {s : State} {b : Boom} {f : DepthTracker → DepthTracker} (h : f (s.boom b).tracker = (s.boom b).tracker) :
    s.modTracker b f = s := by
  cases b <;> simp_all [State.modTracker, State.modBoom, State.boom]

theorem modTracker_congr {s : State} {b : Boom} {f g : DepthTracker → DepthTracker}
    (h : f (s.boom b).tracker = g (s.boom b).tracker) : s.modTracker b f = s.modTracker b g := by
  cases b <;> simp_all [State.modTracker, State.modBoom, State.boom]

theorem modCtl_self {s : State} {b : Boom} {f : Controller → Controller} (h : f (s.boom b).ctl = (s.boom b).ctl) :
    s.modCtl b f = s := by
  cases b <;> simp_all [State.modCtl, State.modBoom, State.boom]

theorem closeAtBoundaries_eq (s : State) (b : Boom) :
    s.closeAtBoundaries b =
      (s.handSlices b (s.boom b).tracker.cuts).modTracker b fun t => { t with slice := (s.boom b).tracker.reopened } := by
  unfold State.closeAtBoundaries DepthTracker.cuts DepthTracker.reopened State.handSlices
  cases hs : (s.boom b).tracker.slice with
  | none =>
    refine (modTracker_self (s := s) ?_).symm
    rw [Option.map_none, ← hs]
  | some o =>
    simp only [Option.map_some]
    split
    · rename_i h0
      rw [h0]
      refine (modTracker_self (s := s) ?_).symm
      rw [← hs]
    · rfl

/-! ### The end of a stage, in its parts (R83) -/

/-- Steps 1 and 2: the fault marked in the hole, the demand withdrawn, and the stop latch set but for a success. -/
def State.stageCut (s : State) (b : Boom) (e : StageEnd) : State :=
  let s0 := match e.code with
    | some f => s.markFault b f
    | none => s
  if e = .success then s0.withdraw b else (s0.withdraw b).modLink b fun l => { l with stopLatch := true }

/-- Step 5: STAGE_END, and for a fault STAGE_FAULT and the record. -/
def State.stageReported (s : State) (b : Boom) (e : StageEnd) (detail : Option Nat) (stance : BoomState × Option RunCondition) : State :=
  match e with
  | .fault f => ((s.raise b .stageEnd).raise b .stageFault).logBoomFault b f detail stance
  | _ => s.raise b .stageEnd

theorem endStage_eq (s : State) (b : Boom) (e : StageEnd) (x : Option Nat) (st : BoomState × Option RunCondition) :
    s.endStage b e x st =
      (((s.stageCut b e).settleStage b (s.boom b).ctl.state e).afterStage b (s.boom b).ctl.state e).stageReported b e x st := by
  cases e <;> rfl

@[simp] theorem boom_stageReported (s : State) (b : Boom) (e : StageEnd) (x : Option Nat) (st : BoomState × Option RunCondition)
    (c : Boom) : (s.stageReported b e x st).boom c = s.boom c := by
  cases e <;> simp [State.stageReported]

/-- A hole with the fault of a stage's end marked in it. -/
def StageEnd.marks (e : StageEnd) (h : Option HoleRecord) : Option HoleRecord :=
  match e.code with
  | some f => h.map fun h => { h with fault := some f }
  | none => h

theorem boom_stageCut (s : State) (b : Boom) (e : StageEnd) :
    (s.stageCut b e).boom b =
      { s.boom b with
        link := if e = .success then (s.boom b).link else { (s.boom b).link with stopLatch := true }
        ctl := { (s.boom b).ctl with hole := e.marks (s.boom b).ctl.hole } } := by
  unfold State.stageCut StageEnd.marks
  cases e.code <;> by_cases he : e = .success <;> simp [he]

/-- Steps 1 and 2 leave the row, both logs and the monitor, and hand the rest of the machine its grants. -/
theorem stageCut_keeps (s : State) (b : Boom) (e : StageEnd) :
    (s.stageCut b e).backdrop = s.backdrop ∧ (s.stageCut b e).rowMap = s.rowMap ∧ (s.stageCut b e).holeLog = s.holeLog ∧
      (s.stageCut b e).faultLog = s.faultLog ∧ (s.stageCut b e).monitor = s.monitor := by
  unfold State.stageCut
  cases e.code <;> by_cases he : e = .success <;> simp [he]

/-! ### The work on a sample that is no glitch (R19 to R34) -/

/-- The tracker at the tests of R23: moved, at contact, its window fed. -/
def DepthTracker.placed (t : DepthTracker) (st : BoomState) (scale : Nat) (x : Sample) : DepthTracker :=
  (if (t.move scale x).contactDue st x then (t.move scale x).contact else t.move scale x).feedWindow st x

/-- The tracker behind a sample, before slices are cut at boundaries: maximum depth raised, the sample joined to the slice and shown. -/
def DepthTracker.worked (t : DepthTracker) (st : BoomState) (running : Bool) (scale : Nat) (x : Sample) : DepthTracker :=
  let t2 := t.placed st scale x
  let t3 := (t2.raiseMax st).accumulate (t2.atFace st) running x
  { t3 with
    lastSample :=
      { atFace := t2.atFace st, feed := t3.corrected x, rotation := x.rotation, speed := x.speed, collar := x.collar
        plate := x.plate, atStop := x.atStop } }

/-- Joining a sample to the open slice changes the slice alone. -/
theorem accumulate_eq (t : DepthTracker) (face running : Bool) (x : Sample) :
    t.accumulate face running x = { t with slice := (t.accumulate face running x).slice } := by
  unfold DepthTracker.accumulate; split <;> rfl

/-- New ground raises maximum depth alone. -/
theorem raiseMax_eq (t : DepthTracker) (st : BoomState) : t.raiseMax st = { t with maxDepth := (t.raiseMax st).maxDepth } := by
  unfold DepthTracker.raiseMax; split <;> rfl

/-- Behind the tests of R23 the tracker has maximum depth raised, the sample in its slice and the sample shown. -/
theorem worked_eq (t : DepthTracker) (st : BoomState) (running : Bool) (scale : Nat) (x : Sample) :
    t.worked st running scale x =
      { t.placed st scale x with
        maxDepth := ((t.placed st scale x).raiseMax st).maxDepth
        slice := (((t.placed st scale x).raiseMax st).accumulate ((t.placed st scale x).atFace st) running x).slice
        lastSample := (t.worked st running scale x).lastSample } := by
  simp only [DepthTracker.worked]
  rw [accumulate_eq, raiseMax_eq]

/-- The state behind the tracker's work on a sample, before the runs. -/
def State.workedOn (s : State) (b : Boom) (x : Sample) : State :=
  let u := s.boom b
  let s1 := s.modTracker b fun _ => u.tracker.worked u.ctl.state (u.ctl.run == some .running) (s.calib b).scale x
  let s2 :=
    if (u.tracker.move (s.calib b).scale x).contactDue u.ctl.state x then s1.modCtl b fun c => { c with collarTimer := none } else s1
  if (u.tracker.placed u.ctl.state (s.calib b).scale x).extends u.ctl.state then s2.closeAtBoundaries b else s2

theorem track_of_accepted {s : State} {b : Boom} {x : Sample}
    (h : isGlitch (encoderDelta (s.boom b).tracker.encoderRef x.count) = false) :
    s.track b x =
      (s.workedOn b x).trackRuns b x (((s.boom b).tracker.placed (s.boom b).ctl.state (s.calib b).scale x).atFace (s.boom b).ctl.state)
        (((s.boom b).tracker.placed (s.boom b).ctl.state (s.calib b).scale x).extends (s.boom b).ctl.state)
        (s.boom b).tracker.maxDepth := by
  unfold State.track
  simp only [h]
  rfl

theorem track_of_glitch {s : State} {b : Boom} {x : Sample}
    (h : isGlitch (encoderDelta (s.boom b).tracker.encoderRef x.count) = true) :
    (s.track b x).state = s.trackGlitch b ∧ (s.track b x).processed = false := by
  unfold State.track
  simp only [h]
  exact ⟨rfl, rfl⟩

/-- A tracker but for the stall run, its base and the block run. -/
def DepthTracker.unrun (t : DepthTracker) : DepthTracker := { t with stallCount := 0, stallBase := 0, blockRun := 0 }

/-- The runs of R31 and R32 move only the stall run, its base and the block run. -/
theorem state_trackRuns (s : State) (b : Boom) (x : Sample) (face raised : Bool) (before : Nat) :
    ∃ f, (s.trackRuns b x face raised before).state = s.modTracker b f ∧ ∀ t : DepthTracker, (f t).unrun = t.unrun := by
  unfold State.trackRuns
  simp only []
  split
  · exact ⟨id, (modTracker_self rfl).symm, fun _ => rfl⟩
  · split
    · let r := stallStep (s.boom b).tracker.stallCount (s.boom b).tracker.stallBase before (s.boom b).tracker.maxDepth
        (face && decide (s.params.plan.stallPressure ≤ (s.boom b).tracker.corrected x))
      exact ⟨fun t => { t with stallCount := r.1, stallBase := r.2.1 }, rfl, fun _ => rfl⟩
    · split
      · let r := blockStep (s.boom b).tracker.blockRun (decide ((s.boom b).tracker.depth < (s.boom b).insertLine) &&
          decide (s.params.plan.blockPressure ≤ (s.boom b).tracker.corrected x))
        exact ⟨fun t => { t with blockRun := r.1 }, rfl, fun _ => rfl⟩
      · exact ⟨id, (modTracker_self rfl).symm, fun _ => rfl⟩

/-- The counts of R66 and R88 move only the controller, and neither its state, its run condition nor whether it holds a hole. -/
theorem boom_countSample (s : State) (b : Boom) (x : Sample) :
    ∃ f, s.countSample b x = s.modCtl b f ∧ ∀ c : Controller, (f c).state = c.state ∧ (f c).run = c.run := by
  unfold State.countSample
  simp only []
  repeat' split
  · exact ⟨id, (modCtl_self rfl).symm, fun _ => ⟨rfl, rfl⟩⟩
  · exact ⟨_, rfl, fun _ => by exact ⟨rfl, rfl⟩⟩
  · exact ⟨_, rfl, fun _ => by exact ⟨rfl, rfl⟩⟩
  · exact ⟨id, (modCtl_self rfl).symm, fun _ => ⟨rfl, rfl⟩⟩

end Sys2Proof.Machine

/-! ## The receive queues, the depths and the layers of a boom (O7)

Both laws speak of one boom at a time, so each operation is met with `BoomUnit.Keeps`: what it makes of a boom keeps both. -/
namespace Sys2Proof.Machine

/-- The law of one boom's receive FIFO and depths; `State.headsSound` is this of both booms. -/
def BoomUnit.headSound (u : BoomUnit) : Prop := u.link.fifo.length ≤ 4 ∧ u.tracker.depthSound

theorem layersSound_iff (u : BoomUnit) :
    u.layersSound ↔ u.classifier.layers.length ≤ 16 ∧ Reaches u.classifier.layers u.tracker.handedBottom ∧
      (∀ o, u.tracker.slice = some o → o.top = u.tracker.handedBottom.getD 0) ∧
      (u.tracker.contactSeen = false → u.tracker.handedBottom = none ∧ u.tracker.slice = none ∧
        (u.ctl.state = .idle ∨ u.ctl.state = .holeOpen ∨ u.ctl.state = .collaring)) := by
  simp only [BoomUnit.layersSound, Reaches, isChain_iff_next, and_assoc]

/-- From one state of a boom's blocks to another both laws are kept. -/
def BoomUnit.Keeps (u v : BoomUnit) : Prop := (u.headSound → v.headSound) ∧ (u.layersSound → v.layersSound)

theorem BoomUnit.Keeps.refl (u : BoomUnit) : u.Keeps u := ⟨id, id⟩

theorem BoomUnit.Keeps.trans {u v w : BoomUnit} (h : u.Keeps v) (k : v.Keeps w) : u.Keeps w :=
  ⟨fun x => k.1 (h.1 x), fun x => k.2 (h.2 x)⟩

/-- The two laws look at the FIFO, the depths, where the open slice begins, the ground handed on, the layers, and the state of the boom:
before contact it may only stand in IDLE, HOLE_OPEN or COLLARING. -/
structure BoomUnit.GroundKept (u v : BoomUnit) : Prop where
  fifo : v.link.fifo = u.link.fifo
  depth : v.tracker.depth = u.tracker.depth
  maxDepth : v.tracker.maxDepth = u.tracker.maxDepth
  contact : v.tracker.contactSeen = u.tracker.contactSeen
  bottom : v.tracker.handedBottom = u.tracker.handedBottom
  slice : v.tracker.slice.map OpenSlice.top = u.tracker.slice.map OpenSlice.top
  layers : v.classifier.layers = u.classifier.layers
  state : v.ctl.state = u.ctl.state ∨ u.tracker.contactSeen = true ∨ v.ctl.state = .idle ∨ v.ctl.state = .holeOpen ∨
    v.ctl.state = .collaring

theorem BoomUnit.GroundKept.keeps {u v : BoomUnit} (h : u.GroundKept v) : u.Keeps v := by
  obtain ⟨hf, hd, hm, hc, hb, hs, hl, hst⟩ := h
  constructor
  · simp only [BoomUnit.headSound, DepthTracker.depthSound, hf, hd, hm, imp_self]
  · simp only [layersSound_iff, hb, hl, hc]
    rintro ⟨h16, hr, ht, hn⟩
    refine ⟨h16, hr, fun o ho => ?_, fun hcs => ?_⟩
    · rw [ho, Option.map_some] at hs
      obtain ⟨o', ho', hot⟩ := Option.map_eq_some_iff.1 hs.symm
      rw [← hot]
      exact ht o' ho'
    · obtain ⟨hbn, hsn, hstate⟩ := hn hcs
      refine ⟨hbn, by simpa [hsn] using hs, ?_⟩
      rcases hst with hst | hst | hst
      · rwa [hst]
      · rw [hcs] at hst; cases hst
      · exact hst

theorem BoomUnit.GroundKept.of_tracker {u v : BoomUnit} (hf : v.link.fifo = u.link.fifo) (ht : v.tracker = u.tracker)
    (hl : v.classifier.layers = u.classifier.layers)
    (hs : v.ctl.state = u.ctl.state ∨ u.tracker.contactSeen = true ∨ v.ctl.state = .idle ∨ v.ctl.state = .holeOpen ∨
      v.ctl.state = .collaring) : u.GroundKept v :=
  ⟨hf, by rw [ht], by rw [ht], by rw [ht], by rw [ht], by rw [ht], hl, hs⟩

/-- What a grant moves is none of it. -/
theorem BoomUnit.Keeps.of_ungranted {u v : BoomUnit} (h : v.ungranted = u.ungranted) : u.Keeps v := by
  obtain ⟨hs, -, ht⟩ := stands_of_ungranted h
  have hf : v.link.fifo = u.link.fifo := congrArg (fun x => x.link.fifo) h
  have hl : v.classifier.layers = u.classifier.layers := congrArg (fun x => x.classifier.layers) h
  exact (GroundKept.of_tracker hf ht hl (.inl hs)).keeps

theorem BoomUnit.Keeps.of_eq {u v : BoomUnit} (h : v = u) : u.Keeps v := h ▸ .refl u

/-- Behind contact the boom may go to any state. -/
theorem BoomUnit.Keeps.of_seen {u v : BoomUnit} (seen : u.layersSound → u.tracker.contactSeen = true) (hf : v.link.fifo = u.link.fifo)
    (ht : v.tracker = u.tracker) (hl : v.classifier.layers = u.classifier.layers) : u.Keeps v := by
  refine ⟨?_, fun h => ?_⟩
  · simp only [BoomUnit.headSound, hf, ht, imp_self]
  · have kept : u.GroundKept v := .of_tracker hf ht hl (.inr (.inl (seen h)))
    exact kept.keeps.2 h

/-- Every stage but COLLARING, and every wait state but HOLE_OPEN, has contact behind it. -/
theorem seen_of_state {u : BoomUnit} (h : u.layersSound)
    (hs : u.ctl.state ≠ .idle ∧ u.ctl.state ≠ .holeOpen ∧ u.ctl.state ≠ .collaring) : u.tracker.contactSeen = true := by
  by_contra hn
  rcases (((layersSound_iff u).1 h).2.2.2 (by simpa using hn)).2.2 with h1 | h1 | h1
  · exact hs.1 h1
  · exact hs.2.1 h1
  · exact hs.2.2 h1

theorem seen_of_stage {u : BoomUnit} (h : u.layersSound) (hs : u.ctl.state.isStage = true) (hc : u.ctl.state ≠ .collaring) :
    u.tracker.contactSeen = true :=
  seen_of_state h ⟨fun e => by simp [e, BoomState.isStage] at hs, fun e => by simp [e, BoomState.isStage] at hs, hc⟩

/-- A boom at its reset values meets both laws. -/
theorem BoomUnit.Keeps.to_reset (u : BoomUnit) {v : BoomUnit} (hl : v.link = HeadLink.reset) (ht : v.tracker = DepthTracker.reset)
    (hc : v.classifier.layers = []) (hs : v.ctl = Controller.reset) : u.Keeps v := by
  refine ⟨fun _ => ?_, fun _ => ?_⟩
  · simp [BoomUnit.headSound, DepthTracker.depthSound, hl, ht, HeadLink.reset, DepthTracker.reset]
  · simp [layersSound_iff, hc, ht, hs, Reaches, DepthTracker.reset, Controller.reset]

/-! ### Slices that follow one another -/

/-- Slices each from the bottom of the one before it, the first from a given bottom. -/
def Abutting (bottom : Option Nat) (cs : List ClosedSlice) : Prop :=
  (∀ c, cs.head? = some c → c.top = bottom.getD 0) ∧ cs.IsChain fun c d => d.top = c.bottom

theorem abutting_cons {bottom : Option Nat} {c : ClosedSlice} {cs : List ClosedSlice} (h : Abutting bottom (c :: cs)) :
    c.top = bottom.getD 0 ∧ Abutting (some c.bottom) cs := by
  obtain ⟨ht, hc⟩ := h
  refine ⟨ht c rfl, fun d hd => ?_, hc.tail⟩
  cases cs with
  | nil => cases hd
  | cons e es => cases hd; exact (List.isChain_cons_cons.1 hc).1

/-- Slices that follow one another leave a layer list that reaches to the bottom of the last. -/
theorem reaches_handed (s : State) (b : Boom) (cs : List ClosedSlice) : ∀ (r : Classifier × WearTable) (bottom : Option Nat),
    Reaches r.1.layers bottom → r.1.layers.length ≤ 16 → Abutting bottom cs →
    Reaches (cs.foldl (s.handOne b) r).1.layers (bottomAfter bottom cs) ∧ (cs.foldl (s.handOne b) r).1.layers.length ≤ 16 := by
  induction cs with
  | nil => exact fun r bottom hr hl _ => ⟨by simpa [bottomAfter] using hr, hl⟩
  | cons c cs ih =>
    intro r bottom hr hl ha
    obtain ⟨ht, ha⟩ := abutting_cons ha
    obtain ⟨hr1, hl1⟩ := reaches_classify s.params.classifier (s.calib b) r.2.w hr hl ht
    rw [← bottomAfter_cons bottom]
    exact ih _ _ hr1 hl1 ha

theorem abutting_remnant {t : DepthTracker} (h : ∀ o, t.slice = some o → o.top = t.handedBottom.getD 0) :
    Abutting t.handedBottom t.remnant := by
  unfold DepthTracker.remnant
  split
  · split
    · exact ⟨fun c hc => by cases hc; exact h _ (by assumption), List.isChain_singleton _⟩
    · exact ⟨by simp, .nil⟩
  · exact ⟨by simp, .nil⟩

/-- The slice number `i` of those that boundaries close. -/
theorem boundaryCloses_getElem? (o : OpenSlice) (k i : Nat) (h : i < k) :
    ∃ c, (boundaryCloses o k)[i]? = some c ∧ c.bottom = o.start + 8000 * (i + 1) ∧
      c.top = if i = 0 then o.top else o.start + 8000 * i := by
  obtain ⟨k, rfl⟩ : ∃ j, k = j + 1 := ⟨k - 1, by omega⟩
  cases i with
  | zero => exact ⟨_, rfl, rfl, rfl⟩
  | succ i =>
    refine ⟨(OpenSlice.fresh 0 (o.start + 8000 * (i + 1))).close (o.start + 8000 * (i + 2)), ?_, rfl, rfl⟩
    simp [boundaryCloses, List.getElem?_range (show i < k by omega)]

theorem length_boundaryCloses (o : OpenSlice) (k : Nat) : (boundaryCloses o k).length = k := by
  cases k <;> simp [boundaryCloses]

theorem abutting_boundaryCloses {o : OpenSlice} {bottom : Option Nat} (h : o.top = bottom.getD 0) (k : Nat) :
    Abutting bottom (boundaryCloses o k) := by
  refine ⟨fun c hc => ?_, List.isChain_iff_getElem.2 fun i hi => ?_⟩
  · cases k with
    | zero => cases hc
    | succ k => cases hc; exact h
  · rw [length_boundaryCloses] at hi
    obtain ⟨c, hc, hcb, -⟩ := boundaryCloses_getElem? o k i (by omega)
    obtain ⟨d, hd, -, hdt⟩ := boundaryCloses_getElem? o k (i + 1) hi
    rw [List.getElem?_eq_some_iff] at hc hd
    obtain ⟨_, rfl⟩ := hc
    obtain ⟨_, rfl⟩ := hd
    rw [hdt, hcb]
    simp

theorem bottomAfter_boundaryCloses (o : OpenSlice) (bottom : Option Nat) {k : Nat} (h : k ≠ 0) :
    bottomAfter bottom (boundaryCloses o k) = some (o.start + 8000 * k) := by
  obtain ⟨c, hc, hb, -⟩ := boundaryCloses_getElem? o k (k - 1) (by omega)
  have hl : (boundaryCloses o k).getLast? = some c := by rw [List.getLast?_eq_getElem?, length_boundaryCloses, hc]
  rw [bottomAfter, hl, Option.map_some, Option.some_or, hb, show k - 1 + 1 = k by omega]

/-- A run of slices that follow one another, with the open slice set to where they end, keeps both laws. -/
theorem keeps_withSlices {u : BoomUnit} {s : State} {b : Boom} {cs : List ClosedSlice} {slice : Option OpenSlice} {full : Bool}
    {count : Nat} (hopen : u.tracker.slice = none → slice = none ∧ cs = [])
    (hs : ∀ o, u.tracker.slice = some o → o.top = u.tracker.handedBottom.getD 0 →
      Abutting u.tracker.handedBottom cs ∧ ∀ p, slice = some p → p.top = (bottomAfter u.tracker.handedBottom cs).getD 0) :
    u.Keeps { u.withSlices (cs.foldl (s.handOne b) u.strata) (bottomAfter u.tracker.handedBottom cs) full with
      tracker := { u.tracker with handedBottom := bottomAfter u.tracker.handedBottom cs, slice, stallCount := count } } := by
  refine ⟨id, fun h => ?_⟩
  rw [layersSound_iff] at h ⊢
  obtain ⟨h16, hr, ht, hn⟩ := h
  cases ho : u.tracker.slice with
  | none =>
    obtain ⟨hsl, rfl⟩ := hopen ho
    refine ⟨h16, by simpa [bottomAfter, BoomUnit.withSlices, BoomUnit.strata] using hr, fun p hp => by simp [hsl] at hp,
        fun hc => ⟨?_, hsl, (hn hc).2.2⟩⟩
    simpa [bottomAfter] using (hn hc).1
  | some o =>
    obtain ⟨ha, hp⟩ := hs o ho (ht o ho)
    obtain ⟨hr1, hl1⟩ := reaches_handed s b cs u.strata _ hr h16 ha
    refine ⟨hl1, hr1, hp, fun hc => ?_⟩
    have := (hn hc).2.1
    rw [ho] at this
    cases this

theorem keeps_settleSlice (s : State) (b : Boom) : (s.boom b).Keeps ((s.settleSlice b).boom b) := by
  rw [boom_settleSlice, handed_eq]
  refine keeps_withSlices (fun h => ⟨rfl, by simp [DepthTracker.remnant, h]⟩) fun o ho ht => ⟨abutting_remnant ?_, by simp⟩
  intro p hp
  rw [ho] at hp
  cases hp
  exact ht

theorem keeps_closeAtBoundaries (s : State) (b : Boom) : (s.boom b).Keeps ((s.closeAtBoundaries b).boom b) := by
  rw [closeAtBoundaries_eq, boom_modTracker_same, boom_handSlices, handed_eq]
  refine keeps_withSlices (slice := (s.boom b).tracker.reopened) (count := (s.boom b).tracker.stallCount)
    (fun h => ⟨by simp [DepthTracker.reopened, h], by simp [DepthTracker.cuts, h]⟩) fun o ho ht => ?_
  simp only [DepthTracker.cuts, DepthTracker.reopened, ho, Option.map_some, Option.some.injEq, forall_eq']
  refine ⟨abutting_boundaryCloses ht _, ?_⟩
  split
  · rename_i h0
    simpa [h0, boundaryCloses, bottomAfter] using ht
  · rename_i h0
    rw [bottomAfter_boundaryCloses o _ h0]
    rfl

end Sys2Proof.Machine

namespace Sys2Proof.Machine

/-! ### The operations, at the boom that they are of -/

/-- From one state to another both laws are kept at each boom. -/
def State.Keeps (s t : State) : Prop := ∀ b, (s.boom b).Keeps (t.boom b)

theorem State.Keeps.refl (s : State) : s.Keeps s := fun _ => .refl _

theorem State.Keeps.trans {s t u : State} (h : s.Keeps t) (k : t.Keeps u) : s.Keeps u := fun b => (h b).trans (k b)

theorem State.Keeps.of_booms {s t : State} (h : ∀ b, t.boom b = s.boom b) : s.Keeps t := fun b => .of_eq (h b)

theorem State.Keeps.of_ungranted {s t : State} (h : ∀ b, (t.boom b).ungranted = (s.boom b).ungranted) : s.Keeps t :=
  fun b => .of_ungranted (h b)

/-- An operation of one boom that moves of the other only what a grant moves. -/
theorem State.Keeps.of_own {s t : State} {b : Boom} (ho : ∀ c, c ≠ b → (t.boom c).ungranted = (s.boom c).ungranted)
    (h : (s.boom b).Keeps (t.boom b)) : s.Keeps t := fun c => by
  by_cases hc : c = b
  · exact hc ▸ h
  · exact .of_ungranted (ho c hc)

theorem State.Keeps.of_modBoom {s : State} {b : Boom} {f : BoomUnit → BoomUnit} (h : (s.boom b).Keeps (f (s.boom b))) :
    s.Keeps (s.modBoom b f) :=
  .of_own (fun c hc => by rw [boom_modBoom_other s hc]) (by rwa [boom_modBoom_same])

theorem keeps_modWear (s : State) (b : Boom) (f : WearTable → WearTable) : s.Keeps (s.modWear b f) :=
  .of_own (fun c hc => by rw [boom_modWear_other s hc])
    (by rw [boom_modWear_same]; exact BoomUnit.GroundKept.keeps (.of_tracker rfl rfl rfl (.inl rfl)))

theorem keeps_missingPoll (s : State) (b : Boom) : (s.boom b).Keeps ((s.missingPoll b).boom b) := by
  unfold State.missingPoll
  simp only []
  split
  · rename_i o ho
    split
    · rw [boom_modTracker_same]
      exact BoomUnit.GroundKept.keeps ⟨rfl, rfl, rfl, rfl, rfl, by simp [ho], rfl, .inl rfl⟩
    · exact .refl _
  · exact .refl _

theorem keeps_evaluatePlan (s : State) (b : Boom) (r : EndReason) : (s.boom b).Keeps ((s.evaluatePlan b r).boom b) := by
  simp only [State.evaluatePlan, boom_modBoom_same]
  exact BoomUnit.GroundKept.keeps (.of_tracker rfl rfl rfl (.inl rfl))

theorem keeps_settleStage (s : State) (b : Boom) (st : BoomState) (e : StageEnd) :
    (s.boom b).Keeps ((s.settleStage b st e).boom b) := by
  unfold State.settleStage
  split
  · exact .refl _
  · split
    · exact keeps_settleSlice s b
    · split
      · exact (keeps_settleSlice s b).trans (keeps_evaluatePlan _ b _)
      · exact .refl _

theorem keeps_closeHole (s : State) (b : Boom) (how : CloseKind) (st : BoomState) (f : Option FaultCode) :
    s.Keeps (s.closeHole b how st f) := by
  refine .of_own (fun c hc => by rw [boom_closeHole_other s hc]) ?_
  obtain ⟨hctl, hlink, htr, hcl, -⟩ := boom_closeHole_same s b how st f
  refine BoomUnit.GroundKept.keeps (.of_tracker (by rw [hlink]) htr (by rw [hcl]) (.inr (.inr (.inl ?_))))
  rw [hctl]; rfl

theorem keeps_modHole (s : State) (b : Boom) (f : HoleRecord → HoleRecord) : s.Keeps (s.modHole b f) :=
  .of_own (fun c hc => by rw [boom_modHole_other s hc])
    (by rw [boom_modHole_same]; exact BoomUnit.GroundKept.keeps (.of_tracker rfl rfl rfl (.inl rfl)))

/-- Before contact a stage is COLLARING, which then leads back to HOLE_OPEN or to the close; so step 4 keeps the laws, but for a success
without contact. -/
theorem keeps_afterStage (s : State) (b : Boom) (e : StageEnd)
    (hc : (s.boom b).ctl.state = .collaring → e = .success → (s.boom b).tracker.contactSeen = true)
    (hs : (s.boom b).ctl.state.isStage = true) :
    (s.boom b).Keeps ((s.afterStage b (s.boom b).ctl.state e).boom b) := by
  unfold State.afterStage
  split
  · rename_i w hw
    have entered (hw : (s.boom b).tracker.contactSeen = true ∨ w = .holeOpen) :
        (s.boom b).Keeps ((s.modCtl b fun c => c.enterWait s.params.plan w).boom b) := by
      rw [boom_modCtl_same]
      exact BoomUnit.GroundKept.keeps (.of_tracker rfl rfl rfl (.inr (hw.imp id fun h => .inr (.inl h))))
    by_cases hcol : (s.boom b).ctl.state = .collaring
    · cases hseen : (s.boom b).tracker.contactSeen with
      | true => exact entered (.inl hseen)
      | false =>
        rw [hcol, hseen] at hw
        have he : e ≠ .success := fun he => by simp [hc hcol he] at hseen
        exact entered (.inr (by cases e <;> simp_all [destination, earlyDestination]))
    · -- Any other stage has contact behind it.
      rw [boom_modCtl_same]
      exact .of_seen (fun h => seen_of_stage h hs hcol) rfl rfl rfl
  · simp only []
    split
    · split
      · exact (keeps_modHole s b _ b).trans (keeps_closeHole _ b _ _ _ b)
      · exact keeps_closeHole _ b _ _ _ b
    · exact keeps_closeHole _ b _ _ _ b

theorem keeps_endStage (s : State) (b : Boom) (e : StageEnd) (x : Option Nat) (st : BoomState × Option RunCondition)
    (hc : (s.boom b).ctl.state = .collaring → e = .success → (s.boom b).tracker.contactSeen = true)
    (hs : (s.boom b).ctl.state.isStage = true) : s.Keeps (s.endStage b e x st) := by
  refine .of_own (fun c h => ungranted_endStage s h e x st) ?_
  rw [endStage_eq, boom_stageReported]
  have hcut := boom_stageCut s b e
  have hset := settleStage_same (s.stageCut b e) b (s.boom b).ctl.state e
  have hcore := core_settleStage (s.stageCut b e) b (s.boom b).ctl.state e
  have hst : (((s.stageCut b e).settleStage b (s.boom b).ctl.state e).boom b).ctl.state = (s.boom b).ctl.state :=
    (congrArg Controller.state hset.2).trans (by rw [hcut])
  have hseen : (((s.stageCut b e).settleStage b (s.boom b).ctl.state e).boom b).tracker.contactSeen =
      (s.boom b).tracker.contactSeen := by rw [contactSeen_core hcore, hcut]
  have cut : (s.boom b).Keeps ((s.stageCut b e).boom b) := by
    rw [hcut]
    exact BoomUnit.GroundKept.keeps (.of_tracker (by split <;> rfl) rfl rfl (.inl rfl))
  have after := keeps_afterStage ((s.stageCut b e).settleStage b (s.boom b).ctl.state e) b e (by rwa [hst, hseen]) (by rwa [hst])
  rw [hst] at after
  exact (cut.trans (keeps_settleStage _ b _ e)).trans after

/-- SPINNING has contact behind it, so HOLDING may follow it. -/
theorem keeps_spinToHold (s : State) (b : Boom) (h : (s.boom b).ctl.state = .spinning) : s.Keeps (s.spinToHold b) := by
  refine .of_own (fun c hc => ungranted_spinToHold s hc) ?_
  have own : (s.boom b).Keeps ((s.modCtl b fun c => { c.enterStage .holding with holdTimer := some 0, gelDeadline := none }).boom b) := by
    rw [boom_modCtl_same]
    exact .of_seen (fun hl => seen_of_stage hl (by rw [h]; rfl) (by rw [h]; simp)) rfl rfl rfl
  refine own.trans (.of_ungranted ?_)
  rw [State.spinToHold, boom_raise, ungranted_reallocate, boom_arbiter]

theorem keeps_markFault (s : State) (b : Boom) (f : FaultCode) : s.Keeps (s.markFault b f) := keeps_modHole s b _

theorem keeps_faultInWait (s : State) (b : Boom) (f : FaultCode) (how : CloseKind) : s.Keeps (s.faultInWait b f how) := by
  unfold State.faultInWait
  simp only []
  split
  · rename_i r _
    have closed := ((keeps_markFault s b f).trans (keeps_modHole _ b fun h => { h with torque := some r })).trans
      (keeps_closeHole _ b how (s.stance b).1 (some f))
    exact fun c => by simpa using closed c
  · have closed := (keeps_markFault s b f).trans (keeps_closeHole _ b how (s.stance b).1 (some f))
    exact fun c => by simpa using closed c

theorem keeps_linkFault (s : State) (b : Boom) (f : FaultCode) (x : Option Nat) : s.Keeps (s.linkFault b f x) := by
  unfold State.linkFault
  simp only []
  split
  · exact keeps_endStage s b _ x _ (by simp) (by assumption)
  · exact (keeps_markFault s b f).trans (.of_booms fun c => by simp)

theorem keeps_suspendStage (s : State) (b : Boom) (i : Interlocks) : s.Keeps (s.suspendStage b i) := by
  refine .of_own (fun c hc => by rw [boom_suspendStage_other s hc]) ?_
  obtain ⟨hst, -, htr⟩ := stands_suspendStage s b i b
  by_cases h : i.inter (suspenders (s.boom b).ctl.state) = Interlocks.empty
  · simp only [State.suspendStage, h, if_true]; exact .refl _
  · rw [boom_suspendStage_same s b h]
    exact BoomUnit.GroundKept.keeps (.of_tracker rfl rfl rfl (.inl rfl))

theorem keeps_refreshFlow (s : State) : s.Keeps s.refreshFlow := .of_ungranted (ungranted_refreshFlow s)

theorem keeps_supplyEnd (s : State) (b : Boom) (st : BoomState × Option RunCondition) : s.Keeps (s.supplyEnd b st) := by
  unfold State.supplyEnd
  split
  · exact keeps_endStage s b _ _ _ (by simp) (by assumption)
  · exact .refl _

theorem keeps_announce (s : State) (old : Interlocks) : s.Keeps (s.announce old) := by
  unfold State.announce
  simp only []
  split
  · exact .refl _
  · have flowed := ((keeps_suspendStage s .left (s.interlocks.minus old)).trans
      (keeps_suspendStage _ .right (s.interlocks.minus old))).trans
      (keeps_refreshFlow _)
    split
    · have ended := flowed.trans ((keeps_supplyEnd _ .left (s.stance .left)).trans (keeps_supplyEnd _ .right (s.stance .right)))
      exact fun c => by simpa using ended c
    · exact fun c => by simpa using flowed c

end Sys2Proof.Machine

namespace Sys2Proof.Machine

/-! ### The take of an entry -/

theorem accumulate_top (t : DepthTracker) (face running : Bool) (x : Sample) :
    (t.accumulate face running x).slice.map OpenSlice.top = t.slice.map OpenSlice.top := by
  unfold DepthTracker.accumulate
  split
  · cases t.slice with
    | none => rfl
    | some o => simp only [Option.map_some, OpenSlice.add]; split <;> rfl
  · rfl

/-- The work on a sample keeps the depths in range, and collar contact opens the first slice where no ground is handed on. -/
theorem keeps_worked (u : BoomUnit) (running : Bool) (scale : Nat) (x : Sample) :
    u.Keeps { u with tracker := u.tracker.worked u.ctl.state running scale x } := by
  have hrange (d : Int) : -8388608 ≤ clampDepth d ∧ clampDepth d ≤ 8388607 := by unfold clampDepth; omega
  -- Up to the tests of R23: the depth, and with contact the first slice.
  have placed : u.Keeps { u with tracker := u.tracker.placed u.ctl.state scale x } := by
    have window (t : DepthTracker) : BoomUnit.Keeps { u with tracker := t } { u with tracker := t.feedWindow u.ctl.state x } := by
      unfold DepthTracker.feedWindow
      split
      · exact BoomUnit.GroundKept.keeps ⟨rfl, rfl, rfl, rfl, rfl, rfl, rfl, .inl rfl⟩
      · exact .refl _
    refine BoomUnit.Keeps.trans ?_ (window _)
    split
    · rename_i met
      simp only [DepthTracker.contactDue, DepthTracker.move, Bool.and_eq_true, Bool.not_eq_true', beq_iff_eq] at met
      refine ⟨fun h => ⟨h.1, by simp [DepthTracker.contact], by simp [DepthTracker.contact], h.2.2.2⟩, fun h => ?_⟩
      rw [layersSound_iff] at h ⊢
      obtain ⟨h16, hr, -, hn⟩ := h
      refine ⟨h16, hr, fun o ho => ?_, fun hc => by cases hc⟩
      cases ho
      simp [DepthTracker.contact, DepthTracker.move, (hn met.2).1, OpenSlice.fresh]
    · refine ⟨fun h => ⟨h.1, (hrange _).1, (hrange _).2, h.2.2.2⟩, fun h => ?_⟩
      rw [layersSound_iff] at h ⊢
      exact h
  have raised (t : DepthTracker) (h : t.maxDepth ≤ 2040000) : (t.raiseMax u.ctl.state).maxDepth ≤ 2040000 := by
    unfold DepthTracker.raiseMax depthLimitUnits; split
    · exact Nat.min_le_right _ _
    · exact h
  have top := accumulate_top ((u.tracker.placed u.ctl.state scale x).raiseMax u.ctl.state)
    ((u.tracker.placed u.ctl.state scale x).atFace u.ctl.state) running x
  rw [show ((u.tracker.placed u.ctl.state scale x).raiseMax u.ctl.state).slice = (u.tracker.placed u.ctl.state scale x).slice from by
    rw [raiseMax_eq]] at top
  refine placed.trans ⟨fun h => ?_, fun h => ?_⟩
  · rw [worked_eq]
    exact ⟨h.1, h.2.1, h.2.2.1, raised _ h.2.2.2⟩
  · -- The layers see only where the open slice begins, and neither depth.
    have kept : BoomUnit.GroundKept { u with tracker := { u.tracker.placed u.ctl.state scale x with maxDepth := 0 } }
        { u with tracker := { u.tracker.worked u.ctl.state running scale x with maxDepth := 0 } } := by
      rw [worked_eq]
      exact ⟨rfl, rfl, rfl, rfl, rfl, top, rfl, .inl rfl⟩
    exact kept.keeps.2 h

theorem boom_closeAtBoundaries_other {s : State} {b c : Boom} (h : c ≠ b) : (s.closeAtBoundaries b).boom c = s.boom c := by
  rw [closeAtBoundaries_eq, boom_modTracker_other _ h, boom_handSlices_other h]

theorem keeps_modCtl {s : State} {b : Boom} {f : Controller → Controller} (h : (f (s.boom b).ctl).state = (s.boom b).ctl.state) :
    s.Keeps (s.modCtl b f) :=
  .of_modBoom (BoomUnit.GroundKept.keeps (.of_tracker rfl rfl rfl (.inl h)))

theorem keeps_closeAtBoundaries' (s : State) (b : Boom) : s.Keeps (s.closeAtBoundaries b) :=
  .of_own (fun c hc => by rw [boom_closeAtBoundaries_other hc]) (keeps_closeAtBoundaries s b)

theorem keeps_workedOn (s : State) (b : Boom) (x : Sample) : s.Keeps (s.workedOn b x) := by
  unfold State.workedOn
  simp only []
  have moved : s.Keeps (s.modTracker b fun _ =>
      (s.boom b).tracker.worked (s.boom b).ctl.state ((s.boom b).ctl.run == some .running) (s.calib b).scale x) :=
    .of_modBoom (keeps_worked _ _ _ x)
  repeat' split
  · exact (moved.trans (keeps_modCtl rfl)).trans (keeps_closeAtBoundaries' _ b)
  · exact moved.trans (keeps_closeAtBoundaries' _ b)
  · exact moved.trans (keeps_modCtl rfl)
  · exact moved

theorem keeps_missed (s : State) (b : Boom) : s.Keeps (s.missingPoll b) :=
  .of_own (fun c hc => by rw [boom_missingPoll_other _ hc]) (keeps_missingPoll s b)

theorem groundKept_glitched (u : BoomUnit) : u.GroundKept { u with tracker := u.tracker.glitched } := by
  unfold DepthTracker.glitched
  split <;> exact ⟨rfl, rfl, rfl, rfl, rfl, rfl, rfl, .inl rfl⟩

theorem keeps_track (s : State) (b : Boom) (x : Sample) : s.Keeps (s.track b x).state := by
  cases hg : isGlitch (encoderDelta (s.boom b).tracker.encoderRef x.count) with
  | true =>
    rw [(track_of_glitch hg).1]
    unfold State.trackGlitch
    have counted : s.Keeps (s.modLink b fun l => { l with stats := { l.stats with glitch := count16 l.stats.glitch } }) :=
      .of_modBoom (BoomUnit.GroundKept.keeps (.of_tracker rfl rfl rfl (.inl rfl)))
    refine (counted.trans (keeps_missed _ b)).trans (.of_modBoom (groundKept_glitched _).keeps)
  | false =>
    rw [track_of_accepted hg]
    obtain ⟨f, h, hf⟩ := state_trackRuns (s.workedOn b x) b x
      (((s.boom b).tracker.placed (s.boom b).ctl.state (s.calib b).scale x).atFace (s.boom b).ctl.state)
      (((s.boom b).tracker.placed (s.boom b).ctl.state (s.calib b).scale x).extends (s.boom b).ctl.state) (s.boom b).tracker.maxDepth
    rw [h]
    refine (keeps_workedOn s b x).trans (.of_modBoom (BoomUnit.GroundKept.keeps ?_))
    have same {α : Type} (g : DepthTracker → α) (hg : ∀ t, g t.unrun = g t) (t : DepthTracker) : g (f t) = g t := by
      rw [← hg, hf, hg]
    exact ⟨rfl, same DepthTracker.depth (fun _ => rfl) _, same DepthTracker.maxDepth (fun _ => rfl) _,
      same DepthTracker.contactSeen (fun _ => rfl) _, same DepthTracker.handedBottom (fun _ => rfl) _,
      congrArg _ (same DepthTracker.slice (fun _ => rfl) _), rfl, .inl rfl⟩

/-- The end that a sample brings is an end of the stage in progress: COLLARING succeeds behind contact only, and the mix is SPINNING's. -/
theorem sampleEnd_stage {s : State} {b : Boom} {t : Tracked} {e : SampleEnd} (h : sampleEnd s b t = some e) :
    (s.boom b).ctl.state.isStage = true ∧ ((s.boom b).ctl.state = .collaring → (s.boom b).tracker.contactSeen = true) ∧
      (e = .mixed ↔ (s.boom b).ctl.state = .spinning) ∧ (e = .mixed → (s.boom b).ctl.run = some .running) := by
  unfold sampleEnd torqueEnd at h
  simp only [] at h
  cases hst : (s.boom b).ctl.state <;> simp only [hst] at h <;> (repeat' split at h) <;> simp_all [BoomState.isStage] <;>
    subst h <;> simp

theorem keeps_endOnSample {s : State} {b : Boom} {t : Tracked} {e : SampleEnd} (h : sampleEnd s b t = some e) :
    s.Keeps (s.endOnSample b e) := by
  obtain ⟨stage, seen, mixed, -⟩ := sampleEnd_stage h
  have ends (e : StageEnd) : s.Keeps (s.endStage b e none (s.stance b)) := keeps_endStage s b e _ _ (fun hc _ => seen hc) stage
  cases e with
  | collarDepth | depthReached | inPlace | achieved | depthLimit | stalled | blockedByRun | blockedEarly | slippedByPressure
    | slippedByTurns => exact ends _
  | mixed => exact keeps_spinToHold s b (mixed.1 rfl)
  | clear =>
    have counted : s.Keeps (s.modTracker b fun t => { t with cartridgeBase := t.latestCartridge }) :=
      .of_modBoom (BoomUnit.GroundKept.keeps ⟨rfl, rfl, rfl, rfl, rfl, rfl, rfl, .inl rfl⟩)
    exact counted.trans (keeps_endStage _ b _ _ _ (by simpa using seen) (by simpa using stage))

theorem keeps_headStatus (s : State) (b : Boom) (code : Nat) : s.Keeps (s.headStatus b code) := by
  have noted (f : HeadLink → HeadLink) (hf : ∀ l, (f l).fifo = l.fifo) : s.Keeps (s.modLink b f) :=
    .of_modBoom (BoomUnit.GroundKept.keeps (.of_tracker (hf _) rfl rfl (.inl rfl)))
  unfold State.headStatus
  simp only []
  split
  · exact (noted _ fun _ => by rfl).trans (keeps_linkFault _ b _ _)
  · exact noted _ fun _ => rfl

theorem keeps_take (s : State) (b : Boom) : s.Keeps (s.take b).state := by
  have taken : s.Keeps (s.modLink b HeadLink.takeOldest) :=
    .of_modBoom ⟨fun h => ⟨by simp [HeadLink.takeOldest]; have := h.1; omega, h.2⟩, id⟩
  unfold State.take
  split
  · exact .refl s
  · simp only []
    split
    · exact taken
    · exact taken.trans (keeps_headStatus _ b _)
    · rename_i x _
      have tracked := taken.trans (keeps_track (s.modLink b HeadLink.takeOldest) b x)
      split
      · obtain ⟨f, hc, hst⟩ := boom_countSample ((s.modLink b HeadLink.takeOldest).track b x).state b x
        have counted := tracked.trans (hc ▸ keeps_modCtl (hst _).1)
        split
        · exact counted.trans (keeps_endOnSample (by assumption))
        · exact counted
      · exact tracked

/-! ### Polls and the receiver -/

theorem keeps_modLink {s : State} {b : Boom} {f : HeadLink → HeadLink} (h : ∀ l, (f l).fifo = l.fifo) : s.Keeps (s.modLink b f) :=
  .of_modBoom (BoomUnit.GroundKept.keeps (.of_tracker (h _) rfl rfl (.inl rfl)))

theorem keeps_judgePoll (s : State) (b : Boom) : s.Keeps (s.judgePoll b) := by
  have judged : s.Keeps (s.modLink b fun l => l.judge l.answered) :=
    keeps_modLink fun l => by unfold HeadLink.judge; split <;> rfl
  have changed (s : State) : s.Keeps (s.linkChange b) := by
    unfold State.linkChange State.loseLink
    simp only []
    repeat' split
    · exact ((keeps_modLink fun _ => by rfl).trans
        (.of_modBoom (BoomUnit.GroundKept.keeps ⟨rfl, rfl, rfl, rfl, rfl, rfl, rfl, .inl rfl⟩))).trans (keeps_linkFault _ b _ _)
    · exact .refl s
    · exact keeps_modLink fun _ => by rfl
    · exact .refl s
  unfold State.judgePoll
  simp only []
  repeat' split
  · exact judged.trans (changed _)
  · exact (judged.trans (keeps_missed _ b)).trans (changed _)
  · exact .refl s

theorem keeps_expirePoll (s : State) (b : Boom) : s.Keeps (s.expirePoll b) := by
  have counted (s : State) : s.Keeps (s.countPoll b) := by
    unfold State.countPoll
    simp only []
    split
    · exact keeps_modLink fun _ => by rfl
    · exact (keeps_modLink fun _ => by rfl).trans (keeps_modWear _ b _)
  have sent (s : State) : s.Keeps (s.sendPoll b) := (keeps_modLink fun _ => by rfl).trans (keeps_modLink fun _ => by rfl)
  exact ((keeps_judgePoll s b).trans (counted _)).trans (sent _)

/-- A closed frame enters a FIFO that has room, and no other. -/
theorem fifo_dispose_le (l : HeadLink) (address : Nat) (data : List Bool) (h : l.fifo.length ≤ 4) :
    (l.dispose address data).fifo.length ≤ 4 := by
  unfold HeadLink.dispose
  split
  · exact h
  · split
    · exact h
    · simp only [HeadLink.enter, List.length_append, List.length_singleton]; omega

theorem fifo_takeBits_le (address : Nat) : ∀ (n : Nat) (l : HeadLink) (bits : List Bool), l.fifo.length ≤ 4 →
    (HeadLink.takeBits address n l bits).fifo.length ≤ 4
  | 0, _, _, h => h
  | n + 1, l, bits, h => by
    unfold HeadLink.takeBits
    split
    · rename_i e he
      refine fifo_takeBits_le address n _ _ ?_
      unfold HeadLink.nextEvent at he
      repeat' split at he
      all_goals simp only [Option.map_eq_some_iff, Option.some.injEq, reduceCtorEq] at he
      · obtain ⟨_, -, rfl⟩ := he; exact h
      all_goals subst he
      all_goals first | exact h | exact fifo_dispose_le l address _ h
    · exact h

theorem keeps_receive (s : State) (b : Boom) (bits : List Bool) : s.Keeps (s.receive b bits) := by
  refine .of_modBoom ⟨fun h => ⟨?_, h.2⟩, id⟩
  simp only []
  split
  · exact fifo_takeBits_le _ _ _ _ h.1
  · exact h.1

end Sys2Proof.Machine

namespace Sys2Proof.Machine

/-! ### Requests taken -/

/-- An update of a block that is no boom's. -/
theorem State.Keeps.of_blocks {s t : State} (hl : t.left = s.left) (hr : t.right = s.right) : s.Keeps t :=
  .of_booms fun b => by cases b <;> assumption

theorem keeps_arrive (s : State) (p : Port) (k : DemandKind) : s.Keeps (s.arrive p k) := .of_ungranted (ungranted_arrive s p k)

theorem keeps_depart (s : State) (sel : Demand → Bool) : s.Keeps (s.depart sel) := .of_ungranted (ungranted_depart s sel)

/-- A stage but COLLARING begins behind contact. -/
theorem keeps_startStage {s : State} {b : Boom} {st : BoomState}
    (h : (s.boom b).layersSound → (s.boom b).tracker.contactSeen = true ∨ st = .collaring) : s.Keeps (s.startStage b st) := by
  refine State.Keeps.trans (.of_modBoom ?_) (keeps_arrive _ _ _)
  by_cases hst : st = .collaring
  · exact BoomUnit.GroundKept.keeps (.of_tracker rfl rfl rfl (.inr (.inr (.inr (.inr hst)))))
  · exact .of_seen (fun hl => (h hl).resolve_right hst) rfl rfl rfl

theorem keeps_takeCollar (s : State) (b : Boom) : s.Keeps (s.takeCollar b) := by
  have captured : s.Keeps (s.captureZ b) := by
    have moved : s.Keeps (s.modTracker b fun t => { t with z := t.captured }) :=
      .of_modBoom (BoomUnit.GroundKept.keeps ⟨rfl, rfl, rfl, rfl, rfl, rfl, rfl, .inl rfl⟩)
    unfold State.captureZ
    simp only []
    split
    · exact moved
    · exact moved.trans (keeps_modWear _ b _)
  exact ((captured.trans (keeps_modHole _ b _)).trans (keeps_modCtl rfl)).trans (keeps_startStage fun _ => .inr rfl)

/-- DRILLING opens its slice where the ground handed on ends. -/
theorem keeps_takeDrill {s : State} {b : Boom} (h : (s.boom b).ctl.state = .collared ∨ (s.boom b).ctl.state = .drilled) :
    s.Keeps (s.takeDrill b) := by
  have seen (hl : (s.boom b).layersSound) : (s.boom b).tracker.contactSeen = true := by
    refine seen_of_state hl ⟨?_, ?_, ?_⟩ <;> rcases h with h | h <;> simp [h]
  have opened : s.Keeps (s.modTracker b fun t =>
      { t with slice := some (OpenSlice.fresh t.maxDepth (t.handedBottom.getD 0)), stallCount := 0 }) := by
    refine .of_modBoom ⟨id, fun hl => ?_⟩
    have hseen := seen hl
    rw [layersSound_iff] at hl ⊢
    obtain ⟨h16, hr, -, -⟩ := hl
    exact ⟨h16, hr, fun o ho => by cases ho; rfl, fun hc => by simp [hseen] at hc⟩
  have begun : State.Keeps _ ((s.modTracker b fun t =>
      { t with slice := some (OpenSlice.fresh t.maxDepth (t.handedBottom.getD 0)), stallCount := 0 }).startStage b .drilling) :=
    keeps_startStage fun hl => .inl (seen_of_state hl (by refine ⟨?_, ?_, ?_⟩ <;> rcases h with h | h <;> simp [h]))
  exact opened.trans begun

/-- A request that leads from a wait state behind contact to a stage keeps the laws, whatever it sets of the controller and of the tracker's
counts. -/
theorem keeps_fromWait {s : State} {b : Boom} {f : State → State} {st : BoomState} (hf : s.Keeps (f s))
    (hst : ((f s).boom b).ctl.state = (s.boom b).ctl.state)
    (h : (s.boom b).ctl.state ≠ .idle ∧ (s.boom b).ctl.state ≠ .holeOpen ∧ (s.boom b).ctl.state ≠ .collaring) :
    s.Keeps ((f s).startStage b st) :=
  hf.trans (keeps_startStage fun hl => .inl (seen_of_state hl (by rwa [hst])))

theorem keeps_takeInsert {s : State} {b : Boom} (h : (s.boom b).ctl.state = .retracted) : s.Keeps (s.takeInsert b) := by
  have moved : s.Keeps (s.modTracker b fun t => { t with blockRun := 0 }) :=
    .of_modBoom (BoomUnit.GroundKept.keeps ⟨rfl, rfl, rfl, rfl, rfl, rfl, rfl, .inl rfl⟩)
  unfold State.takeInsert
  simp only []
  exact keeps_fromWait (f := fun s => State.modHole (s.modTracker b fun t => { t with blockRun := 0 }) b _)
    (moved.trans (keeps_modHole _ b _)) (by simp) (by simp [h])

/-- The claim opens a hole without ground. -/
theorem keeps_grantClaim (s : State) (b : Boom) (sl : Slot) : s.Keeps (s.grantClaim b sl) := by
  refine State.Keeps.trans (.of_booms fun c => boom_rowMap s c _) (.of_modBoom ⟨fun h => ?_, fun _ => ?_⟩)
  · exact ⟨h.1, by simp [DepthTracker.depthSound, DepthTracker.newHole]⟩
  · simp [layersSound_iff, Reaches, DepthTracker.newHole, Controller.enterWait]

theorem keeps_takeResume (s : State) (b : Boom) : s.Keeps (s.takeResume b) := (keeps_modCtl rfl).trans (keeps_arrive _ _ _)

theorem keeps_beginSave (s : State) : s.Keeps s.beginSave := .of_blocks rfl rfl

theorem keeps_askSave (s : State) : s.Keeps s.askSave := by
  unfold State.askSave
  split
  · exact keeps_beginSave s
  · exact .of_blocks rfl rfl

theorem keeps_finishOperation (s : State) : s.Keeps s.finishOperation := by
  have done : s.Keeps ((s.modMem fun m => { m with op := .none, opTimer := 0 }).raiseMachine .configDone) := .of_blocks rfl rfl
  unfold State.finishOperation
  simp only []
  split
  · exact done.trans (keeps_beginSave _)
  · exact done

theorem keeps_stopCheck (s : State) (result : Nat) (detail : Option Nat) : s.Keeps (s.stopCheck result detail) := by
  unfold State.stopCheck
  simp only []
  refine .trans ?_ (keeps_announce _ _)
  split <;> exact .of_blocks rfl rfl

theorem keeps_passStep (s : State) (code : Nat) : s.Keeps (s.passStep code) := by
  unfold State.passStep
  simp only []
  split
  · refine State.Keeps.trans ?_ (keeps_stopCheck _ _ _)
    exact .of_blocks rfl rfl
  · exact .of_blocks rfl rfl

theorem keeps_setTram (s : State) (permitted : Bool) : s.Keeps (s.setTram permitted) := by
  refine State.Keeps.trans ?_ (keeps_announce _ _)
  exact .of_blocks rfl rfl

theorem keeps_declare (s : State) (isSet : Bool) : s.Keeps (s.declare isSet) := by
  refine State.Keeps.trans ?_ (keeps_announce _ _)
  exact .of_blocks rfl rfl

theorem keeps_tramDone (s : State) : s.Keeps s.tramDone.state := by
  unfold State.tramDone
  split
  · exact .refl s
  · split
    · exact .refl s
    · simp only [answer]
      refine .trans ?_ (.of_booms (boom_raiseBoth _ _))
      refine .trans ?_ (keeps_setTram _ _)
      refine (keeps_depart s fun d => d.owner == .machine && d.kind == .tram).trans ?_
      exact .of_blocks rfl rfl

theorem keeps_startCheck (s : State) : s.Keeps s.startCheck.state := by
  unfold State.startCheck
  repeat' split
  all_goals exact .of_blocks rfl rfl

theorem keeps_placePlan (s : State) (plan : List PlanSlot) : s.Keeps (s.placePlan plan) := by
  unfold State.placePlan
  split
  · exact .of_blocks (by simp) (by simp)
  · exact .of_blocks rfl rfl

theorem keeps_convert (s : State) (code : Nat) : s.Keeps (s.convert code) := by
  have judged (s : State) (f : Monitor → Monitor) (old : Interlocks) : s.Keeps ((s.modMonitor f).announce old) :=
    State.Keeps.trans (t := s.modMonitor f) (.of_blocks rfl rfl) (keeps_announce _ _)
  unfold State.convert
  split
  · split
    · exact judged s _ _
    · unfold State.convertReference
      simp only []
      refine .trans ?_ (judged _ _ _)
      refine .trans ?_ (keeps_announce _ _)
      split <;> exact .of_blocks rfl rfl
  · exact .refl s

/-- What a service does keeps both laws of each boom. -/
theorem keeps_service {s t : State} (h : Service s t) : s.Keeps t := by
  cases h with
  | nothing => exact .refl s
  | clearCause p => exact .of_booms fun b => by simp
  | refuseForCheck => exact keeps_stopCheck _ _ _
  | claim => exact keeps_grantClaim _ _ _
  | collar => exact keeps_takeCollar _ _
  | drill at' => exact keeps_takeDrill at'
  | retract at' => exact keeps_fromWait (f := id) (.refl s) rfl (by rcases at' with h | h <;> simp [h])
  | insert at' => exact keeps_takeInsert at'
  | @spin b at' => exact keeps_fromWait (f := fun s => s.modCtl b _) (keeps_modCtl rfl) (by simp) (by simp [at'])
  | @torque b at' => exact keeps_fromWait (f := fun s => s.modCtl b _) (keeps_modCtl rfl) (by simp) (by simp [at'])
  | resume => exact keeps_takeResume _ _
  | endStage e stage fails => exact keeps_endStage _ _ _ _ _ (fun _ h => absurd h fails) stage
  | abandonWait => exact keeps_closeHole _ _ _ _ _
  | bitChanged b => exact (keeps_modWear s b _).trans (keeps_askSave _)
  | declare => exact keeps_declare _ _
  | rowAdvance => exact (keeps_setTram s true).trans (.of_booms fun b => by simp)
  | tramDone => exact keeps_tramDone s
  | waive | clearOverflow => exact .of_booms fun b => by simp
  | setPlan => exact keeps_placePlan _ _
  | askFlow => exact keeps_arrive _ _ _
  | releaseFlow => exact keeps_depart _ _
  | memory | badZone => exact .of_blocks rfl rfl
  | askSave => exact keeps_askSave s
  | startCheck => exact keeps_startCheck s

/-! ### Zones, resets and the opening -/

theorem keeps_takeZone1 (s : State) (z : Zone1) : s.Keeps (s.takeZone1 z) := by
  have placed : s.Keeps { s with params := { s.params with classifier := z.consts } } := .of_blocks rfl rfl
  exact (placed.trans (keeps_modWear _ .left _)).trans (keeps_modWear _ .right _)

theorem keeps_takeCalib (s : State) (b : Boom) (c : Calib) : s.Keeps (s.takeCalib b c) := by
  refine .trans ?_ (.of_modBoom (BoomUnit.GroundKept.keeps (.of_tracker rfl rfl rfl (.inl rfl))))
  cases b <;> exact .of_blocks rfl rfl

theorem keeps_takeZone (s : State) (z : Nat) : s.Keeps (s.takeZone z) := by
  unfold State.takeZone
  simp only []
  split
  · exact .of_blocks rfl rfl
  · exact keeps_takeZone1 s _
  · exact keeps_takeCalib s _ _
  · exact keeps_takeCalib s _ _
  · exact .of_blocks rfl rfl
  · exact .of_blocks rfl rfl
  · exact .refl s

theorem keeps_defaultZone (s : State) (z : Nat) : s.Keeps (s.defaultZone z) := by
  unfold State.defaultZone
  split
  · exact .of_blocks rfl rfl
  · exact keeps_takeZone1 s _
  · exact keeps_takeCalib s _ _
  · exact keeps_takeCalib s _ _
  · exact .of_blocks rfl rfl
  · exact .of_blocks rfl rfl
  · exact .refl s

theorem keeps_passZone (afterRequest : Bool) (s : State) (z : Nat) : s.Keeps (s.passZone afterRequest z) := by
  unfold State.passZone
  split
  · exact (keeps_takeZone s z).trans (.of_blocks rfl rfl)
  · split
    · exact .refl s
    · exact (keeps_defaultZone s z).trans (.of_blocks rfl rfl)

theorem keeps_foldl {α : Type} {f : State → α → State} (h : ∀ (s : State) (a : α), s.Keeps (f s a)) (xs : List α) :
    ∀ s : State, s.Keeps (xs.foldl f s) := by
  induction xs with
  | nil => exact .refl
  | cons a xs ih => exact fun s => (h s a).trans (ih _)

theorem keeps_phase (s : State) (ph : Phase) : s.Keeps { s with phase := ph } := .of_blocks rfl rfl

theorem keeps_zonePass (s : State) (afterRequest : Bool) : s.Keeps (s.zonePass afterRequest) := by
  have restored (s : State) (b : Boom) : s.Keeps (s.restoreWear b) :=
    .of_modBoom (BoomUnit.GroundKept.keeps (.of_tracker rfl rfl rfl (.inl rfl)))
  have opened (s : State) (m : RowMap) : s.Keeps { s with rowMap := m } := .of_blocks rfl rfl
  have read : s.Keeps (s.modMem fun m => { m with image := m.memory }) := .of_blocks rfl rfl
  have passed := read.trans (keeps_foldl (keeps_passZone afterRequest) (List.range 7) _)
  unfold State.zonePass
  simp only []
  generalize (List.range 7).foldl (State.passZone afterRequest) (s.modMem fun m => { m with image := m.memory }) = u at passed ⊢
  cases afterRequest with
  | true => exact passed.trans (keeps_phase _ _)
  | false => exact (((passed.trans (opened _ _)).trans (restored _ .left)).trans (restored _ .right)).trans (keeps_phase _ _)

theorem keeps_resetCommon (s u : State) : s.Keeps u.resetCommon := fun b => by
  cases b <;> exact .to_reset _ rfl rfl rfl rfl

theorem keeps_resetN (s : State) : s.Keeps s.resetN := fun b => by
  cases b <;> exact .to_reset _ rfl rfl rfl rfl

theorem keeps_powerCycle (s : State) (ph : Phase) : s.Keeps (s.powerCycle ph) := fun b => by
  cases b <;> exact .to_reset _ rfl rfl rfl rfl

theorem keeps_openPart (s : State) (afterRequest : Bool) : s.Keeps (s.openPart afterRequest) := by
  have linked (s : State) (b : Boom) : s.Keeps (s.startLink b) := by
    unfold State.startLink
    split
    · exact keeps_modLink fun _ => by rfl
    · exact .refl s
  have standing (s : State) (b : Boom) : s.Keeps (s.raiseStanding b) := by
    unfold State.raiseStanding
    split
    · exact .of_booms fun c => by simp
    · exact .refl s
  have opened : s.Keeps s.openPorts := .of_blocks rfl rfl
  have rounds (s : State) : s.Keeps (s.modMonitor Monitor.startRound) := .of_blocks rfl rfl
  have flowed := ((opened.trans (linked _ .left)).trans (linked _ .right)).trans ((rounds _).trans (keeps_refreshFlow _))
  have raised := flowed.trans ((standing _ .left).trans (standing _ .right))
  refine .trans ?_ (keeps_phase _ _)
  split
  · exact raised.trans (.of_booms fun c => by simp)
  · exact raised

theorem keeps_requestReset (s : State) (pins : Straps) : s.Keeps (s.requestReset pins) := by
  have pinned (t : State) : t.Keeps { t with straps := pins } := .of_blocks rfl rfl
  exact ((keeps_resetCommon s _).trans (pinned _)).trans (keeps_zonePass _ true)

/-- The timers that a millisecond counts are not the laws'. -/
theorem keeps_tick (s : State) : s.Keeps s.tick := by
  have counted (u : BoomUnit) : u.Keeps u.count := by
    refine BoomUnit.GroundKept.keeps (.of_tracker ?_ rfl rfl (.inl ?_))
    · simp only [BoomUnit.count, HeadLink.count]; split <;> rfl
    · simp only [BoomUnit.count, Controller.countMechanical, Controller.countAlways]; split <;> rfl
  unfold State.tick
  split
  · exact .refl s
  · exact .refl s
  · exact .of_blocks rfl rfl
  · exact .of_blocks rfl rfl
  · exact fun b => by cases b <;> exact counted _

/-- What an event does keeps both laws of each boom. -/
theorem keeps_event {s t : State} (h : Event s t) : s.Keeps t := by
  cases h with
  | nothing => exact .refl s
  | power ph => exact keeps_powerCycle s ph
  | resetN => exact (keeps_resetN s).trans (.of_blocks rfl rfl)
  | pinLow | pinHigh => exact .of_blocks rfl rfl
  | selfTest _ memoryPass logicPass pins =>
    have posted : s.Keeps { s.recordPost memoryPass logicPass with straps := pins } := by
      unfold State.recordPost
      simp only []
      split <;> exact .of_blocks rfl rfl
    exact posted.trans (keeps_zonePass _ _)
  | opening => exact keeps_openPart _ _
  | requestReset => exact keeps_requestReset _ _
  | receive => exact keeps_receive _ _ _
  | take => exact keeps_take _ _
  | poll => exact keeps_expirePoll _ _
  | stageTimer e stage held =>
    exact keeps_endStage _ _ _ _ _ (fun hc he => by simp [held he] at hc) stage
  | waitTimer => exact keeps_faultInWait _ _ _ _
  | convert => exact keeps_convert _ _
  | round | page => exact .of_blocks rfl rfl
  | transferBegin | transferEnd | reject => exact .of_booms fun b => by simp [State.reject]
  | operationDone f => exact State.Keeps.trans (t := s.modMem f) (.of_blocks rfl rfl) (keeps_finishOperation _)
  | loadDone z st =>
    have applied : s.Keeps (s.applyLoad z) := ((keeps_takeZone s z).trans (keeps_announce _ _)).trans (keeps_refreshFlow _)
    refine (applied.trans ?_).trans (keeps_finishOperation _)
    exact .of_blocks rfl rfl
  | checkStep => exact keeps_passStep _ _
  | checkFails => exact keeps_stopCheck _ _ _

/-- Every step keeps both laws at each boom. -/
theorem keeps_step {s t : State} (h : step s = .next t) : s.Keeps t := by
  rcases step_command h with rfl | ⟨rest, hc⟩
  · exact keeps_tick s
  · have queued : s.Keeps { s with pending := rest } := .of_blocks rfl rfl
    refine queued.trans ?_
    cases hc with
    | event he => exact keeps_event he
    | served held hu c x ht => rw [ht]; exact (keeps_service hu).trans (.of_booms fun b => by simp)

/-- Settles O7: each event and each service keeps, boom by boom, the law of the FIFO and the depths and the law of the layer list. -/
theorem everyStepKeepsTheReceiveQueuesAndDepthsInRange : Obligations.EveryStepKeepsTheReceiveQueuesAndDepthsInRange := by
  unfold Obligations.EveryStepKeepsTheReceiveQueuesAndDepthsInRange
  intro s t h
  exact ⟨fun hs b => (keeps_step h b).1 (hs b), fun hs b => (keeps_step h b).2 (hs b)⟩

end Sys2Proof.Machine

/-! ## The refusals of a stage request (O44) -/
namespace Sys2Proof.Machine

theorem HeadLink.fit_iff (l : HeadLink) : l.fit = true ↔ l.state = .up ∧ l.headFault = 0 := by simp [HeadLink.fit]

/-- What a stage request that is refused answers: WRONG_STATE, and behind it INTERLOCK with the interlocks that block the stage (R77,
R99). -/
theorem stageRequest_refuses {s : State} {b : Boom} {inState planOk : Bool} {F P : Prop} (hF : inState = true ↔ F)
    (hP : planOk = true ↔ P) (st : BoomState) (take : State → State) :
    (¬(F ∧ (s.boom b).link.state = .up ∧ (s.boom b).link.headFault = 0 ∧ P) →
      s.stageRequest b inState planOk st take = answer s .wrongState) ∧
    (F → (s.boom b).link.state = .up → (s.boom b).link.headFault = 0 → P → s.interlocks.inter (blockers st) ≠ Interlocks.empty →
      s.stageRequest b inState planOk st take = answerInterlock s (s.interlocks.inter (blockers st))) := by
  have hfit := HeadLink.fit_iff (s.boom b).link
  rw [← hF, ← hP]
  unfold State.stageRequest
  constructor
  · intro h
    cases inState with
    | false => rfl
    | true =>
      cases hl : (s.boom b).link.fit with
      | false => rfl
      | true =>
        obtain ⟨hup, hhead⟩ := hfit.1 hl
        have : planOk = false := by cases planOk <;> simp_all
        subst this
        rfl
  · intro hi hup hhead hp hb
    simp [hi, hfit.2 ⟨hup, hhead⟩, hp, hb]

/-- Settles O44, by the tests that all seven stage requests share. -/
theorem aStageRequestIsRefusedByStateLinkPlanOrInterlock : Obligations.AStageRequestIsRefusedByStateLinkPlanOrInterlock := by
  unfold Obligations.AStageRequestIsRefusedByStateLinkPlanOrInterlock
  intro s b q
  -- A request taken by a stage request's tests is answered as they say.
  have refuses {k : RequestKind} {inState planOk : Bool} {F P : Prop} {st : BoomState} {take : State → State} (hF : inState = true ↔ F)
      (hP : planOk = true ↔ P) {body : List Byte → State → Answer} (hb : ∀ ops, body ops s = s.stageRequest b inState planOk st take)
      (h : s.taken b.port k q) :
      (¬(F ∧ (s.boom b).link.state = .up ∧ (s.boom b).link.headFault = 0 ∧ P) →
        Host.Outcome.next (φ := Fault) (ρ := Refusal) (s.serve b.port k body) = .next (s.finish b.port q k .wrongState [])) ∧
      (F → (s.boom b).link.state = .up → (s.boom b).link.headFault = 0 → P → s.interlocks.inter (blockers st) ≠ Interlocks.empty →
        Host.Outcome.next (φ := Fault) (ρ := Refusal) (s.serve b.port k body) =
          .next (s.finish b.port q k .interlock (bytesLE 2 (s.interlocks.inter (blockers st)).toNat))) := by
    obtain ⟨unfit, blocked⟩ := stageRequest_refuses (s := s) (b := b) hF hP st take
    rw [serve_taken h, hb]
    exact ⟨fun hn => by rw [unfit hn]; rfl, fun hi hu hh hp hn => by rw [blocked hi hu hh hp hn]; rfl⟩
  have at' (st : BoomState) : s.inState b st = true ↔ (s.boom b).ctl.state = st := by simp [State.inState]
  have either : (s.inState b .collared || s.inState b .drilled) = true ↔
      (s.boom b).ctl.state = .collared ∨ (s.boom b).ctl.state = .drilled := by simp [State.inState]
  have none' : (true : Bool) = true ↔ True := by simp
  refine ⟨refuses (at' _) none' fun _ => rfl, refuses either none' fun _ => rfl, refuses either none' fun _ => rfl,
    refuses (at' _) Iff.rfl fun _ => rfl, refuses (at' _) none' fun _ => rfl, refuses (at' _) none' fun _ => rfl,
    refuses ?_ none' fun _ => rfl⟩
  simp

end Sys2Proof.Machine

/-! ## The receiver (O18 to O20) -/
namespace Sys2Proof.Machine

theorem findFlag_of_first {run : List Bool} {n : Nat} (hn : n ≤ run.length) (he : (run.take n).drop (n - 8) = flagBits)
    (hf : ∀ i, i < n → (run.take i).drop (i - 8) ≠ flagBits) : findFlag [] run = some (run.drop n) := by
  have last (i : Nat) (hi : i ≤ run.length) : lastBits 8 ([] ++ run.take i) = (run.take i).drop (i - 8) := by
    simp [lastBits, Nat.min_eq_left hi]
  have pos : 1 ≤ n := by
    rcases Nat.eq_zero_or_pos n with h | h
    · subst h; simp [flagBits] at he
    · exact h
  exact findFlag_first n run [] pos hn (fun i h1 h2 => by rw [last i (by omega)]; exact hf i h2) (by rw [last n hn]; exact he)

/-- An update of a link with what it makes of the link as it stands. -/
theorem modLink_const (s : State) (b : Boom) (f : HeadLink → HeadLink) : (s.modLink b fun _ => f (s.boom b).link) = s.modLink b f := by
  cases b <;> rfl

/-- Settles O18, from the first event of the run in HUNT, SYNC and FRAME. -/
theorem theReceiverMovesBetweenHuntSyncAndFrame : Obligations.TheReceiverMovesBetweenHuntSyncAndFrame := by
  unfold Obligations.TheReceiverMovesBetweenHuntSyncAndFrame
  intro b bits s running
  have last {f : HeadLink → HeadLink} (h : (s.boom b).link.nextEvent (s.calib b).headAddress ((s.boom b).link.line ++ bits) =
      some (f (s.boom b).link, [])) (hl : (f (s.boom b).link).line = []) : s.receive b bits = s.modLink b f := by
    rw [receive_last running h hl, modLink_const]
  have hunted (n : Nat) (hr : (s.boom b).link.receiver = .hunt) (hn : n ≤ ((s.boom b).link.line ++ bits).length)
      (he : (((s.boom b).link.line ++ bits).take n).drop (n - 8) = flagBits)
      (hf : ∀ i, i < n → (((s.boom b).link.line ++ bits).take i).drop (i - 8) ≠ flagBits) :
      (s.boom b).link.nextEvent (s.calib b).headAddress ((s.boom b).link.line ++ bits) =
        some ({ (s.boom b).link with receiver := .sync, line := [] }, ((s.boom b).link.line ++ bits).drop n) := by
    simp [HeadLink.nextEvent, hr, findFlag_of_first hn he hf]
  refine ⟨?_, ?_, ?_, ?_, ?_⟩
  · intro hr ⟨hn, he, hf⟩
    have h := hunted _ hr hn he hf
    rw [List.drop_length] at h
    exact congrArg Host.Outcome.next (last (f := fun l => { l with receiver := .sync, line := [] }) h rfl)
  · intro n hr ⟨hn, he, hf⟩
    have h := receive_event running (m := { (s.boom b).link with receiver := .sync, line := [] }) running (hunted n hr hn he hf)
    rw [modLink_const s b fun l => { l with receiver := .sync, line := [] }] at h
    exact congrArg Host.Outcome.next h
  · intro data hr hc hd
    have h := receive_start running hr hc (by omega)
    rw [← modLink_const s b fun l => { l with receiver := .frame, line := l.line ++ bits },
      modLink_const s b fun l => { l with receiver := .frame, line := (s.boom b).link.line ++ bits }] at h
    exact congrArg Host.Outcome.next h
  · intro data hr hc hd
    have h := scanGroup_abort _ 0 [] [] data [] (by omega) (by simp) hc hd
    exact congrArg Host.Outcome.next (last (f := fun l => { l with receiver := .hunt, line := [] })
      (by simp only [List.length_nil] at h; simp [HeadLink.nextEvent, hr, h]) rfl)
  · intro data hr hc
    exact congrArg Host.Outcome.next (last (f := HeadLink.abort) (by simp [HeadLink.nextEvent, hr, hc]) rfl)

/-- A closing flag disposes of the frame and leaves the receiver in SYNC (R5). -/
theorem receive_close {s : State} {b : Boom} {bits data : List Bool} (running : (s.boom b).link.running = true)
    (hr : (s.boom b).link.receiver = .frame) (hc : scanLine 0 [] ((s.boom b).link.line ++ bits) = .flag data []) :
    s.receive b bits = s.modLink b fun l => { l.dispose (s.calib b).headAddress data with receiver := .sync, line := [] } := by
  have h : (s.boom b).link.nextEvent (s.calib b).headAddress ((s.boom b).link.line ++ bits) =
      some ({ (s.boom b).link.dispose (s.calib b).headAddress data with receiver := .sync, line := [] }, []) := by
    simp [HeadLink.nextEvent, hr, hc]
  rw [receive_last running h rfl, modLink_const s b fun l => { l.dispose (s.calib b).headAddress data with receiver := .sync, line := [] }]

/-- HOLD_OFF after an entry: it is set as the occupancy becomes 3 (R7). -/
theorem holdOff_enter (l : HeadLink) (e : FifoEntry) :
    (if (l.fifo ++ [e]).length = 3 then true else l.holdOff) = (l.holdOff || decide (l.fifo.length = 2)) := by
  by_cases h : l.fifo.length = 2 <;> simp [h]

/-- An entry that is not GOOD answers nothing. -/
theorem answers_of_bad (l : HeadLink) {e : FifoEntry} (h : e.status ≠ .good) : l.answers e = false := by
  unfold HeadLink.answers
  split <;> simp [h]

theorem frameStatus_long {data : List Bool} (h : 192 < data.length) : frameStatus data = .long := by
  simp [frameStatus, h]

theorem frameStatus_residue {data : List Bool} (h : data.length ≤ 192) (h8 : data.length % 8 ≠ 0) : frameStatus data = .residue := by
  simp [frameStatus, Nat.not_lt.2 h, h8]

theorem frameStatus_checkError {data : List Bool} (h : data.length ≤ 192) (h8 : data.length % 8 = 0)
    (hc : data.length < 32 ∨ checkBits (data.take (data.length - 16)) ≠ data.drop (data.length - 16)) :
    frameStatus data = .checkError := by
  have ho : 24 * 8 < data.length ↔ False := by simp; omega
  simp only [frameStatus, ho, if_false, h8, ne_eq, not_true_eq_false]
  rcases hc with hc | hc
  · rw [if_pos (by omega)]
  · split
    · rfl
    · simp [checkPasses, hc]

theorem frameStatus_good {data : List Bool} (h : data.length ≤ 192) (h8 : data.length % 8 = 0) (h32 : 32 ≤ data.length)
    (hc : checkBits (data.take (data.length - 16)) = data.drop (data.length - 16)) : frameStatus data = .good := by
  have ho : 24 * 8 < data.length ↔ False := by simp; omega
  have h4 : data.length / 8 < 4 ↔ False := by simp; omega
  simp [frameStatus, ho, h8, h4, checkPasses, hc]

/-- Settles O20, by the tests of the disposal in their order. -/
theorem aFrameThatIsNotGoodIsDiscardedLostOrMarked : Obligations.AFrameThatIsNotGoodIsDiscardedLostOrMarked := by
  unfold Obligations.AFrameThatIsNotGoodIsDiscardedLostOrMarked
  intro b bits data s running hr hc
  -- A closed frame leaves the link as its disposal does.
  have closes {f : HeadLink → HeadLink}
      (h : { (s.boom b).link.dispose (s.calib b).headAddress data with receiver := .sync, line := [] } = f (s.boom b).link) :
      exec (.frameClose b bits) s = .next (s.modLink b f) := by
    refine congrArg Host.Outcome.next ?_
    rw [receive_close running hr hc, ← modLink_const s b f, ← h,
      modLink_const s b fun l => { l.dispose (s.calib b).headAddress data with receiver := .sync, line := [] }]
  refine ⟨fun ha => closes ?_, fun ha => ⟨fun hf => closes ?_, fun hf => ?_⟩⟩
  · simp [HeadLink.dispose, ha, count16, satInc]
  · simp [HeadLink.dispose, ha, hf, HeadLink.addError, count16, satInc]
  · have entered : (s.boom b).link.dispose (s.calib b).headAddress data = (s.boom b).link.enter (frameEntry data) := by
      simp [HeadLink.dispose, ha, Nat.not_le.2 hf]
    refine ⟨fun hl => closes ?_, fun hl h8 => closes ?_, fun hl h8 he => closes ?_⟩
    · have hst := frameStatus_long hl
      have bad := answers_of_bad (s.boom b).link (e := frameEntry data) (by simp [frameEntry, hst])
      rw [entered]
      simp only [HeadLink.enter, bad, holdOff_enter]
      simp [frameEntry, hst, HeadLink.countStatus, HeadLink.addError, count16, satInc]
    · have hst := frameStatus_residue hl h8
      have bad := answers_of_bad (s.boom b).link (e := frameEntry data) (by simp [frameEntry, hst])
      rw [entered]
      simp only [HeadLink.enter, bad, holdOff_enter]
      simp [frameEntry, hst, HeadLink.countStatus, HeadLink.addError, count16, satInc]
    · have hst := frameStatus_checkError hl h8 he
      have bad := answers_of_bad (s.boom b).link (e := frameEntry data) (by simp [frameEntry, hst])
      rw [entered]
      simp only [HeadLink.enter, bad, holdOff_enter]
      simp [frameEntry, hst, HeadLink.countStatus, HeadLink.addError, count16, satInc]

/-- The bits of a frame are those of its body and then its check bits, which pass the comparison (R2). -/
theorem frame_bits (body : List Byte) :
    (body ++ bytesOfBits (checkBits (body.flatMap bitsLsb))).flatMap bitsLsb =
      body.flatMap bitsLsb ++ checkBits (body.flatMap bitsLsb) := by
  rw [List.flatMap_append, flatMap_bytesOfBits 2 _ (by simp)]

theorem length_bytesOfBits_checkBits (bits : List Bool) : (bytesOfBits (checkBits bits)).length = 2 := by
  have h := congrArg List.length (flatMap_bytesOfBits 2 (checkBits bits) (by simp))
  rw [length_flatMap_bitsLsb, length_checkBits] at h
  omega

/-- The entry that a checked frame makes (R5): GOOD, with its kind and payload. -/
theorem frameEntry_sent (address kind : Byte) {payload : List Byte} (h : payload.length ≤ 20) :
    frameEntry (((address :: kind :: payload) ++
        bytesOfBits (checkBits ((address :: kind :: payload).flatMap bitsLsb))).flatMap bitsLsb) =
      { status := .good, kind := some kind, payload := some payload, answer := false } := by
  have hl := length_flatMap_bitsLsb (address :: kind :: payload)
  have h2 := length_bytesOfBits_checkBits ((address :: kind :: payload).flatMap bitsLsb)
  have good : frameStatus (((address :: kind :: payload) ++
      bytesOfBits (checkBits ((address :: kind :: payload).flatMap bitsLsb))).flatMap bitsLsb) = .good := by
    rw [frame_bits]
    simp only [List.length_cons] at hl
    have hlen : ((address :: kind :: payload).flatMap bitsLsb ++ checkBits ((address :: kind :: payload).flatMap bitsLsb)).length =
        8 * (payload.length + 4) := by
      rw [List.length_append, length_checkBits, hl]; omega
    have cut : 8 * (payload.length + 4) - 16 = ((address :: kind :: payload).flatMap bitsLsb).length := by rw [hl]; omega
    refine frameStatus_good ?_ ?_ ?_ ?_ <;> rw [hlen]
    · omega
    · omega
    · omega
    · rw [cut, List.take_left, List.drop_left]
  have cut : ((payload ++ bytesOfBits (checkBits ((address :: kind :: payload).flatMap bitsLsb))).take
      (payload.length + (bytesOfBits (checkBits ((address :: kind :: payload).flatMap bitsLsb))).length - 2)) = payload := by
    rw [h2, Nat.add_sub_cancel, List.take_left]
  simp only [frameEntry, good, bytesOfBits_flatMap]
  simp only [List.cons_append, List.drop_succ_cons, List.drop_zero, List.length_cons,
    List.length_append]
  simpa only [List.getElem?_cons_succ, List.getElem?_cons_zero, reduceCtorEq, if_false, FifoEntry.mk.injEq, true_and, and_true,
    Option.some.injEq, show payload.length + (bytesOfBits (checkBits ((address :: kind :: payload).flatMap bitsLsb))).length + 1 + 1 - 4 =
      payload.length + (bytesOfBits (checkBits ((address :: kind :: payload).flatMap bitsLsb))).length - 2 by omega] using cut

/-- The answer mark of a GOOD entry (R10): the first SAMPLE of 11 bytes whose last echoes the outstanding poll. -/
theorem answers_sent (l : HeadLink) (kind : Byte) (payload : List Byte) :
    l.answers { status := .good, kind := some kind, payload := some payload, answer := false } =
      (decide (kind = 0x10 ∧ payload.length = 11 ∧ l.outstanding = payload[10]?) && !l.answered) := by
  by_cases h11 : payload.length = 11
  · have hx : payload[10]? = some payload[10] := List.getElem?_eq_getElem (by omega)
    cases ho : l.outstanding with
    | none => simp [HeadLink.answers, ho, hx]
    | some x =>
      simp [HeadLink.answers, kindSample, h11, ho, Bool.beq_eq_decide_eq, eq_comm (a := x)]
  · simp [HeadLink.answers, h11]

/-- Settles O19: what the sender put in is taken out (`scanLine_frame`), and the entry is the frame's kind and payload. -/
theorem aFrameSentByTheHeadEntersTheFifoGood : Obligations.AFrameSentByTheHeadEntersTheFifoGood := by
  unfold Obligations.AFrameSentByTheHeadEntersTheFifoGood
  intro b bits s kind payload running hr hfifo haddress hpayload hrun
  have hc := scanLine_frame (((BitVec.ofNat 8 (s.calib b).headAddress :: kind :: payload) ++
    bytesOfBits (checkBits ((BitVec.ofNat 8 (s.calib b).headAddress :: kind :: payload).flatMap bitsLsb))).flatMap bitsLsb)
  rw [← hrun] at hc
  refine congrArg Host.Outcome.next ?_
  rw [receive_close running hr hc]
  rw [← modLink_const]
  conv_rhs => rw [← modLink_const]
  refine congrArg (fun l => s.modLink b fun _ => l) ?_
  have room : ¬ 4 ≤ (s.boom b).link.fifo.length := Nat.not_le.2 hfifo
  have matched : (bytesOfBits (((BitVec.ofNat 8 (s.calib b).headAddress :: kind :: payload) ++
      bytesOfBits (checkBits ((BitVec.ofNat 8 (s.calib b).headAddress :: kind :: payload).flatMap bitsLsb))).flatMap bitsLsb)).head?.map
        BitVec.toNat = some (s.calib b).headAddress := by
    rw [bytesOfBits_flatMap]
    simp [Nat.mod_eq_of_lt haddress]
  simp only [HeadLink.dispose, matched, room, frameEntry_sent _ _ hpayload, HeadLink.enter, answers_sent, holdOff_enter]
  cases ha : (s.boom b).link.answered <;> simp [HeadLink.countStatus, count16, satInc]

end Sys2Proof.Machine

/-! ## A millisecond (O3) -/
namespace Sys2Proof.Machine

theorem HeadLink.count_eq (l : HeadLink) : l.count = { l with pollTimer := if l.running then l.pollTimer + 1 else l.pollTimer } := by
  unfold HeadLink.count; split <;> rfl

theorem Controller.countMechanical_eq (c : Controller) : c.countMechanical =
    { c with
      collarTimer := if c.run = some .running then c.collarTimer.map (· + 1) else c.collarTimer
      torqueTime := if c.run = some .running then c.torqueTime.map (· + 1) else c.torqueTime
      holdTimer := if c.run = some .running then c.holdTimer.map (· + 1) else c.holdTimer } := by
  unfold Controller.countMechanical; split <;> rfl

theorem Monitor.count_eq (m : Monitor) :
    m.count = { m with roundTimer := if m.round = .stopped then m.roundTimer else m.roundTimer + 1 } := by
  unfold Monitor.count; split <;> rfl

theorem MemoryController.count_eq (m : MemoryController) :
    m.count = { m with opTimer := if m.op = .none then m.opTimer else m.opTimer + 1 } := by
  unfold MemoryController.count; split <;> rfl

theorem SelfCheck.count_eq (c : SelfCheck) :
    c.count = { c with stepTimer := if c.running then c.stepTimer + 1 else c.stepTimer } := by
  unfold SelfCheck.count; split <;> rfl

theorem HeadLink.pollDue_iff (l : HeadLink) : l.pollDue = true ↔ l.running = true ∧ 2 ≤ l.pollTimer := by simp [HeadLink.pollDue]

theorem noContactDue_iff (s : State) (b : Boom) : s.noContactDue b = true ↔
    (s.boom b).ctl.state = .collaring ∧ (s.boom b).tracker.contactSeen = false ∧
      ∃ n, (s.boom b).ctl.collarTimer = some n ∧ 3000 ≤ n := by
  simp [State.noContactDue, reached_iff, and_assoc]

theorem holdDue_iff (s : State) (b : Boom) : s.holdDue b = true ↔
    (s.boom b).ctl.state = .holding ∧ ∃ n, (s.boom b).ctl.holdTimer = some n ∧ s.params.plan.holdTime ≤ n := by
  simp [State.holdDue, reached_iff]

theorem torqueTimeoutDue_iff (s : State) (b : Boom) : s.torqueTimeoutDue b = true ↔
    (s.boom b).ctl.state = .torquing ∧ ∃ n, (s.boom b).ctl.torqueTime = some n ∧ 8000 ≤ n := by
  simp [State.torqueTimeoutDue, reached_iff]

theorem spinLateDue_iff (s : State) (b : Boom) : s.spinLateDue b = true ↔
    ((s.boom b).ctl.state = .inserted ∨ (s.boom b).ctl.state = .spinning) ∧
      ∃ n, (s.boom b).ctl.insertToSpin = some n ∧ s.params.plan.insertToSpin ≤ n := by
  simp [State.spinLateDue, reached_iff]

theorem mixIncompleteDue_iff (s : State) (b : Boom) : s.mixIncompleteDue b = true ↔
    (s.boom b).ctl.state = .spinning ∧ ∃ n, (s.boom b).ctl.gelDeadline = some n ∧ s.params.plan.gelDeadline ≤ n := by
  simp [State.mixIncompleteDue, reached_iff]

theorem torqueMissedDue_iff (s : State) (b : Boom) : s.torqueMissedDue b = true ↔
    ((s.boom b).ctl.state = .set ∨ (s.boom b).ctl.state = .torquing) ∧
      ∃ n, (s.boom b).ctl.torqueWindow = some n ∧ s.params.plan.torqueWindow ≤ n := by
  simp [State.torqueMissedDue, reached_iff]

theorem waitsBetween_iff (st : BoomState) :
    st.waitsBetween = true ↔ st = .holeOpen ∨ st = .collared ∨ st = .drilled ∨ st = .retracted := by
  cases st <;> simp [BoomState.waitsBetween]

theorem roundDue_iff (m : Monitor) : m.roundDue = true ↔ m.round = .sleeping ∧ m.sleepLimit ≤ m.roundTimer := by
  simp [Monitor.roundDue]

/-- The expiries due put into the queue, in the order that the free values give. -/
def State.queueDue (s : State) : State := { s with pending := freeOrder s.due.length s.free s.due, free := s.free + s.due.length }

theorem tick_operating {s : State} (h : s.phase = .operating) :
    s.tick = State.queueDue (State.countTimers { s with millis := s.millis + 1 }) := by
  unfold State.tick
  split
  case h_5 => rfl
  all_goals simp_all

/-- Settles O3: the timers count as their blocks' equations say, and what the free values order is what is due (`mem_due`). -/
theorem aMillisecondCountsTheTimersAndQueuesWhatIsDue : Obligations.AMillisecondCountsTheTimersAndQueuesWhatIsDue := by
  unfold Obligations.AMillisecondCountsTheTimersAndQueuesWhatIsDue
  intro s hq
  have stepped : step s = .next s.tick := by simp [step, hq]
  refine ⟨fun h => ?_, fun h => ?_, fun h => ?_⟩
  · rw [stepped, State.tick]; rcases h with h | h <;> rw [h]
  · rw [stepped, State.tick]; rcases h with h | ⟨a, h⟩ <;> rw [h]
  · intro z counted m reaches dueOf due
    have hm : ({ s with millis := s.millis + 1 } : State).countTimers = m := by
      have hu (u : BoomUnit) : u.count = counted u := by
        simp only [BoomUnit.count, HeadLink.count_eq, Controller.countMechanical_eq, Controller.countAlways, counted]
      simp only [State.countTimers, hu, Monitor.count_eq, MemoryController.count_eq, SelfCheck.count_eq, m]
    have hdue (c : Instr) : c ∈ m.due ↔ due c := by
      simp only [mem_due, mem_boomDue, due, dueOf, reaches, HeadLink.pollDue_iff, noContactDue_iff, holdDue_iff, torqueTimeoutDue_iff,
        spinLateDue_iff, mixIncompleteDue_iff, torqueMissedDue_iff, waitTimeoutDue_iff, waitsBetween_iff, roundDue_iff, pageDue_iff,
        loadDue_iff, saveDue_iff]
      rfl
    have perm := freeOrder_perm m.due.length m.free m.due (Nat.le_refl _)
    refine ⟨freeOrder m.due.length m.free m.due, perm.nodup_iff.2 (nodup_due m), fun c => ?_, ?_⟩
    · rw [perm.mem_iff, hdue]
    · rw [stepped, tick_operating h, hm, perm.length_eq, State.queueDue]

end Sys2Proof.Machine

/-! ## Power and reset (O12, O14) -/
namespace Sys2Proof.Machine

/-- A cut page leaves every address outside it, whatever the free values are (R190). -/
theorem read_cutPage_other {a : Nat} : ∀ (page : List Host.Cell) (n : Nat) (m : List Host.Cell), (∀ c ∈ page, c.1 ≠ a) →
    Memory.read (cutPage m n page) a = Memory.read m a
  | [], _, _, _ => rfl
  | (k, v) :: page, n, m, h => by
    rw [cutPage, read_cutPage_other page (n + 1) _ fun c hc => h c (List.mem_cons_of_mem _ hc)]
    exact Memory.read_write_other (fun e => h (k, v) (List.mem_cons_self ..) e.symm) _ m

/-- Settles O12. -/
theorem powerOnAndPowerOffKeepOnlyTheConfigurationMemory : Obligations.PowerOnAndPowerOffKeepOnlyTheConfigurationMemory := by
  unfold Obligations.PowerOnAndPowerOffKeepOnlyTheConfigurationMemory
  intro s
  have stopped (ph : Phase) (b : Boom) : (s.powerCycle ph).drivesNothing b :=
    State.drivesNothing_of_stopped (by cases b <;> rfl)
  exact ⟨⟨_, rfl, rfl, stopped _, fun a h => read_cutPage_other _ _ _ h⟩, ⟨_, rfl, rfl, stopped _, fun a h => read_cutPage_other _ _ _ h⟩⟩

/-- Settles O14. -/
theorem resetNResetsTheBlocksAndItsReleaseStartsThePart : Obligations.ResetNResetsTheBlocksAndItsReleaseStartsThePart := by
  unfold Obligations.ResetNResetsTheBlocksAndItsReleaseStartsThePart
  constructor
  · intro s hlow hphase
    refine ⟨{ s.resetN with resetNLow := true }, by simp [exec, execResetNAssert, hlow, hphase], rfl, rfl, rfl, fun b => ?_, fun b => ?_,
      rfl, rfl, rfl, rfl, fun p => ?_, rfl, rfl, fun a h => read_cutPage_other _ _ _ h, rfl, rfl, rfl, rfl, rfl, rfl, rfl⟩
    · exact State.drivesNothing_of_stopped (by cases b <;> rfl)
    · cases b <;> rfl
    · cases p <;> rfl
  · intro s hlow hphase
    simp [exec, execResetNRelease, hlow, hphase]

end Sys2Proof.Machine

/-! ## The opening (O16) -/
namespace Sys2Proof.Machine

/-- With an empty list the arbiter only works out Q_avail afresh. -/
theorem refreshFlow_empty {s : State} (h : s.arbiter.demands = []) :
    s.refreshFlow = { s with arbiter := { qAvail := availableFlow s.params.plan.qPump s.interlocks, demands := [] } } := by
  unfold State.refreshFlow
  rw [h]
  simp only [List.filter_nil, true_and]
  split
  · rename_i hq
    have ha : s.arbiter = { qAvail := s.arbiter.qAvail, demands := [] } := by rw [← h]
    rw [hq, ← ha]
  · simp [State.reallocate, State.handGrant, grantsChanged, allocate, allocPass]

theorem startLink_eq (s : State) (b : Boom) : s.startLink b =
    s.modLink b fun l => if s.enabled b then { l with running := true, pollTimer := 0 } else l := by
  unfold State.startLink
  cases b <;> split <;> simp_all [State.modLink, State.modBoom]

/-- What WEAR, raised for a worn boom, makes of the ports (R163). -/
theorem port_raiseStanding (s : State) (b : Boom) (p : Port) : (s.raiseStanding b).port p =
    { s.port p with
      causes := { (s.port p).causes with
        c6 := (s.port p).causes.c6 || (decide (p = b.port) && s.enabled b && (s.boom b).wear.anyCrossed)
        c7 := (s.port p).causes.c7 || (decide (p = .machine) && (s.boom b).wear.anyCrossed) } } := by
  unfold State.raiseStanding State.raise State.raiseMachine
  cases h : (s.boom b).wear.anyCrossed with
  | false => simp
  | true =>
    cases he : s.enabled b <;> cases b <;> cases p <;>
      simp [Boom.port, State.modPort, State.port, Causes.put, BoomCause.code, MachineCause.code]

/-- Of the rest it changes nothing. -/
theorem raiseStanding_rest (s : State) (b : Boom) :
    (∀ c, (s.raiseStanding b).boom c = s.boom c) ∧ (s.raiseStanding b).backdrop = s.backdrop ∧
      (s.raiseStanding b).arbiter = s.arbiter ∧ (s.raiseStanding b).rowMap = s.rowMap ∧ (s.raiseStanding b).holeLog = s.holeLog ∧
      (s.raiseStanding b).faultLog = s.faultLog ∧ (s.raiseStanding b).monitor = s.monitor := by
  unfold State.raiseStanding
  split <;> simp

/-- The part as the ports, the links, the rounds and the arbiter are opened, before the flags. -/
def State.opened (s : State) : State :=
  (((s.openPorts.startLink .left).startLink .right).modMonitor Monitor.startRound).refreshFlow

theorem opened_eq {s : State} (h : s.arbiter.demands = []) :
    s.opened = { s.openPorts with
      left := if s.enabled .left then { s.left with link := { s.left.link with running := true, pollTimer := 0 } } else s.left
      right := if s.enabled .right then { s.right with link := { s.right.link with running := true, pollTimer := 0 } } else s.right
      monitor := s.monitor.startRound
      arbiter := { qAvail := availableFlow s.params.plan.qPump s.interlocks, demands := [] } } := by
  have linked : (s.openPorts.startLink .left).startLink .right = { s.openPorts with
      left := if s.enabled .left then { s.left with link := { s.left.link with running := true, pollTimer := 0 } } else s.left
      right := if s.enabled .right then { s.right with link := { s.right.link with running := true, pollTimer := 0 } } else s.right } := by
    have hl : s.openPorts.enabled .left = s.enabled .left := rfl
    have hr : (s.openPorts.startLink .left).enabled .right = s.enabled .right := by rw [startLink_eq]; rfl
    unfold State.startLink at hr ⊢
    rw [hr, hl]
    split <;> split <;> rfl
  unfold State.opened
  rw [linked, refreshFlow_empty (by exact h)]
  rfl

/-- The flags that the opening raises: WEAR of both booms, and where it is asked for ROW_READY (R129, R163). -/
def State.standing (s : State) (ready : Bool) : State :=
  let t := (s.raiseStanding .left).raiseStanding .right
  if ready && !t.rowMap.tramPermitted then t.raiseReady else t

theorem port_raiseReady (s : State) (p : Port) : s.raiseReady.port p =
    { s.port p with causes := { (s.port p).causes with c3 := (s.port p).causes.c3 || (decide (p = .machine) && s.rowMap.ready) } } := by
  unfold State.raiseReady State.raiseMachine
  split <;> cases p <;> simp_all [State.modPort, State.port, Causes.put, MachineCause.code]

theorem standing_rest (s : State) (ready : Bool) :
    (∀ c, (s.standing ready).boom c = s.boom c) ∧ (s.standing ready).backdrop = s.backdrop ∧
      (s.standing ready).arbiter = s.arbiter ∧ (s.standing ready).rowMap = s.rowMap ∧ (s.standing ready).holeLog = s.holeLog ∧
      (s.standing ready).faultLog = s.faultLog ∧ (s.standing ready).monitor = s.monitor := by
  obtain ⟨lboom, lback, larb, lrow, lhole, lfault, lmon⟩ := raiseStanding_rest s .left
  obtain ⟨rboom, rback, rarb, rrow, rhole, rfault, rmon⟩ := raiseStanding_rest (s.raiseStanding .left) .right
  unfold State.standing State.raiseReady
  simp only []
  split
  · split <;> simp [*]
  · simp [*]

theorem port_standing (s : State) (ready : Bool) (p : Port) : (s.standing ready).port p =
    { s.port p with
      causes := { (s.port p).causes with
        c3 := (s.port p).causes.c3 || (decide (p = .machine) && (ready && !s.rowMap.tramPermitted && s.rowMap.ready))
        c6 := (s.port p).causes.c6 || (decide (p = .left) && s.enabled .left && s.left.wear.anyCrossed) ||
          (decide (p = .right) && s.enabled .right && s.right.wear.anyCrossed)
        c7 := (s.port p).causes.c7 || (decide (p = .machine) && (s.left.wear.anyCrossed || s.right.wear.anyCrossed)) } } := by
  obtain ⟨lboom, lback, -, lrow, -⟩ := raiseStanding_rest s .left
  obtain ⟨-, -, -, rrow, -⟩ := raiseStanding_rest (s.raiseStanding .left) .right
  have hl : (s.raiseStanding .left).enabled .right = s.enabled .right := by
    have : (s.raiseStanding .left).straps = s.straps := congrArg Backdrop.straps lback
    simp [State.enabled, this]
  have hport := port_raiseStanding (s.raiseStanding .left) .right p
  simp only [port_raiseStanding s .left, hl, lboom] at hport
  unfold State.standing
  simp only []
  split
  · rename_i h
    rw [port_raiseReady, hport, rrow, lrow]
    rw [rrow, lrow] at h
    simp only [h]
    cases p <;> simp [Boom.port, State.boom, Bool.or_assoc]
  · rename_i h
    rw [hport]
    rw [rrow, lrow] at h
    simp only [h]
    cases p <;> simp [Boom.port, State.boom, Bool.or_assoc]

theorem openPart_eq (s : State) (afterRequest : Bool) :
    s.openPart afterRequest = { s.opened.standing afterRequest with phase := .operating } := rfl

/-- Settles O16: the opening is the opened part with the flags raised that stand. -/
theorem theOpeningStartsPortsLinksAndRounds : Obligations.TheOpeningStartsPortsLinksAndRounds := by
  unfold Obligations.TheOpeningStartsPortsLinksAndRounds
  intro s afterRequest hphase hdemands
  have hopen := opened_eq hdemands
  obtain ⟨hboom, hback, harb, hrow, hhole, hfault, hmon⟩ := standing_rest s.opened afterRequest
  have hport := port_standing s.opened afterRequest
  have booms (b : Boom) : (s.openPart afterRequest).boom b = if s.enabled b
      then { s.boom b with link := { (s.boom b).link with running := true, pollTimer := 0 } } else s.boom b := by
    have h : (s.openPart afterRequest).boom b = (s.opened.standing afterRequest).boom b := by cases b <;> rfl
    rw [h, hboom, hopen]
    cases b <;> rfl
  have ports (p : Port) : (s.openPart afterRequest).port p = (s.opened.standing afterRequest).port p := by cases p <;> rfl
  have kept {α : Type} {a : α} (f : Backdrop → α) (hf : ∀ x, f { x with phase := .operating } = f x) (ha : f s.opened.backdrop = a) :
      f (s.openPart afterRequest).backdrop = a := by
    rw [← ha, ← hback, openPart_eq, ← hf (s.opened.standing afterRequest).backdrop]; rfl
  have straps : (s.openPart afterRequest).straps = s.straps := kept Backdrop.straps (fun _ => rfl) (by rw [hopen]; rfl)
  have enabled (b : Boom) : s.opened.enabled b = s.enabled b := by rw [hopen]; cases b <;> rfl
  have worn (b : Boom) : (s.opened.boom b).wear.anyCrossed =
      [(s.boom b).wear.bitWear, (s.boom b).wear.feedZero, (s.boom b).wear.linkQuality, (s.boom b).wear.torqueSlip,
        (s.boom b).wear.mixShort].any Attr.crossed := by
    have h : (s.opened.boom b).wear = (s.boom b).wear := by
      rw [hopen]
      cases b <;> simp only [State.boom] <;> split <;> rfl
    simp [h, WearTable.anyCrossed, Bool.or_assoc]
  have hworn : s.opened.left.wear.anyCrossed = _ ∧ s.opened.right.wear.anyCrossed = _ := ⟨worn .left, worn .right⟩
  have portsOpened (p : Port) : s.opened.port p = { s.port p with isOpen := true } := by rw [hopen]; cases p <;> rfl
  have rows : s.opened.rowMap = s.rowMap := by rw [hopen]; rfl
  refine ⟨s.openPart afterRequest, by simp [exec, execOpening, hphase], rfl, fun p => ?_, booms, fun hl b => ?_, ?_, ?_, fun p => ?_,
    ⟨fun b => ?_, ?_⟩, ?_, ?_, ?_, kept Backdrop.mem (fun _ => rfl) (by rw [hopen]; rfl),
    kept Backdrop.check (fun _ => rfl) (by rw [hopen]; rfl), kept Backdrop.params (fun _ => rfl) (by rw [hopen]; rfl),
    kept Backdrop.millis (fun _ => rfl) (by rw [hopen]; rfl), straps, kept Backdrop.postFail (fun _ => rfl) (by rw [hopen]; rfl)⟩
  · rw [ports, hport, portsOpened]
  · obtain ⟨hrun, hsent⟩ := hl b
    have stopped : (s.boom b).link.running = false := by simp [hrun, hphase]
    split
    · rename_i he
      have h := State.drives_of_running (s := s.openPart afterRequest) (b := b) (by rw [booms, he]; rfl)
      have none' : ((s.openPart afterRequest).boom b).link.sent = none := by rw [booms, he]; exact hsent stopped
      rw [none'] at h
      exact h
    · rename_i he
      exact State.drivesNothing_of_stopped (by rw [booms, if_neg he]; exact stopped)
  · exact hmon.trans (by rw [hopen]; rfl)
  · exact harb.trans (by rw [hopen])
  · rw [ports, hport, portsOpened]; exact ⟨rfl, rfl⟩
  · rw [ports, hport, portsOpened, enabled, enabled, hworn.1, hworn.2, rows]
    cases b <;> simp [Boom.port]
  · have h : (s.openPart afterRequest).portMachine = (s.opened.standing afterRequest).port .machine := rfl
    rw [h, hport, portsOpened, enabled, enabled, hworn.1, hworn.2, rows]
    simp [RowMap.ready, State.port, Bool.or_assoc]
  · exact hrow.trans rows
  · exact hhole.trans (by rw [hopen]; rfl)
  · exact hfault.trans (by rw [hopen]; rfl)

end Sys2Proof.Machine

/-! ## The flags that an act raises

A cause flag is only ever set by an act on a boom, so an act is met with the flags that it joins to each port's; of the ports it changes
nothing else. -/
namespace Sys2Proof.Machine

/-- The flags of two sets. -/
def Causes.join (c d : Causes) : Causes :=
  { c1 := c.c1 || d.c1, c2 := c.c2 || d.c2, c3 := c.c3 || d.c3, c4 := c.c4 || d.c4, c5 := c.c5 || d.c5, c6 := c.c6 || d.c6
    c7 := c.c7 || d.c7 }

@[simp] theorem Causes.join_clear (c : Causes) : c.join Causes.clear = c := by simp [Causes.join, Causes.clear]

@[simp] theorem Causes.clear_join (c : Causes) : Causes.clear.join c = c := by simp [Causes.join, Causes.clear]

theorem Causes.join_assoc (c d e : Causes) : (c.join d).join e = c.join (d.join e) := by simp [Causes.join, Bool.or_assoc]

theorem Causes.join_put (c : Causes) (n : Nat) : c.join (Causes.clear.put true n) = c.put true n := by
  rcases n with _ | _ | _ | _ | _ | _ | _ | _ | n <;> simp [Causes.join, Causes.put, Causes.clear]

/-- From one state to another each port keeps all but its flags, and these are joined by those given. -/
def State.flagged (s t : State) (f : Port → Causes) : Prop :=
  ∀ p, t.port p = { s.port p with causes := (s.port p).causes.join (f p) }

/-- No flag. -/
def noFlag (_ : Port) : Causes := Causes.clear

/-- A cause of a boom's port, raised where `on` says so and the boom is enabled by its pin (R177). -/
def State.boomFlag (s : State) (b : Boom) (c : BoomCause) (on : Bool) (p : Port) : Causes :=
  if p = b.port ∧ s.enabled b = true ∧ on = true then Causes.clear.put true c.code else Causes.clear

/-- A cause of the machine port, raised where `on` says so. -/
def machineFlag (c : MachineCause) (on : Bool) (p : Port) : Causes :=
  if p = .machine ∧ on = true then Causes.clear.put true c.code else Causes.clear

/-- WEAR of a boom (R154). -/
def State.wearFlag (s : State) (b : Boom) (on : Bool) (p : Port) : Causes := (s.boomFlag b .wear on p).join (machineFlag .wear on p)

/-- Two acts' flags. -/
def bothFlags (f g : Port → Causes) (p : Port) : Causes := (f p).join (g p)

theorem enabled_congr {s t : State} (h : t.straps = s.straps) : t.enabled = s.enabled := by
  funext b; cases b <;> simp [State.enabled, h]

theorem boomFlag_congr {s t : State} (h : t.straps = s.straps) : t.boomFlag = s.boomFlag := by
  funext b c on p; simp [State.boomFlag, enabled_congr h]

theorem wearFlag_congr {s t : State} (h : t.straps = s.straps) : t.wearFlag = s.wearFlag := by
  funext b on p; simp [State.wearFlag, boomFlag_congr h]

theorem straps_of_backdrop {s t : State} (h : t.backdrop = s.backdrop) : t.straps = s.straps := congrArg Backdrop.straps h

theorem State.flagged.of_ports {s t : State} (h : ∀ p, t.port p = s.port p) : s.flagged t noFlag := fun p => by simp [noFlag, h]

theorem State.flagged.refl (s : State) : s.flagged s noFlag := .of_ports fun _ => rfl

theorem State.flagged.trans {s t u : State} {f g : Port → Causes} (h : s.flagged t f) (k : t.flagged u g) :
    s.flagged u (bothFlags f g) := fun p => by simp [k p, h p, bothFlags, Causes.join_assoc]

/-- An act without flags before another. -/
theorem State.flagged.after {s t u : State} {f : Port → Causes} (h : ∀ p, t.port p = s.port p) (k : t.flagged u f) : s.flagged u f :=
  fun p => by rw [k p, h p]

/-- An act without flags behind another. -/
theorem State.flagged.before {s t u : State} {f : Port → Causes} (k : s.flagged t f) (h : ∀ p, u.port p = t.port p) : s.flagged u f :=
  fun p => by rw [h p, k p]

theorem State.flagged.causes {s t : State} {f : Port → Causes} (h : s.flagged t f) (p : Port) :
    (t.port p).causes = (s.port p).causes.join (f p) := by rw [h p]

theorem flagged_raise (s : State) (b : Boom) (c : BoomCause) : s.flagged (s.raise b c) (s.boomFlag b c true) := fun p => by
  unfold State.raise State.boomFlag
  by_cases he : s.enabled b = true
  · by_cases hp : p = b.port
    · subst hp; simp [he, Causes.join_put]
    · simp [he, hp, port_modPort_other]
  · simp [he]

theorem flagged_raiseMachine (s : State) (c : MachineCause) : s.flagged (s.raiseMachine c) (machineFlag c true) := fun p => by
  unfold State.raiseMachine machineFlag
  by_cases hp : p = .machine
  · subst hp; simp [Causes.join_put]
  · simp [hp, port_modPort_other]

theorem boomFlag_false (s : State) (b : Boom) (c : BoomCause) : s.boomFlag b c false = noFlag := by
  funext p; simp [State.boomFlag, noFlag]

theorem wearFlag_false (s : State) (b : Boom) : s.wearFlag b false = noFlag := by
  funext p; simp [State.wearFlag, boomFlag_false, noFlag, machineFlag]

/-- A changed wear table raises WEAR where one of its states differs. -/
theorem flagged_modWear (s : State) (b : Boom) (f : WearTable → WearTable) :
    s.flagged (s.modWear b f) (s.wearFlag b ((s.boom b).wear.statesDiffer (f (s.boom b).wear))) := by
  have worn (p : Port) : (s.modBoom b fun u => { u with wear := f u.wear }).port p = s.port p := by simp
  unfold State.modWear
  simp only []
  split
  · rename_i h
    rw [h]
    have raised := State.flagged.after worn ((flagged_raise _ b .wear).trans (flagged_raiseMachine _ .wear))
    rw [boomFlag_congr (s := s) (by simp)] at raised
    exact raised
  · rename_i h
    rw [Bool.not_eq_true] at h
    rw [h, wearFlag_false]
    exact .of_ports worn

theorem statesDiffer_addGround (t : WearTable) (rate units : Nat) :
    t.statesDiffer (t.addGround rate units) = (t.bitWear.crossed != (t.addGround rate units).bitWear.crossed) := by
  simp [WearTable.statesDiffer, WearTable.addGround, WearTable.takeW]

/-- The flags of slices handed on: LAYER and WEAR. -/
def State.slicesFlag (s : State) (b : Boom) (cs : List ClosedSlice) : Port → Causes :=
  bothFlags (s.boomFlag b .layer (s.anyHanded b (s.layering b) (s.boom b).strata cs))
    (s.wearFlag b (s.anyHanded b (s.turning b) (s.boom b).strata cs))

theorem boomFlag_join (s : State) (b : Boom) (c : BoomCause) (x y : Bool) (p : Port) :
    (s.boomFlag b c x p).join (s.boomFlag b c y p) = s.boomFlag b c (x || y) p := by
  have twice : (Causes.clear.put true c.code).join (Causes.clear.put true c.code) = Causes.clear.put true c.code := by cases c <;> rfl
  unfold State.boomFlag
  by_cases hp : p = b.port ∧ s.enabled b = true
  · cases x <;> cases y <;> simp [hp, twice]
  · simp [← and_assoc, hp]

theorem machineFlag_join (c : MachineCause) (x y : Bool) (p : Port) :
    (machineFlag c x p).join (machineFlag c y p) = machineFlag c (x || y) p := by
  have twice : (Causes.clear.put true c.code).join (Causes.clear.put true c.code) = Causes.clear.put true c.code := by cases c <;> rfl
  unfold machineFlag
  by_cases hp : p = .machine
  · cases x <;> cases y <;> simp [hp, twice]
  · simp [hp]

theorem Causes.join_join_join_comm (c d e f : Causes) : (c.join d).join (e.join f) = (c.join e).join (d.join f) := by
  simp [Causes.join, Bool.or_assoc, Bool.or_left_comm]

theorem wearFlag_join (s : State) (b : Boom) (x y : Bool) (p : Port) :
    (s.wearFlag b x p).join (s.wearFlag b y p) = s.wearFlag b (x || y) p := by
  unfold State.wearFlag
  rw [← boomFlag_join, ← machineFlag_join, Causes.join_join_join_comm]

/-- A cause raised on a boom's port, or not. -/
theorem flagged_raise_if (s : State) (b : Boom) (c : BoomCause) (on : Bool) :
    s.flagged (if on then s.raise b c else s) (s.boomFlag b c on) := by
  cases on with
  | true => exact flagged_raise s b c
  | false => rw [boomFlag_false]; exact .refl s

theorem flagged_handSlice (s : State) (b : Boom) (c : ClosedSlice) :
    s.flagged (s.handSlice b c)
      (bothFlags (s.boomFlag b .layer (s.layering b (s.boom b).strata c)) (s.wearFlag b (s.turning b (s.boom b).strata c))) := by
  let r := classify s.params.classifier (s.calib b) (s.boom b).wear.w (s.boom b).classifier c
  let s1 := s.modBoom b fun u => { u with classifier := r.classifier, tracker := { u.tracker with handedBottom := some c.bottom } }
  let s2 := if r.raiseLayer then s1.raise b .layer else s1
  let s3 := if r.overflow then s2.modHole b fun h => { h with layerOverflow := true } else s2
  have h2 := flagged_raise_if s1 b .layer r.raiseLayer
  have h3 (p : Port) : s3.port p = s2.port p := by simp only [s3]; split <;> simp
  have hw : (s3.boom b).wear = (s.boom b).wear := by
    simp only [s3, s2, s1]; split <;> split <;> simp
  have hs : s3.straps = s.straps := by
    simp only [s3, s2, s1]; split <;> split <;> simp
  have h4 := flagged_modWear s3 b fun t => t.addGround s.params.classifier.wearRate c.length
  rw [hw, wearFlag_congr hs, statesDiffer_addGround] at h4
  rw [boomFlag_congr (s := s) (by simp [s1])] at h2
  exact (State.flagged.after (fun p => by simp [s1]) h2).trans (.after h3 h4)

theorem flagged_handSlices (b : Boom) (cs : List ClosedSlice) : ∀ s : State, s.flagged (s.handSlices b cs) (s.slicesFlag b cs) := by
  induction cs with
  | nil =>
    intro s
    have none' : s.slicesFlag b [] = noFlag := by
      funext p; simp [State.slicesFlag, State.anyHanded, boomFlag_false, wearFlag_false, bothFlags, noFlag]
    rw [none']
    exact .refl s
  | cons c cs ih =>
    intro s
    have hb := backdrop_handSlice s b c
    obtain ⟨-, hl, ht⟩ := acts_congr hb b
    have h := (flagged_handSlice s b c).trans (ih (s.handSlice b c))
    have strata : ((s.handSlice b c).boom b).strata = s.handOne b (s.boom b).strata c := by
      rw [boom_handSlice]; rfl
    intro p
    rw [State.handSlices, List.foldl_cons, ← State.handSlices, h p]
    simp only [State.slicesFlag, bothFlags, hl, ht, anyHanded_congr hb, strata, State.anyHanded, boomFlag_congr (straps_of_backdrop hb),
      wearFlag_congr (straps_of_backdrop hb)]
    rw [← boomFlag_join, ← wearFlag_join, Causes.join_join_join_comm]

theorem raisesLayer_iff (s : State) (b : Boom) (cs : List ClosedSlice) :
    s.anyHanded b (s.layering b) (s.boom b).strata cs = true ↔ s.raisesLayer b cs := anyHanded_iff

theorem overflowsLayers_iff (s : State) (b : Boom) (cs : List ClosedSlice) :
    s.anyHanded b (s.overflowing b) (s.boom b).strata cs = true ↔ s.overflowsLayers b cs := anyHanded_iff

theorem crossesWear_iff (s : State) (b : Boom) (cs : List ClosedSlice) :
    s.anyHanded b (s.turning b) (s.boom b).strata cs = true ↔ s.crossesWear b cs := by
  rw [anyHanded_iff]
  simp only [State.crossesWear, handed_eq, State.turning, bne_iff_ne, List.foldl_append, List.foldl_cons, List.foldl_nil]

end Sys2Proof.Machine

/-! ## A poll expiry (O21, O22)

An expiry judges the outstanding poll, counts the poll in its block, and sends. -/
namespace Sys2Proof.Machine

/-! ### Updates of one boom, one after the other -/

theorem modBoom_modBoom (s : State) (b : Boom) (f g : BoomUnit → BoomUnit) :
    (s.modBoom b f).modBoom b g = s.modBoom b fun u => g (f u) := by cases b <;> rfl

theorem modBoom_congr {s : State} {b : Boom} {f g : BoomUnit → BoomUnit} (h : f (s.boom b) = g (s.boom b)) :
    s.modBoom b f = s.modBoom b g := by
  cases b <;> simp_all [State.modBoom, State.boom]

theorem modBoom_self {s : State} {b : Boom} {f : BoomUnit → BoomUnit} (h : f (s.boom b) = s.boom b) : s.modBoom b f = s := by
  cases b <;> simp_all [State.modBoom, State.boom]

/-! ### The judgement (R8, R10, R11) -/

/-- The two runs after the judgement of the outstanding poll, if there is one. -/
def HeadLink.judged (l : HeadLink) : HeadLink :=
  { l with
    answeredRun := if l.outstanding = none then l.answeredRun else if l.answered then min 255 (l.answeredRun + 1) else 0
    missedRun := if l.outstanding = none then l.missedRun else if l.answered then 0 else min 255 (l.missedRun + 1) }

/-- The judgement makes the link UP. -/
def HeadLink.goesUp (l : HeadLink) : Bool := l.outstanding.isSome && l.answered && l.state != .up && decide (3 ≤ l.answeredRun)

/-- The judgement loses the link. -/
def HeadLink.isLost (l : HeadLink) : Bool := l.outstanding.isSome && !l.answered && l.state == .up && decide (2 ≤ l.missedRun)

theorem HeadLink.goesUp_iff (l : HeadLink) :
    l.goesUp = true ↔ l.outstanding.isSome = true ∧ l.answered = true ∧ l.state ≠ .up ∧ 3 ≤ l.answeredRun := by
  simp [HeadLink.goesUp, and_assoc]

theorem HeadLink.isLost_iff (l : HeadLink) :
    l.isLost = true ↔ l.outstanding.isSome = true ∧ l.answered = false ∧ l.state = .up ∧ 2 ≤ l.missedRun := by
  simp [HeadLink.isLost, and_assoc]

theorem judged_none {l : HeadLink} (h : l.outstanding = none) : l.judged = l := by
  unfold HeadLink.judged; rw [if_pos h, if_pos h]

/-- Of the judged link the link state is lost or won as the judgement before it says. -/
theorem judged_iff {l : HeadLink} (h : l.outstanding.isSome = true) :
    (l.state = .up ∧ 3 ≤ l.judged.missedRun ↔ l.isLost = true) ∧ (l.state ≠ .up ∧ 4 ≤ l.judged.answeredRun ↔ l.goesUp = true) := by
  obtain ⟨x, hx⟩ := Option.isSome_iff_exists.1 h
  rw [l.isLost_iff, l.goesUp_iff]
  cases ha : l.answered <;> simp [HeadLink.judged, hx, ha]

/-- The boom with the poll judged: the runs, and a missed poll counted in the open slice. -/
def State.judgedBoom (s : State) (b : Boom) : BoomUnit :=
  { s.boom b with
    link := (s.boom b).link.judged
    tracker := { (s.boom b).tracker with
      slice := if (s.boom b).link.outstanding.isSome = true ∧ (s.boom b).link.answered = false then s.sliceMissed b
        else (s.boom b).tracker.slice } }

theorem cutsGround_iff (st : BoomState) : st.cutsGround = true ↔ st = .collaring ∨ st = .drilling := by
  cases st <;> simp [BoomState.cutsGround]

theorem missingPoll_eq (s : State) (b : Boom) : s.missingPoll b = s.modTracker b fun t => { t with slice := s.sliceMissed b } := by
  unfold State.missingPoll State.sliceMissed
  simp only [← cutsGround_iff]
  cases hs : (s.boom b).tracker.slice with
  | none => exact (modTracker_self (s := s) (by rw [Option.map_none, ← hs])).symm
  | some o =>
    simp only [Option.map_some]
    split
    · rfl
    · exact (modTracker_self (s := s) (by rw [← hs])).symm

theorem sliceMissed_congr {s t : State} {b : Boom} (h : (t.boom b).tracker.slice = (s.boom b).tracker.slice)
    (hc : (t.boom b).ctl = (s.boom b).ctl) : t.sliceMissed b = s.sliceMissed b := by
  simp only [State.sliceMissed, h, hc]

/-- Behind the judgement of the outstanding poll the link changes its state, or stays. -/
theorem judgePoll_eq (s : State) (b : Boom) (h : (s.boom b).link.outstanding.isSome = true) :
    s.judgePoll b = (s.modBoom b fun _ => s.judgedBoom b).linkChange b := by
  obtain ⟨x, hx⟩ := Option.isSome_iff_exists.1 h
  unfold State.judgePoll
  simp only [h, if_true]
  congr 1
  cases ha : (s.boom b).link.answered with
  | true =>
    rw [if_pos rfl, State.modLink]
    refine modBoom_congr ?_
    simp [State.judgedBoom, HeadLink.judged, HeadLink.judge, ha, hx, satInc]
  | false =>
    rw [if_neg (by simp), missingPoll_eq]
    rw [State.modTracker, State.modLink, modBoom_modBoom]
    refine modBoom_congr ?_
    rw [sliceMissed_congr (s := s) (by simp) (by simp)]
    simp [State.judgedBoom, HeadLink.judged, HeadLink.judge, ha, hx, satInc]

/-- A judgement that does not lose the link. -/
theorem judgePoll_kept {s : State} {b : Boom} (h : (s.boom b).link.isLost = false) :
    s.judgePoll b = s.modBoom b fun _ =>
      { s.judgedBoom b with link := { (s.boom b).link.judged with
          state := if (s.boom b).link.goesUp then .up else (s.boom b).link.state } } := by
  cases ho : (s.boom b).link.outstanding with
  | none =>
    have hu : (s.boom b).link.goesUp = false := by simp [HeadLink.goesUp, ho]
    unfold State.judgePoll
    simp only [ho, Option.isSome_none, Bool.false_eq_true, if_false]
    refine (modBoom_self ?_).symm
    simp only [State.judgedBoom, judged_none ho, hu, ho, Option.isSome_none, Bool.false_eq_true, false_and, if_false]
    rw [← ho]
  | some x =>
    obtain ⟨hl, hu⟩ := judged_iff (l := (s.boom b).link) (by simp [ho])
    rw [h] at hl
    rw [judgePoll_eq s b (by simp [ho])]
    unfold State.linkChange
    simp only [boom_modBoom_same, State.modLink, modBoom_modBoom]
    have state : (s.judgedBoom b).link.state = (s.boom b).link.state := rfl
    have link : (s.judgedBoom b).link = (s.boom b).link.judged := rfl
    rw [state, link]
    by_cases hup : (s.boom b).link.state = .up
    · have stays : (s.boom b).link.goesUp = false := by simp [HeadLink.goesUp, hup]
      rw [if_pos hup, if_neg (fun hm => by simpa using hl.1 ⟨hup, hm⟩), stays]
      rfl
    · rw [if_neg hup]
      cases hg : (s.boom b).link.goesUp with
      | true => rw [if_pos (hu.2 hg).2]; rfl
      | false => rw [if_neg fun hm => by simpa [hg] using hu.1 ⟨hup, hm⟩]; rfl

/-! ### The count and the sending (R8, R16) -/

/-- LINK_QUALITY of a complete block (R154, R159). -/
theorem linkQuality_takeBlock (t : WearTable) (errors : Nat) :
    t.takeBlock errors = { t with linkQuality := t.linkQuality.evaluate errors (253 - min 252 (4 * errors)) } := rfl

theorem statesDiffer_linkQuality (t : WearTable) (a : Attr) :
    t.statesDiffer { t with linkQuality := a } = (t.linkQuality.crossed != a.crossed) := by
  simp [WearTable.statesDiffer]

theorem modWear_self {s : State} {b : Boom} {f : WearTable → WearTable} (h : f (s.boom b).wear = (s.boom b).wear) :
    s.modWear b f = s := by
  unfold State.modWear
  have hs : (s.modBoom b fun u => { u with wear := f u.wear }) = s := modBoom_self (by rw [h])
  simp [h, hs, WearTable.statesDiffer]

theorem modWear_congr {s : State} {b : Boom} {f g : WearTable → WearTable} (h : f (s.boom b).wear = g (s.boom b).wear) :
    s.modWear b f = s.modWear b g := by
  have hm : (s.modBoom b fun u => { u with wear := f u.wear }) = s.modBoom b fun u => { u with wear := g u.wear } :=
    modBoom_congr (by rw [h])
  unfold State.modWear
  simp only [h, hm]

/-- The link with its poll counted in its block. -/
def HeadLink.countedPoll (l : HeadLink) : HeadLink :=
  { l with
    blockPolls := if decide (1023 ≤ l.blockPolls) then 0 else l.blockPolls + 1
    blockErrors := if decide (1023 ≤ l.blockPolls) then 0 else l.blockErrors
    lastBlockErrors := if decide (1023 ≤ l.blockPolls) then l.blockErrors else l.lastBlockErrors }

theorem countPoll_eq (s : State) (b : Boom) :
    s.countPoll b = (s.modLink b HeadLink.countedPoll).modWear b fun t => { t with linkQuality := s.qualityAfter b } := by
  unfold State.countPoll State.qualityAfter
  simp only []
  by_cases h : 1023 ≤ (s.boom b).link.blockPolls
  · have h' : ¬(s.boom b).link.blockPolls + 1 < 1024 := by omega
    have counted : (s.modLink b HeadLink.countedPoll) =
        s.modLink b fun l => { l with blockPolls := 0, blockErrors := 0, lastBlockErrors := l.blockErrors } :=
      modBoom_congr (by simp [HeadLink.countedPoll, h])
    rw [if_neg h', if_pos h, counted]
    exact modWear_congr (by simp [linkQuality_takeBlock, Attr.evaluate])
  · have h' : (s.boom b).link.blockPolls + 1 < 1024 := by omega
    have counted : (s.modLink b HeadLink.countedPoll) = s.modLink b fun l => { l with blockPolls := l.blockPolls + 1 } :=
      modBoom_congr (by simp [HeadLink.countedPoll, h])
    rw [if_pos h', if_neg h, counted, modWear_self (by simp)]

/-- The setpoint frame with its check bytes: the sequence, the stage code, the grant and the two bits that the link stands at (R2, R8). -/
def setpointBytes (address : Nat) (seq : Byte) (stage grant : Nat) (latch hold : Bool) : List Byte :=
  let body : List Byte :=
    [BitVec.ofNat 8 address, 0x01, seq, BitVec.ofNat 8 stage] ++ bytesLE 2 grant ++ [BitVec.ofNat 8 (latch.toNat + 2 * hold.toNat)]
  body ++ bytesOfBits (checkBits (body.flatMap bitsLsb))

theorem sendPoll_eq (s : State) (b : Boom) : s.sendPoll b = s.modLink b fun l =>
    { l with
      pollSeq := l.pollSeq + 1, outstanding := some (l.pollSeq + 1), answered := false, pollTimer := 0
      sent := some (setpointBytes (s.calib b).headAddress (l.pollSeq + 1) (s.setpointStage b) (boomGrant s.arbiter.demands b)
        l.stopLatch l.holdOff) } := by
  unfold State.sendPoll
  simp only [State.modLink, modBoom_modBoom]
  refine modBoom_congr ?_
  have calib (f : BoomUnit → BoomUnit) : (s.modBoom b f).calib b = s.calib b := by cases b <;> rfl
  simp [State.setpointFrame, setpointBytes, calib, State.setpointStage]

/-- Behind the judgement an expiry counts the poll and sends. -/
def State.closePoll (s : State) (b : Boom) : State := (s.countPoll b).sendPoll b

theorem expirePoll_eq (s : State) (b : Boom) : s.expirePoll b = (s.judgePoll b).closePoll b := rfl

theorem boom_closePoll (s : State) (b : Boom) : (s.closePoll b).boom b =
    { s.boom b with
      link := { (s.boom b).link.countedPoll with
        pollSeq := (s.boom b).link.pollSeq + 1, outstanding := some ((s.boom b).link.pollSeq + 1), answered := false, pollTimer := 0
        sent := some (setpointBytes (s.calib b).headAddress ((s.boom b).link.pollSeq + 1) (s.setpointStage b)
          (boomGrant s.arbiter.demands b) (s.boom b).link.stopLatch (s.boom b).link.holdOff) }
      wear := { (s.boom b).wear with linkQuality := s.qualityAfter b } } := by
  have hc : (s.countPoll b).calib b = s.calib b := by rw [countPoll_eq]; exact calib_of_backdrop (by simp) b
  have ha : (s.countPoll b).arbiter = s.arbiter := by rw [countPoll_eq]; simp
  have hb : (s.countPoll b).boom b = { s.boom b with
      link := (s.boom b).link.countedPoll, wear := { (s.boom b).wear with linkQuality := s.qualityAfter b } } := by
    rw [countPoll_eq]; simp
  have hst : (s.countPoll b).setpointStage b = s.setpointStage b := by simp [State.setpointStage, hb, HeadLink.countedPoll]
  rw [State.closePoll, sendPoll_eq, boom_modLink_same, hc, ha, hst, hb]
  rfl

theorem boom_closePoll_other {s : State} {b c : Boom} (h : c ≠ b) : (s.closePoll b).boom c = s.boom c := by
  rw [State.closePoll, sendPoll_eq, boom_modLink_other _ h, countPoll_eq, boom_modWear_other _ h, boom_modLink_other _ h]

/-- The count and the sending move one boom's link and LINK_QUALITY, and WEAR on a turn. -/
theorem closePoll_keeps (s : State) (b : Boom) :
    (s.closePoll b).backdrop = s.backdrop ∧ (s.closePoll b).monitor = s.monitor ∧ (s.closePoll b).rowMap = s.rowMap ∧
      (s.closePoll b).arbiter = s.arbiter ∧ (s.closePoll b).holeLog = s.holeLog ∧ (s.closePoll b).faultLog = s.faultLog := by
  rw [State.closePoll, sendPoll_eq, countPoll_eq]
  simp

/-- LINK_QUALITY crosses or recovers at the expiry. -/
def State.qualityTurned (s : State) (b : Boom) : Bool := (s.boom b).wear.linkQuality.crossed != (s.qualityAfter b).crossed

theorem qualityTurned_iff (s : State) (b : Boom) : s.qualityTurned b = true ↔ s.qualityTurns b := by
  rw [State.qualityTurned, bne_iff_ne]
  exact ne_comm

theorem flagged_closePoll (s : State) (b : Boom) : s.flagged (s.closePoll b) (s.wearFlag b (s.qualityTurned b)) := by
  have h := flagged_modWear (s.modLink b HeadLink.countedPoll) b fun t => { t with linkQuality := s.qualityAfter b }
  rw [boom_modLink_same, statesDiffer_linkQuality, wearFlag_congr (s := s) (by simp)] at h
  rw [State.closePoll, sendPoll_eq, countPoll_eq]
  exact .before (.after (fun p => by simp) h) fun p => by simp

theorem qualityAfter_congr {s t : State} {b : Boom} (hp : (t.boom b).link.blockPolls = (s.boom b).link.blockPolls)
    (he : (t.boom b).link.blockErrors = (s.boom b).link.blockErrors) (hw : (t.boom b).wear.linkQuality = (s.boom b).wear.linkQuality) :
    t.qualityAfter b = s.qualityAfter b := by
  simp only [State.qualityAfter, hp, he, hw]

/-- The link as an expiry leaves it, from the judged link. -/
theorem link_closePoll {s t : State} {b : Boom} {state : LinkState} {latch : Bool}
    (hl : (t.boom b).link = { (s.boom b).link.judged with state, stopLatch := latch }) (hb : t.backdrop = s.backdrop) :
    ((t.closePoll b).boom b).link = s.expired b state latch (t.setpointStage b) (boomGrant t.arbiter.demands b) := by
  rw [boom_closePoll, hl, calib_of_backdrop hb]
  rfl

/-- WEAR as a turn of the boom's attributes sets it, seen from the flags. -/
theorem wearFlags_of {s t : State} {b : Boom} {f : Port → Causes} {turned : Bool} (h : s.flagged t f)
    (hb : (f b.port).c6 = (s.enabled b && turned)) (hm : (f .machine).c7 = turned) : s.wearFlags t b (turned = true) := by
  have machine : t.portMachine.causes = s.portMachine.causes.join (f .machine) := h.causes .machine
  refine ⟨?_, ?_⟩
  · rw [h.causes b.port]; simp [Causes.join, hb]
  · rw [machine]; simp [Causes.join, hm]

theorem wearFlag_eq (s : State) (b : Boom) (on : Bool) (p : Port) : s.wearFlag b on p =
    { Causes.clear with c6 := decide (p = b.port) && s.enabled b && on, c7 := decide (p = .machine) && on } := by
  unfold State.wearFlag State.boomFlag machineFlag
  cases on <;> cases s.enabled b <;> cases b <;> cases p <;> rfl

/-- An expiry that loses no link is the expiry of `State.expires`. -/
theorem expires_of_kept {s : State} {b : Boom} (h : (s.boom b).link.isLost = false) :
    s.expires (s.expirePoll b) b (s.expired b (if (s.boom b).link.goesUp then .up else (s.boom b).link.state) (s.boom b).link.stopLatch
      (if (if (s.boom b).link.goesUp then .up else (s.boom b).link.state) = .up ∧ (s.boom b).link.stopLatch = false ∧
        (s.boom b).ctl.run = some .running then stageCode (s.boom b).ctl.state else 0) (boomGrant s.arbiter.demands b)) := by
  rw [expirePoll_eq, judgePoll_kept h]
  generalize hs1 : (s.modBoom b fun _ => { s.judgedBoom b with link := { (s.boom b).link.judged with
      state := if (s.boom b).link.goesUp then LinkState.up else (s.boom b).link.state } }) = s1
  have back : s1.backdrop = s.backdrop := by subst hs1; simp
  have boom1 : s1.boom b = { s.judgedBoom b with link := { (s.boom b).link.judged with
      state := if (s.boom b).link.goesUp then LinkState.up else (s.boom b).link.state } } := by subst hs1; simp
  have ports (p : Port) : s1.port p = s.port p := by subst hs1; simp
  have quality : s1.qualityAfter b = s.qualityAfter b := qualityAfter_congr (by rw [boom1]; rfl) (by rw [boom1]; rfl) (by rw [boom1]; rfl)
  have turned : s1.qualityTurned b = s.qualityTurned b := by simp only [State.qualityTurned, quality, boom1]; rfl
  have link := link_closePoll (s := s) (t := s1) (state := if (s.boom b).link.goesUp then LinkState.up else (s.boom b).link.state)
    (latch := (s.boom b).link.stopLatch) (by rw [boom1]; rfl) back
  have flags := State.flagged.after ports (flagged_closePoll s1 b)
  rw [turned, wearFlag_congr (straps_of_backdrop back)] at flags
  obtain ⟨kback, kmon, krow, karb, khole, kfault⟩ := closePoll_keeps s1 b
  have arb : s1.arbiter = s.arbiter := by subst hs1; simp
  have stage : s1.setpointStage b = if (if (s.boom b).link.goesUp then .up else (s.boom b).link.state) = .up ∧
      (s.boom b).link.stopLatch = false ∧ (s.boom b).ctl.run = some .running then stageCode (s.boom b).ctl.state else 0 := by
    simp only [State.setpointStage, boom1]; rfl
  rw [stage, arb] at link
  refine ⟨kback.trans back, kmon.trans (by subst hs1; simp), krow.trans (by subst hs1; simp), karb.trans arb,
    khole.trans (by subst hs1; simp), kfault.trans (by subst hs1; simp), ?_, ?_, ?_, ?_, ?_, ?_⟩
  · rw [boom_closePoll_other (otherBoom_ne b)]; subst hs1; rw [boom_modBoom_other _ (otherBoom_ne b)]
  · rw [← link, boom_closePoll, quality, boom1]; rfl
  · have := wearFlags_of (b := b) (turned := s.qualityTurned b) flags (by simp [wearFlag_eq]) (by simp [wearFlag_eq])
    simpa only [State.wearFlags, qualityTurned_iff] using this
  · have machine : (s1.closePoll b).portMachine.causes = s.portMachine.causes.join (s.wearFlag b (s.qualityTurned b) .machine) :=
      flags.causes .machine
    rw [machine]
    cases b <;> simp [Causes.join, wearFlag_eq, Causes.clear, Boom.port]
  · rw [flags.causes b.port]
    cases b <;> simp [Causes.join, wearFlag_eq, Causes.clear, Boom.port]
  · rw [flags.causes (otherBoom b).port]
    cases b <;> simp [wearFlag_eq, Causes.clear, Boom.port, otherBoom, Causes.join]


/-- Settles O22: the expiry is one that loses no link, and leaves it UP. -/
theorem theFourthAnsweredPollMakesTheLinkUp : Obligations.TheFourthAnsweredPollMakesTheLinkUp := by
  unfold Obligations.TheFourthAnsweredPollMakesTheLinkUp
  intro b s running due outstanding answered down run u
  have goes : (s.boom b).link.goesUp = true := (HeadLink.goesUp_iff _).2 ⟨outstanding, answered, down, run⟩
  have pollDue : (s.boom b).link.pollDue = true := (HeadLink.pollDue_iff _).2 ⟨running, due⟩
  have kept := expires_of_kept (s := s) (b := b) (by simp [HeadLink.isLost, answered])
  have limit : 4 ≤ satInc 255 (s.boom b).link.answeredRun := by unfold satInc; omega
  refine ⟨s.expirePoll b, ?_, ?_, fun hb => ?_, ?_⟩
  · simp [exec, execLinkUp, HeadLink.upDue, pollDue, outstanding, answered, down, limit]
  · simp [exec, execPollExpiry, pollDue]
  · simp only [exec, execQualityBlockEnd, HeadLink.blockDue, pollDue]
    rw [if_pos (by simp; omega)]
  · simpa only [goes, if_true, true_and] using kept

/-! ### What goes out on the line (R1) -/

/-- Bits without six 1s in a row. -/
def NoSix (bits : List Bool) : Prop := ¬List.replicate 6 true <:+: bits

theorem noSix_cons_false {bits : List Bool} (h : NoSix bits) : ∀ k, k ≤ 5 → NoSix (List.replicate k true ++ false :: bits)
  | 0, _ => fun hi => by
    rcases List.infix_cons_iff.1 hi with hp | hp
    · obtain ⟨r, hr⟩ := hp; cases hr
    · exact h hp
  | k + 1, hk => fun hi => by
    rw [List.replicate_succ (n := k), List.cons_append] at hi
    rcases List.infix_cons_iff.1 hi with ⟨r, hr⟩ | hp
    · have h5 := congrArg (fun l => l[k + 1]?) hr
      have hl : (true :: (List.replicate k true ++ false :: bits))[k + 1]? = some false := by simp
      rw [hl, List.getElem?_append_left (by simp; omega)] at h5
      rw [List.getElem?_replicate, if_pos (by omega)] at h5
      cases h5
    · exact noSix_cons_false h k (by omega) hp

/-- Bit insertion leaves no six 1s in a row, the 1s of the run so far counted. -/
theorem noSix_insertZeros : ∀ (data : List Bool) (k : Nat), k ≤ 4 → NoSix (List.replicate k true ++ insertZeros k data)
  | [], k, hk => fun h => by
    have := h.length_le
    simp [insertZeros] at this
    omega
  | false :: bs, k, hk => noSix_cons_false (by simpa using noSix_insertZeros bs 0 (by omega)) k (by omega)
  | true :: bs, k, hk => by
    unfold insertZeros
    have grow (x : List Bool) : List.replicate k true ++ true :: x = List.replicate (k + 1) true ++ x := by
      rw [List.replicate_succ', List.append_assoc]; rfl
    split
    · rw [grow]
      exact noSix_cons_false (by simpa using noSix_insertZeros bs 0 (by omega)) (k + 1) (by omega)
    · rw [grow]
      exact noSix_insertZeros bs (k + 1) (by omega)

theorem take_drop_of_noSix {bits : List Bool} (h : NoSix bits) (i : Nat) : (bits.drop i).take 6 ≠ List.replicate 6 true := fun he =>
  h (he ▸ (List.take_prefix 6 _).isInfix.trans (List.drop_suffix i bits).isInfix)

/-- The bits of a frame, byte by byte, each least significant bit first. -/
theorem range_map_bits : ∀ frame : List Byte,
    (List.range (8 * frame.length)).map (fun i => (frame.getD (i / 8) 0).getLsbD (i % 8)) = frame.flatMap bitsLsb
  | [] => rfl
  | x :: frame => by
    have h := range_map_bits frame
    rw [List.flatMap_cons, ← h, List.length_cons, show 8 * (frame.length + 1) = 8 + 8 * frame.length by omega, List.range_add,
      List.map_append, List.map_map]
    congr 1
    refine List.map_congr_left fun i _ => ?_
    simp [show (8 + i) / 8 = i / 8 + 1 by omega, show (8 + i) % 8 = i % 8 by omega]

theorem length_bytesLE : ∀ k n, (bytesLE k n).length = k
  | 0, _ => rfl
  | k + 1, n => by simp [bytesLE, length_bytesLE k]

theorem length_setpointBytes (address : Nat) (seq : Byte) (stage grant : Nat) (latch hold : Bool) :
    (setpointBytes address seq stage grant latch hold).length = 9 := by
  simp [setpointBytes, length_bytesOfBits_checkBits, length_bytesLE]

/-- Settles O21: the expiry is one that changes no link state, and what it sends goes out as `State.drives_of_running` says. -/
theorem anExpiryJudgesAdvancesAndSends : Obligations.AnExpiryJudgesAdvancesAndSends := by
  unfold Obligations.AnExpiryJudgesAdvancesAndSends
  intro b s running due block kept l body frame data
  have pollDue : (s.boom b).link.pollDue = true := (HeadLink.pollDue_iff _).2 ⟨running, due⟩
  have notLost : (s.boom b).link.isLost = false := by
    rw [Bool.eq_false_iff, ne_eq, HeadLink.isLost_iff]
    rintro ⟨ho, ha, hu, hm⟩
    rcases kept with hk | ⟨hk, -⟩ | ⟨-, hk | hk⟩
    · simp [hk] at ho
    · simp [hk] at ha
    · exact hk hu
    · omega
  have notUp : (s.boom b).link.goesUp = false := by
    rw [Bool.eq_false_iff, ne_eq, HeadLink.goesUp_iff]
    rintro ⟨ho, ha, hu, hm⟩
    rcases kept with hk | ⟨-, hk | hk⟩ | ⟨hk, -⟩
    · simp [hk] at ho
    · exact hu hk
    · omega
    · simp [hk] at ha
  have hframe : frame = setpointBytes (s.calib b).headAddress (l.pollSeq + 1)
      (if l.state = .up ∧ l.stopLatch = false ∧ (s.boom b).ctl.run = some .running then stageCode (s.boom b).ctl.state else 0)
      (boomGrant s.arbiter.demands b) l.stopLatch l.holdOff := rfl
  have hlen : frame.length = 9 := by rw [hframe]; exact length_setpointBytes _ _ _ _ _ _
  have hdata : data = frame.flatMap bitsLsb := by
    have h := range_map_bits frame
    rw [hlen] at h
    exact h
  have hdlen : data.length = 72 := by simp [data]
  have state : s.expirePoll b = (s.modLink b fun l => { l with
        answeredRun := if l.outstanding = none then l.answeredRun else if l.answered then min 255 (l.answeredRun + 1) else 0
        missedRun := if l.outstanding = none then l.missedRun else if l.answered then 0 else min 255 (l.missedRun + 1)
        blockPolls := l.blockPolls + 1
        pollSeq := l.pollSeq + 1
        outstanding := some (l.pollSeq + 1)
        answered := false
        pollTimer := 0
        sent := some frame }).modTracker b fun t =>
      { t with
        slice := if (s.boom b).link.outstanding.isSome = true ∧ (s.boom b).link.answered = false then s.sliceMissed b else t.slice } := by
    rw [expirePoll_eq, judgePoll_kept notLost, notUp, State.closePoll, State.countPoll]
    have few : (s.boom b).link.judged.blockPolls + 1 < 1024 := by
      have : (s.boom b).link.judged.blockPolls = (s.boom b).link.blockPolls := rfl
      omega
    have calib (f : BoomUnit → BoomUnit) : (s.modBoom b f).calib b = s.calib b := by cases b <;> rfl
    simp only [boom_modBoom_same]
    rw [if_pos few, sendPoll_eq]
    simp only [State.modLink, State.modTracker, modBoom_modBoom]
    refine modBoom_congr ?_
    simp only [calib, arbiter_modBoom, State.setpointStage, boom_modBoom_same]
    rfl
  refine ⟨s.expirePoll b, by simp [exec, execPollExpiry, pollDue], ?_, scanLine_frame data, fun i _ => ?_, ?_, state⟩
  · have sent : ((s.expirePoll b).boom b).link.running = true ∧ ((s.expirePoll b).boom b).link.sent = some frame := by
      rw [state]; simp [running]
    have h := State.drives_of_running sent.1
    rw [sent.2] at h
    rw [hdata]
    exact h
  · exact take_drop_of_noSix (by simpa using noSix_insertZeros data 0 (by omega)) i
  · have := length_insertZeros_le data 0 (by omega)
    omega

end Sys2Proof.Machine

/-! ## The end of a stage, with the flags that it raises -/
namespace Sys2Proof.Machine

/-! ### Flags -/

/-- FLOW on the ports where `on` says so. -/
def flowOn (on : Port → Bool) (p : Port) : Causes := { Causes.clear with c4 := on p }

theorem flagged_flow {s t : State} {f : Port → Causes} (h : s.flagged t f) (hf : ∀ p, f p = { Causes.clear with c4 := (f p).c4 }) :
    ∃ on, s.flagged t (flowOn on) := ⟨fun p => (f p).c4, fun p => by rw [h p, flowOn, ← hf p]⟩

theorem boomFlag_flow (s : State) (b : Boom) (on : Bool) (p : Port) :
    s.boomFlag b .flow on p = { Causes.clear with c4 := (s.boomFlag b .flow on p).c4 } := by
  unfold State.boomFlag; split <;> rfl

theorem machineFlag_flow (on : Bool) (p : Port) : machineFlag .flow on p = { Causes.clear with c4 := (machineFlag .flow on p).c4 } := by
  unfold machineFlag; split <;> rfl

theorem bothFlags_flow {f g : Port → Causes} (hf : ∀ p, f p = { Causes.clear with c4 := (f p).c4 })
    (hg : ∀ p, g p = { Causes.clear with c4 := (g p).c4 }) (p : Port) :
    bothFlags f g p = { Causes.clear with c4 := (bothFlags f g p).c4 } := by
  unfold bothFlags
  rw [hf p, hg p]
  simp [Causes.join, Causes.clear]

theorem flagged_handGrant (s : State) (b : Boom) (old new : List Demand) :
    s.flagged (s.handGrant b old new) (s.boomFlag b .flow (grantsChanged old new b.port)) := by
  unfold State.handGrant
  cases grantsChanged old new b.port with
  | false => rw [boomFlag_false]; exact .refl s
  | true =>
    simp only [if_true]
    split
    · exact (flagged_raise s b .flow).before fun p => port_applyGrant _ b _ p
    · exact flagged_raise s b .flow

/-- An allocation raises FLOW and nothing else. -/
theorem flagged_reallocate (s : State) (old : List Demand) : ∃ on, s.flagged (s.reallocate old) (flowOn on) := by
  let new := allocate s.arbiter.qAvail s.arbiter.demands
  let s1 : State := { s with arbiter := { s.arbiter with demands := new } }
  have h1 (p : Port) : s1.port p = s.port p := by cases p <;> rfl
  have handed := State.flagged.after h1 ((flagged_handGrant s1 .left old new).trans (flagged_handGrant _ .right old new))
  have flow := bothFlags_flow (boomFlag_flow s1 .left (grantsChanged old new Boom.left.port))
    (boomFlag_flow (s1.handGrant .left old new) .right (grantsChanged old new Boom.right.port))
  unfold State.reallocate
  simp only []
  split
  · exact flagged_flow (handed.trans (flagged_raiseMachine _ .flow)) (bothFlags_flow flow (machineFlag_flow true))
  · exact flagged_flow handed flow

theorem flagged_depart (s : State) (sel : Demand → Bool) : ∃ on, s.flagged (s.depart sel) (flowOn on) := by
  unfold State.depart
  simp only []
  split
  · obtain ⟨on, h⟩ := flagged_reallocate
      { s with arbiter := { s.arbiter with demands := s.arbiter.demands.filter fun d => !sel d } } s.arbiter.demands
    exact ⟨on, .after (fun p => by cases p <;> rfl) h⟩
  · refine ⟨fun _ => false, fun p => ?_⟩
    have none' : flowOn (fun _ => false) p = Causes.clear := rfl
    rw [none', Causes.join_clear]

/-- The machine port's flags of a close, and WEAR (R102, R126, R129, R160). -/
def State.closeFlag (s : State) (b : Boom) (owes ready turned : Bool) : Port → Causes :=
  bothFlags (bothFlags (machineFlag .supportDemand owes) (machineFlag .rowReady ready)) (s.wearFlag b turned)

theorem machineFlag_false (c : MachineCause) : machineFlag c false = noFlag := by
  funext p; simp [machineFlag, noFlag]

theorem closeFlag_none (s : State) (b : Boom) : s.closeFlag b false false false = noFlag := by
  funext p; simp [State.closeFlag, bothFlags, machineFlag_false, wearFlag_false, noFlag]

theorem flagged_raiseReady (s : State) : s.flagged s.raiseReady (machineFlag .rowReady s.rowMap.ready) := by
  unfold State.raiseReady
  cases s.rowMap.ready with
  | true => exact flagged_raiseMachine s .rowReady
  | false => rw [machineFlag_false]; exact .refl s

theorem flagged_closeSlot (s : State) (b : Boom) (g : Grade) :
    ∃ owes ready, s.flagged (s.closeSlot b g) (bothFlags (machineFlag .supportDemand owes) (machineFlag .rowReady ready)) := by
  have rowed (s : State) (m : RowMap) (p : Port) : ({ s with rowMap := m } : State).port p = s.port p := by cases p <;> rfl
  unfold State.closeSlot
  split
  · refine ⟨false, false, ?_⟩
    rw [machineFlag_false, machineFlag_false]
    exact (State.flagged.refl s).trans (.refl s)
  · rename_i sl _
    simp only []
    split
    · refine ⟨true, _, State.flagged.trans ?_ (flagged_raiseReady _)⟩
      exact .after (rowed s _) (flagged_raiseMachine _ .supportDemand)
    · refine ⟨false, _, State.flagged.trans (t := { s with rowMap := s.rowMap.release b g }) ?_ (flagged_raiseReady _)⟩
      rw [machineFlag_false]
      exact .of_ports (rowed s _)

theorem flagged_closeHole (s : State) (b : Boom) (how : CloseKind) (st : BoomState) (f : Option FaultCode) :
    ∃ owes ready turned, s.flagged (s.closeHole b how st f) (s.closeFlag b owes ready turned) := by
  unfold State.closeHole
  split
  · refine ⟨false, false, false, ?_⟩
    rw [closeFlag_none]
    exact .of_ports fun p => by simp
  · simp only []
    rename_i h _
    obtain ⟨owes, ready, closed⟩ := flagged_closeSlot { s with holeLog := s.holeLog.archive (completeRecord h (s.boom b).anchorage
      (gradeOf how st h (s.boom b).anchorage) s.millis) } b (gradeOf how st h (s.boom b).anchorage)
    have worn := flagged_modWear (State.closeSlot { s with holeLog := s.holeLog.archive (completeRecord h (s.boom b).anchorage
      (gradeOf how st h (s.boom b).anchorage) s.millis) } b (gradeOf how st h (s.boom b).anchorage)) b
        fun t => t.addOutcome { grade := gradeOf how st h (s.boom b).anchorage, fault := f }
    rw [wearFlag_congr (s := s) (straps_of_backdrop (by simp))] at worn
    refine ⟨owes, ready, _, ((State.flagged.after (fun p => ?_) (closed.trans worn)).before fun p => ?_)⟩
    · cases p <;> rfl
    · simp

/-- Step 5 of a stage's end: STAGE_END, and STAGE_FAULT for a fault. -/
def State.reportFlag (s : State) (b : Boom) (e : StageEnd) : Port → Causes :=
  bothFlags (s.boomFlag b .stageEnd true) (s.boomFlag b .stageFault (match e with | .fault _ => true | _ => false))

theorem flagged_stageReported (s : State) (b : Boom) (e : StageEnd) (x : Option Nat) (st : BoomState × Option RunCondition) :
    s.flagged (s.stageReported b e x st) (s.reportFlag b e) := by
  have ended := flagged_raise s b .stageEnd
  have only : s.flagged (s.raise b .stageEnd) (bothFlags (s.boomFlag b .stageEnd true) (s.boomFlag b .stageFault false)) := by
    rw [boomFlag_false]; exact ended.trans (.refl _)
  cases e with
  | fault f =>
    have faulted := flagged_raise (s.raise b .stageEnd) b .stageFault
    rw [boomFlag_congr (s := s) (by simp)] at faulted
    exact (ended.trans faulted).before fun p => by cases p <;> rfl
  | success | stop | abandon | resetAbort => exact only

/-- A slice settles where a stage cuts ground (R30). -/
theorem settledNow_eq (s : State) (b : Boom) :
    s.settledNow b = if (s.boom b).ctl.state.cutsGround = true then (s.boom b).tracker.remnant else [] := by
  unfold State.settledNow DepthTracker.remnant
  simp only [← cutsGround_iff]
  rfl

theorem flagged_settleSlice (s : State) (b : Boom) : s.flagged (s.settleSlice b) (s.slicesFlag b (s.boom b).tracker.remnant) := by
  rw [settleSlice_eq]
  exact (flagged_handSlices b _ s).before fun p => by simp

theorem slicesFlag_nil (s : State) (b : Boom) : s.slicesFlag b [] = noFlag := by
  funext p; simp [State.slicesFlag, State.anyHanded, boomFlag_false, wearFlag_false, bothFlags, noFlag]

theorem flagged_settleStage (s : State) (b : Boom) {e : StageEnd} (he : e ≠ .resetAbort) :
    s.flagged (s.settleStage b (s.boom b).ctl.state e) (s.slicesFlag b (s.settledNow b)) := by
  rw [settledNow_eq]
  by_cases hc : (s.boom b).ctl.state.cutsGround = true
  · rw [if_pos hc]
    have settled := flagged_settleSlice s b
    unfold State.settleStage
    rw [if_neg he]
    rcases (cutsGround_iff _).1 hc with h | h
    · rw [if_pos h]; exact settled
    · rw [h, if_neg (by simp), if_pos rfl]
      exact settled.before fun p => by simp [State.evaluatePlan]
  · rw [if_neg hc, slicesFlag_nil, settleStage_id s b (by simpa using hc)]
    exact .refl s

theorem flagged_afterStage (s : State) (b : Boom) (st : BoomState) (e : StageEnd) :
    ∃ owes ready turned, s.flagged (s.afterStage b st e) (s.closeFlag b owes ready turned) ∧
      ∀ w, destination st (s.boom b).tracker.contactSeen e = .wait w → owes = false ∧ ready = false ∧ turned = false := by
  unfold State.afterStage
  split
  · refine ⟨false, false, false, ?_, fun _ _ => ⟨rfl, rfl, rfl⟩⟩
    rw [closeFlag_none]
    exact .of_ports fun p => by simp
  · rename_i how hd
    have closes (t : State) (hp : ∀ p, t.port p = s.port p) (hs : t.straps = s.straps) :
        ∃ owes ready turned, s.flagged (t.closeHole b how st e.code) (s.closeFlag b owes ready turned) ∧
          ∀ w, Destination.closes how = .wait w → owes = false ∧ ready = false ∧ turned = false := by
      obtain ⟨x, y, z, h⟩ := flagged_closeHole t b how st e.code
      refine ⟨x, y, z, ?_, fun _ h => nomatch h⟩
      have same : t.closeFlag b x y z = s.closeFlag b x y z := by simp only [State.closeFlag, wearFlag_congr hs]
      rw [← same]
      exact .after hp h
    simp only []
    rw [hd]
    split
    · split
      · exact closes _ (fun p => by simp) (by simp)
      · exact closes _ (fun p => rfl) rfl
    · exact closes _ (fun p => rfl) rfl

/-- The strata, the slice and the depths as step 3 of a stage's end finds them. -/
theorem stageCut_boom (s : State) (b : Boom) (e : StageEnd) :
    ((s.stageCut b e).boom b).strata = (s.boom b).strata ∧ ((s.stageCut b e).boom b).tracker = (s.boom b).tracker ∧
      ((s.stageCut b e).boom b).ctl.state = (s.boom b).ctl.state ∧ ((s.stageCut b e).boom b).anchorage = (s.boom b).anchorage := by
  rw [boom_stageCut]
  exact ⟨rfl, rfl, rfl, rfl⟩

theorem settledNow_congr {s t : State} {b : Boom} (hs : (t.boom b).ctl.state = (s.boom b).ctl.state)
    (ht : (t.boom b).tracker = (s.boom b).tracker) : t.settledNow b = s.settledNow b := by
  rw [settledNow_eq, settledNow_eq, hs, ht]

theorem handed_congr {s t : State} {b : Boom} (hb : t.backdrop = s.backdrop) (hs : (t.boom b).strata = (s.boom b).strata)
    (cs : List ClosedSlice) : t.handed b cs = s.handed b cs := by
  rw [handed_eq, handed_eq, handOne_congr hb, hs]

theorem slicesFlag_congr {s t : State} {b : Boom} (hb : t.backdrop = s.backdrop) (hs : (t.boom b).strata = (s.boom b).strata)
    (cs : List ClosedSlice) : t.slicesFlag b cs = s.slicesFlag b cs := by
  obtain ⟨-, hl, ht⟩ := acts_congr hb b
  simp only [State.slicesFlag, hl, ht, anyHanded_congr hb, hs, boomFlag_congr (straps_of_backdrop hb),
    wearFlag_congr (straps_of_backdrop hb)]

/-- Behind the withdrawal the end of a stage raises LAYER and WEAR for the slices, what a close raises, and what is reported. -/
theorem flagged_behindCut (s : State) (b : Boom) {e : StageEnd} (he : e ≠ .resetAbort) (x : Option Nat)
    (st : BoomState × Option RunCondition) :
    ∃ owes ready turned, (s.stageCut b e).flagged (s.endStage b e x st)
        (bothFlags (bothFlags (s.slicesFlag b (s.settledNow b)) (s.closeFlag b owes ready turned)) (s.reportFlag b e)) ∧
      ∀ w, destination (s.boom b).ctl.state (s.boom b).tracker.contactSeen e = .wait w → owes = false ∧ ready = false ∧ turned = false := by
  obtain ⟨hback, -, -, -, -⟩ := stageCut_keeps s b e
  obtain ⟨hstrata, htr, hst, -⟩ := stageCut_boom s b e
  have settled := flagged_settleStage (s.stageCut b e) b he
  rw [slicesFlag_congr hback hstrata, settledNow_congr hst htr, hst] at settled
  obtain ⟨owes, ready, turned, after, wait⟩ := flagged_afterStage ((s.stageCut b e).settleStage b (s.boom b).ctl.state e) b
    (s.boom b).ctl.state e
  have hs1 : ((s.stageCut b e).settleStage b (s.boom b).ctl.state e).straps = s.straps := straps_of_backdrop (by simp [hback])
  have hseen : (((s.stageCut b e).settleStage b (s.boom b).ctl.state e).boom b).tracker.contactSeen = (s.boom b).tracker.contactSeen := by
    rw [contactSeen_core (core_settleStage _ b _ e), htr]
  have hclose : State.closeFlag ((s.stageCut b e).settleStage b (s.boom b).ctl.state e) b owes ready turned =
      s.closeFlag b owes ready turned := by simp only [State.closeFlag, wearFlag_congr hs1]
  have hs2 : (((s.stageCut b e).settleStage b (s.boom b).ctl.state e).afterStage b (s.boom b).ctl.state e).straps = s.straps :=
    straps_of_backdrop (by simp [hback])
  have reported := flagged_stageReported (((s.stageCut b e).settleStage b (s.boom b).ctl.state e).afterStage b (s.boom b).ctl.state e)
    b e x st
  have hreport : State.reportFlag (((s.stageCut b e).settleStage b (s.boom b).ctl.state e).afterStage b (s.boom b).ctl.state e) b e =
      s.reportFlag b e := by simp only [State.reportFlag, boomFlag_congr hs2]
  rw [hclose] at after
  rw [hreport] at reported
  rw [hseen] at wait
  refine ⟨owes, ready, turned, ?_, wait⟩
  rw [endStage_eq]
  exact (settled.trans after).trans reported

theorem flagged_stageCut (s : State) (b : Boom) (e : StageEnd) : ∃ on, s.flagged (s.stageCut b e) (flowOn on) := by
  have cut (t : State) (ht : ∀ p, t.port p = s.port p) :
      ∃ on, s.flagged (if e = .success then t.withdraw b else (t.withdraw b).modLink b fun l => { l with stopLatch := true })
        (flowOn on) := by
    obtain ⟨on, h⟩ := flagged_depart t fun d => d.owner == b.port
    refine ⟨on, ?_⟩
    split
    · exact .after ht h
    · exact (State.flagged.after ht h).before fun p => by simp [State.withdraw]
  unfold State.stageCut
  cases e.code with
  | none => exact cut s fun _ => rfl
  | some f => exact cut (s.markFault b f) fun p => port_modHole s b p _

theorem demands_stageCut (s : State) (b : Boom) (e : StageEnd) :
    ∃ t : State, t.backdrop = s.backdrop ∧ t.arbiter = s.arbiter ∧ (∀ p, t.port p = s.port p) ∧
      (s.stageCut b e).arbiter = (t.withdraw b).arbiter ∧ ∀ p, (s.stageCut b e).port p = (t.withdraw b).port p := by
  unfold State.stageCut
  cases e.code with
  | none => exact ⟨s, rfl, rfl, fun _ => rfl, by by_cases he : e = .success <;> simp [he],
      fun p => by by_cases he : e = .success <;> simp [he]⟩
  | some f =>
    exact ⟨s.markFault b f, by simp, by simp, fun p => port_modHole s b p _, by by_cases he : e = .success <;> simp [he],
      fun p => by by_cases he : e = .success <;> simp [he]⟩

/-- The flags behind the withdrawal, by cause: none is FLOW. -/
theorem flow_behindCut (s : State) (b : Boom) (e : StageEnd) (cs : List ClosedSlice) (owes ready turned : Bool) (p : Port) :
    (bothFlags (bothFlags (s.slicesFlag b cs) (s.closeFlag b owes ready turned)) (s.reportFlag b e) p).c4 = false := by
  have boom (c : BoomCause) (on : Bool) (hc : c ≠ .flow) : (s.boomFlag b c on p).c4 = false := by
    unfold State.boomFlag; split
    · cases c <;> simp_all [Causes.put, BoomCause.code, Causes.clear]
    · rfl
  have machine (c : MachineCause) (on : Bool) (hc : c ≠ .flow) : (machineFlag c on p).c4 = false := by
    unfold machineFlag; split
    · cases c <;> simp_all [Causes.put, MachineCause.code, Causes.clear]
    · rfl
  simp [bothFlags, Causes.join, State.slicesFlag, State.closeFlag, State.reportFlag, State.wearFlag, boom, machine]

/-- FLOW after the end of a stage is as the withdrawal of its demand asks (R107, R114). -/
theorem flowFlags_endStage (s : State) (b : Boom) {e : StageEnd} (he : e ≠ .resetAbort) (x : Option Nat)
    (st : BoomState × Option RunCondition) : s.flowFlags (s.endStage b e x st) := by
  obtain ⟨owes, ready, turned, flags, -⟩ := flagged_behindCut s b he x st
  obtain ⟨t, hb, ha, hp, harb, hports⟩ := demands_stageCut s b e
  have arb : (s.endStage b e x st).arbiter = (s.stageCut b e).arbiter := by
    rw [arbiter_endStage]; unfold State.stageCut
    cases e.code <;> by_cases he : e = .success <;> simp [he]
  intro p
  have flow : ((s.endStage b e x st).port p).causes.c4 = ((s.stageCut b e).port p).causes.c4 := by
    rw [flags.causes p]
    have := flow_behindCut s b e (s.settledNow b) owes ready turned p
    simp [Causes.join, this]
  have h := flowFlags_depart t (fun d => d.owner == b.port) p
  rw [flow, arb, harb, hports]
  rw [ha, hp, absentPort_congr (straps_of_backdrop hb)] at h
  exact h

end Sys2Proof.Machine

/-! ## A stage lost to a fault of the link or the head (O23, O25) -/
namespace Sys2Proof.Machine

/-! ### The boom as a stage's end leaves it -/

/-- The boom behind step 3 of a stage's end: the open slice settled where the stage cuts ground, and for DRILLING the anchorage. -/
theorem boom_settleStage {s : State} {b : Boom} {e : StageEnd} (he : e ≠ .resetAbort) :
    ((s.settleStage b (s.boom b).ctl.state e).boom b).strata = s.handed b (s.settledNow b) ∧
      ((s.boom b).ctl.state.cutsGround = true → ((s.settleStage b (s.boom b).ctl.state e).boom b).tracker.slice = none ∧
        ((s.settleStage b (s.boom b).ctl.state e).boom b).tracker.stallCount = 0) ∧
      ((s.settleStage b (s.boom b).ctl.state e).boom b).ctl.hole.map HoleRecord.fault = (s.boom b).ctl.hole.map HoleRecord.fault ∧
      ((s.settleStage b (s.boom b).ctl.state e).boom b).anchorage =
        if (s.boom b).ctl.state = .drilling then
          some (evaluate s.params.plan (s.calib b).kt (s.handed b (s.settledNow b)).1.layers (s.boom b).tracker.maxDepth
            (((s.boom b).anchorage.map Anchorage.evaluations).getD 0) e.reason)
        else (s.boom b).anchorage := by
  have kept (full : Bool) : ((s.boom b).ctl.hole.map (HoleRecord.markOverflow full)).map HoleRecord.fault =
      (s.boom b).ctl.hole.map HoleRecord.fault := by cases (s.boom b).ctl.hole <;> rfl
  rw [settledNow_eq]
  by_cases hc : (s.boom b).ctl.state.cutsGround = true
  · rw [if_pos hc]
    have settled := boom_settleSlice s b
    have hb : (s.settleSlice b).backdrop = s.backdrop := by simp
    unfold State.settleStage
    rw [if_neg he]
    rcases (cutsGround_iff _).1 hc with h | h
    · rw [if_pos h, settled, h]
      exact ⟨rfl, fun _ => ⟨rfl, rfl⟩, kept _, rfl⟩
    · rw [h, if_neg (by simp), if_pos rfl, State.evaluatePlan, boom_modBoom_same, settled]
      refine ⟨rfl, fun _ => ⟨rfl, rfl⟩, kept _, ?_⟩
      rw [if_pos rfl, calib_of_backdrop hb, show (s.settleSlice b).params = s.params from congrArg Backdrop.params hb]
      rfl
  · rw [if_neg hc, settleStage_id s b (by simpa using hc)]
    refine ⟨rfl, fun h => absurd h hc, rfl, ?_⟩
    rw [if_neg fun hd => hc ((cutsGround_iff _).2 (.inr hd))]

/-- The boom where a stage's end leaves the hole open (R83). -/
theorem boom_endStage_wait {s : State} {b : Boom} {e : StageEnd} {w : BoomState}
    (h : destination (s.boom b).ctl.state (s.boom b).tracker.contactSeen e = .wait w) (x : Option Nat)
    (st : BoomState × Option RunCondition) :
    (s.endStage b e x st).boom b =
      { ((s.stageCut b e).settleStage b (s.boom b).ctl.state e).boom b with
        ctl := (((s.stageCut b e).settleStage b (s.boom b).ctl.state e).boom b).ctl.enterWait s.params.plan w } := by
  obtain ⟨hback, -⟩ := stageCut_keeps s b e
  obtain ⟨-, htr, hst, -⟩ := stageCut_boom s b e
  have hseen : (((s.stageCut b e).settleStage b (s.boom b).ctl.state e).boom b).tracker.contactSeen = (s.boom b).tracker.contactSeen := by
    rw [contactSeen_core (core_settleStage _ b _ e), htr]
  have hparams : ((s.stageCut b e).settleStage b (s.boom b).ctl.state e).params = s.params :=
    congrArg Backdrop.params (by simp [hback] : State.backdrop _ = s.backdrop)
  rw [endStage_eq, boom_stageReported, State.afterStage, hseen, h]
  simp only [boom_modCtl_same, hparams]

/-! ### LINK_QUALITY is a poll's -/

theorem linkQuality_handed (s : State) (b : Boom) (cs : List ClosedSlice) : ∀ r : Classifier × WearTable,
    (cs.foldl (s.handOne b) r).2.linkQuality = r.2.linkQuality := by
  induction cs with
  | nil => exact fun _ => rfl
  | cons c cs ih => exact fun r => ih _

theorem linkQuality_settleStage (s : State) (b : Boom) (st : BoomState) (e : StageEnd) :
    ((s.settleStage b st e).boom b).wear.linkQuality = (s.boom b).wear.linkQuality := by
  have settled : ((s.settleSlice b).boom b).wear.linkQuality = (s.boom b).wear.linkQuality := by
    rw [boom_settleSlice]
    exact linkQuality_handed s b _ _
  unfold State.settleStage
  repeat' split
  · rfl
  · exact settled
  · rw [State.evaluatePlan, boom_modBoom_same]; exact settled
  · rfl

theorem linkQuality_closeHole (s : State) (b : Boom) (how : CloseKind) (st : BoomState) (f : Option FaultCode) :
    ((s.closeHole b how st f).boom b).wear.linkQuality = (s.boom b).wear.linkQuality := by
  unfold State.closeHole
  split <;> simp [WearTable.addOutcome]

theorem linkQuality_endStage (s : State) (b : Boom) (e : StageEnd) (x : Option Nat) (st : BoomState × Option RunCondition) :
    ((s.endStage b e x st).boom b).wear.linkQuality = (s.boom b).wear.linkQuality := by
  have after (t : State) : ((t.afterStage b (s.boom b).ctl.state e).boom b).wear.linkQuality = (t.boom b).wear.linkQuality := by
    unfold State.afterStage
    split
    · simp
    · simp only []
      split
      · split <;> simp [linkQuality_closeHole]
      · exact linkQuality_closeHole _ b _ _ _
  rw [endStage_eq, boom_stageReported, after, linkQuality_settleStage, boom_stageCut]

/-! ### Before and behind the end -/

/-- What an act does to a boom before a stage of it ends: nothing that the end looks at but the open slice. -/
structure State.Readied (s u : State) (b : Boom) : Prop where
  back : u.backdrop = s.backdrop
  ports : ∀ p, u.port p = s.port p
  arbiter : u.arbiter = s.arbiter
  row : u.rowMap = s.rowMap
  holes : u.holeLog = s.holeLog
  ctl : (u.boom b).ctl = (s.boom b).ctl
  strata : (u.boom b).strata = (s.boom b).strata
  anchorage : (u.boom b).anchorage = (s.boom b).anchorage
  depth : (u.boom b).tracker.maxDepth = (s.boom b).tracker.maxDepth
  contact : (u.boom b).tracker.contactSeen = (s.boom b).tracker.contactSeen

/-- What an act does behind the end of a stage: nothing but to the link and to LINK_QUALITY, with WEAR where that turns. -/
structure State.Followed (t v : State) (b : Boom) (turned : Bool) : Prop where
  flags : t.flagged v (t.wearFlag b turned)
  arbiter : v.arbiter = t.arbiter
  row : v.rowMap = t.rowMap
  holes : v.holeLog = t.holeLog
  latch : (v.boom b).link.stopLatch = (t.boom b).link.stopLatch
  boom : ∃ link a, v.boom b = { t.boom b with link, wear := { (t.boom b).wear with linkQuality := a } }

theorem State.Followed.refl (t : State) (b : Boom) : t.Followed t b false :=
  ⟨by rw [wearFlag_false]; exact .refl t, rfl, rfl, rfl, rfl, _, _, rfl⟩

/-- A close between such acts. -/
theorem closedWith_between {s u t v : State} {b : Boom} {h : HoleRecord} {g : Grade} {f : Option FaultCode} {q : Option TorqueResult}
    {turned : Bool} (hu : s.Readied u b) (hv : t.Followed v b turned) (hcut : (s.boom b).ctl.state.cutsGround = false)
    (hc : u.closedWith t b h g f q) : s.closedWith v b h g f q := by
  obtain ⟨link, a, boom⟩ := hv.boom
  have millis : u.millis = s.millis := congrArg Backdrop.millis hu.back
  have params : u.params = s.params := congrArg Backdrop.params hu.back
  have classifier : (u.boom b).classifier = (s.boom b).classifier := congrArg Prod.fst hu.strata
  have wear : (u.boom b).wear = (s.boom b).wear := congrArg Prod.snd hu.strata
  have hnd : (s.boom b).ctl.state ≠ .drilling := fun hd => by simp [hd, BoomState.cutsGround] at hcut
  have machine : v.portMachine.causes.c2 = t.portMachine.causes.c2 ∧ v.portMachine.causes.c3 = t.portMachine.causes.c3 := by
    have : v.portMachine.causes = t.portMachine.causes.join (t.wearFlag b turned .machine) := hv.flags.causes .machine
    rw [this, wearFlag_eq]
    simp [Causes.join, Causes.clear]
  obtain ⟨c1, c2, c3, ⟨r, d1, d2, d3, d4, e1, e2, e3, e4, e5, e6, e7, e8, e9, e10, e11, e12⟩, ⟨r1, r2, r3, r4⟩, c5, c6, c7⟩ := hc
  rw [hu.holes] at d1
  rw [millis] at e2
  rw [hu.ctl] at e10 e11 e12 r3
  rw [wear] at c5
  rw [handed_congr hu.back hu.strata, settledNow_uncut (by rw [hu.ctl]; exact hcut)] at r1
  rw [hu.depth] at r2
  rw [hu.ctl, if_neg hnd, hu.anchorage] at r4
  unfold State.closedWith State.holeReadable HoleRecord.completes
  simp only [boom, hv.row, hv.holes, machine, settledNow_uncut hcut, if_neg hnd]
  refine ⟨c1, c2, c3, ⟨r, d1, d2, d3, d4, e1, e2, e3, e4, e5, e6, e7, e8, e9, e10, e11, e12⟩, ⟨r1, r2, r3, r4⟩, c5, fun sl hsl => ?_,
    fun sl hsl hne => ?_⟩
  · have h := c6 sl (by rw [hu.row]; exact hsl)
    unfold State.rowClosed at h ⊢
    rw [hu.row, params] at h
    exact h
  · rw [hv.row]
    exact c7 sl (by rw [hu.row]; exact hsl) hne

/-- The flags of the whole end of a stage that leaves the hole open. -/
theorem flagged_endStage_wait {s : State} {b : Boom} {e : StageEnd} {w : BoomState} (he : e ≠ .resetAbort)
    (h : destination (s.boom b).ctl.state (s.boom b).tracker.contactSeen e = .wait w) (x : Option Nat)
    (st : BoomState × Option RunCondition) :
    ∃ on, s.flagged (s.endStage b e x st)
      (bothFlags (flowOn on) (bothFlags (s.slicesFlag b (s.settledNow b)) (s.reportFlag b e))) := by
  obtain ⟨on, cut⟩ := flagged_stageCut s b e
  obtain ⟨owes, ready, turned, behind, wait⟩ := flagged_behindCut s b he x st
  obtain ⟨rfl, rfl, rfl⟩ := wait w h
  refine ⟨on, fun p => ?_⟩
  rw [(cut.trans behind) p]
  simp only [bothFlags, closeFlag_none, noFlag, Causes.join_clear]

theorem boomFlag_eq (s : State) (b : Boom) (c : BoomCause) (on : Bool) (p : Port) :
    s.boomFlag b c on p = Causes.clear.put (decide (p = b.port) && s.enabled b && on) c.code := by
  unfold State.boomFlag
  by_cases h : p = b.port ∧ s.enabled b = true ∧ on = true
  · rw [if_pos h, h.1, h.2.1, h.2.2, decide_eq_true rfl]; rfl
  · rw [if_neg h]
    have : (decide (p = b.port) && s.enabled b && on) = false := by
      rw [Bool.eq_false_iff]; simpa [and_assoc] using h
    rw [this]
    cases c <;> rfl

/-- LAYER and WEAR among the flags of a stage's end that leaves the hole open. -/
theorem waitFlags_eq (u : State) (b : Boom) (on : Port → Bool) (cs : List ClosedSlice) (e : StageEnd) (p : Port) :
    (bothFlags (flowOn on) (bothFlags (u.slicesFlag b cs) (u.reportFlag b e)) p).c5 =
        (decide (p = b.port) && u.enabled b && u.anyHanded b (u.layering b) (u.boom b).strata cs) ∧
      (bothFlags (flowOn on) (bothFlags (u.slicesFlag b cs) (u.reportFlag b e)) p).c6 =
        (decide (p = b.port) && u.enabled b && u.anyHanded b (u.turning b) (u.boom b).strata cs) ∧
      (bothFlags (flowOn on) (bothFlags (u.slicesFlag b cs) (u.reportFlag b e)) p).c7 =
        (decide (p = .machine) && u.anyHanded b (u.turning b) (u.boom b).strata cs) := by
  simp [Causes.join, bothFlags, flowOn, State.slicesFlag, State.reportFlag, wearFlag_eq, boomFlag_eq, Causes.put, Causes.clear,
    BoomCause.code]

theorem reportFlag_congr {s t : State} (h : t.straps = s.straps) (b : Boom) (e : StageEnd) : t.reportFlag b e = s.reportFlag b e := by
  simp only [State.reportFlag, boomFlag_congr h]

/-- STAGE_END stands after every end of a stage of an enabled boom. -/
theorem stageEnd_endStage (s : State) (b : Boom) {e : StageEnd} (he : e ≠ .resetAbort) (x : Option Nat)
    (st : BoomState × Option RunCondition) (hen : s.enabled b = true) : ((s.endStage b e x st).port b.port).causes.c3 = true := by
  obtain ⟨owes, ready, turned, behind, -⟩ := flagged_behindCut s b he x st
  rw [behind.causes b.port]
  simp [Causes.join, bothFlags, State.reportFlag, boomFlag_eq, hen, Causes.put, BoomCause.code]

/-- FLOW before and behind the end. -/
theorem flowFlags_between {s u t v : State} {b : Boom} {turned : Bool} (hu : s.Readied u b) (hv : t.Followed v b turned)
    (h : u.flowFlags t) : s.flowFlags v := fun p => by
  have flow : (v.port p).causes.c4 = (t.port p).causes.c4 := by
    rw [hv.flags.causes p, wearFlag_eq]; simp [Causes.join, Causes.clear]
  have := h p
  rw [hu.ports, hu.arbiter, absentPort_congr (straps_of_backdrop hu.back)] at this
  rw [flow, hv.arbiter]
  exact this

/-- The slices' flags beside those of other causes: LAYER, and WEAR with a turn of LINK_QUALITY in the same act. -/
theorem sliceFlags_of {s v : State} {b : Boom} {f : Port → Causes} {cs : List ClosedSlice} {turned : Bool} (h : s.flagged v f)
    (h5 : (f b.port).c5 = (s.enabled b && s.anyHanded b (s.layering b) (s.boom b).strata cs))
    (h6 : (f b.port).c6 = (s.enabled b && (s.anyHanded b (s.turning b) (s.boom b).strata cs || turned)))
    (h7 : (f .machine).c7 = (s.anyHanded b (s.turning b) (s.boom b).strata cs || turned)) :
    s.layerFlag v b cs ∧ s.wearFlags v b (s.crossesWear b cs ∨ turned = true) := by
  constructor
  · unfold State.layerFlag
    rw [h.causes b.port, ← raisesLayer_iff]
    simp [Causes.join, h5]
  · have := wearFlags_of h h6 h7
    simpa only [State.wearFlags, Bool.or_eq_true, crossesWear_iff] using this

theorem betweenStage_enterWait (c : Controller) (z : Zone5) {w : BoomState} (h : w.waitsBetween = true) :
    (c.enterWait z w).betweenStage = if z.betweenCode = 0 then none else some 0 := by
  simp only [Controller.enterWait, h, if_true, betweenLimit]
  split
  · rfl
  · split <;> rfl

/-- A stage that leaves its hole open, whatever ends it (R30, R83 to R86, R93). -/
theorem leavesHole_endStage {u : State} {b : Boom} {e : StageEnd} (he : e ≠ .resetAbort)
    (lead : destination (u.boom b).ctl.state (u.boom b).tracker.contactSeen e =
      .wait (if (u.boom b).ctl.state = .collaring then (if (u.boom b).tracker.contactSeen then .collared else .holeOpen) else .drilled))
    (hw : (u.boom b).ctl.state = .collaring ∨ (u.boom b).ctl.state = .drilling ∨ (u.boom b).ctl.state = .retracting) (x : Option Nat)
    (st : BoomState × Option RunCondition) :
    u.leavesHole (u.endStage b e x st) b (u.settledNow b) e.reason ∧
      ((u.endStage b e x st).boom b).ctl.hole.map HoleRecord.fault = (e.marks (u.boom b).ctl.hole).map HoleRecord.fault := by
  obtain ⟨hctl, -, -⟩ := endStage_wait u b lead x st
  obtain ⟨hstrata, hslice, hfault, hanch⟩ := boom_settleStage (s := u.stageCut b e) (b := b) he
  obtain ⟨cback, -, -, -, -⟩ := stageCut_keeps u b e
  obtain ⟨cstrata, ctr, cst, canch⟩ := stageCut_boom u b e
  obtain ⟨on, flags⟩ := flagged_endStage_wait he lead x st
  have hboom := boom_endStage_wait lead x st
  have hole : ((u.stageCut b e).boom b).ctl.hole = e.marks (u.boom b).ctl.hole := by rw [boom_stageCut]
  rw [settledNow_congr cst ctr, handed_congr cback cstrata] at hstrata hanch
  rw [cst] at hstrata hslice hfault hanch
  rw [hole] at hfault
  rw [ctr, canch, show (u.stageCut b e).params = u.params from congrArg Backdrop.params cback, calib_of_backdrop cback] at hanch
  obtain ⟨hclass, hwear⟩ := Prod.ext_iff.1 hstrata
  have quality : (u.handed b (u.settledNow b)).2.linkQuality = (u.boom b).wear.linkQuality := linkQuality_handed u b _ _
  refine ⟨⟨congrArg Controller.state hctl, (congrArg Controller.betweenStage hctl).trans (betweenStage_enterWait (u.boom b).ctl _ ?_), ?_,
      ?_, fun hn => ?_, ?_⟩, ?_⟩
  · split <;> [split; skip] <;> rfl
  · rw [hboom, ← quality]
    exact Prod.ext hclass (by rw [← hwear]; rfl)
  · unfold State.layerFlag
    rw [flags.causes b.port, ← raisesLayer_iff]
    simp [Causes.join, (waitFlags_eq u b on (u.settledNow b) e b.port).1]
  · rw [hboom]
    exact hslice (by rcases hw with h | h | h <;> rw [h] at hn ⊢ <;> first | rfl | exact absurd rfl hn)
  · rw [hboom]
    simp only []
    rw [hanch, ← hclass]
    rfl
  · rw [hboom]
    exact hfault

theorem isStage_cases {st : BoomState} (h : st.isStage = true) :
    (st = .collaring ∨ st = .drilling ∨ st = .retracting) ∨ st = .inserting ∨ st = .spinning ∨ st = .holding ∨ st = .torquing := by
  cases st <;> simp_all [BoomState.isStage]

/-- A hole left open between such acts. -/
theorem leavesHole_between {s u t v : State} {b : Boom} {cs : List ClosedSlice} {reason : EndReason} {turned : Bool}
    (hu : s.Readied u b) (hv : t.Followed v b turned) (h : u.leavesHole t b cs reason) : s.leavesHole v b cs reason := by
  obtain ⟨link, a, boom⟩ := hv.boom
  obtain ⟨hstate, hbetween, hstrata, hlayer, hslice, hanch⟩ := h
  have params : u.params = s.params := congrArg Backdrop.params hu.back
  have wear : (u.boom b).wear = (s.boom b).wear := congrArg Prod.snd hu.strata
  rw [hu.ctl, hu.contact] at hstate
  rw [params] at hbetween
  rw [wear, handed_congr hu.back hu.strata] at hstrata
  rw [hu.ctl] at hslice
  rw [hu.ctl, params, calib_of_backdrop hu.back, hu.depth, hu.anchorage] at hanch
  unfold State.layerFlag at hlayer
  rw [hu.ports, enabled_congr (straps_of_backdrop hu.back), ← raisesLayer_iff, (acts_congr hu.back b).2.1, anyHanded_congr hu.back,
      hu.strata,
    raisesLayer_iff] at hlayer
  unfold State.leavesHole State.layerFlag
  rw [hv.flags.causes b.port, boom]
  refine ⟨hstate, hbetween, hstrata, ?_, hslice, hanch⟩
  rw [← hlayer, wearFlag_eq]
  simp [Causes.join, Causes.clear]

/-- A stage that a fault of the link or the head ends (R12, R14), with what the act does before and behind the end. -/
theorem stageLost_of {s u v : State} {b : Boom} {f : FaultCode} {x : Option Nat} {st : BoomState × Option RunCondition} {turned : Bool}
    (hu : s.Readied u b) (hv : (u.endStage b (.fault f) x st).Followed v b turned) (hf : f = .linkLost ∨ f = .headFault)
    (stage : (s.boom b).ctl.state.isStage = true) :
    s.stageLost v b f (StageEnd.fault f).reason (u.settledNow b) (turned = true) := by
  obtain ⟨link, a, boom⟩ := hv.boom
  have leads : (((s.boom b).ctl.state = .collaring ∨ (s.boom b).ctl.state = .drilling ∨ (s.boom b).ctl.state = .retracting) →
        destination (s.boom b).ctl.state (s.boom b).tracker.contactSeen (.fault f) =
          .wait (if (s.boom b).ctl.state = .collaring then (if (s.boom b).tracker.contactSeen then .collared else .holeOpen)
            else .drilled)) ∧
      (((s.boom b).ctl.state = .inserting ∨ (s.boom b).ctl.state = .spinning ∨ (s.boom b).ctl.state = .holding ∨
          (s.boom b).ctl.state = .torquing) →
        destination (s.boom b).ctl.state (s.boom b).tracker.contactSeen (.fault f) = .closes .failed) := by
    constructor
    · rintro (h | h | h) <;> rw [h] <;> rfl
    · rintro (h | h | h | h) <;> rw [h] <;> rcases hf with rfl | rfl <;> rfl
  rw [← hu.ctl, ← hu.contact] at leads
  have flow := flowFlags_between hu hv (flowFlags_endStage u b (by simp) x st)
  have params : u.params = s.params := congrArg Backdrop.params hu.back
  have notReset : StageEnd.fault f ≠ .resetAbort := by simp
  refine ⟨?_, ?_, ?_, flow, fun hen => ?_, fun hw => ?_, fun h hh hl => ?_⟩
  · rw [boom]
    rcases isStage_cases stage with hw | hl
    · exact congrArg Controller.run (endStage_wait u b (leads.1 (by rw [hu.ctl]; exact hw)) x st).1
    · exact (endStage_close u b (leads.2 (by rw [hu.ctl]; exact hl)) x st).2.1
  · rw [State.demandKinds, hv.arbiter]
    exact kinds_endStage u b _ x st
  · rw [hv.latch, link_endStage]; rfl
  · have ended := stageEnd_endStage u b notReset x st (by rw [enabled_congr (straps_of_backdrop hu.back)]; exact hen)
    rw [hv.flags.causes b.port]
    simp [Causes.join, ended]
  · have lead := leads.1 (by rw [hu.ctl]; exact hw)
    obtain ⟨-, hrow, hholes⟩ := endStage_wait u b lead x st
    obtain ⟨left, fault⟩ := leavesHole_endStage notReset lead (by rw [hu.ctl]; exact hw) x st
    obtain ⟨on, flags⟩ := flagged_endStage_wait notReset lead x st
    refine ⟨leavesHole_between hu hv left, ?_, ?_, hv.row.trans (hrow.trans hu.row), hv.holes.trans (hholes.trans hu.holes)⟩
    · have all := State.flagged.after hu.ports (flags.trans hv.flags)
      have own := waitFlags_eq s b on (u.settledNow b) (.fault f) b.port
      have machine := waitFlags_eq s b on (u.settledNow b) (.fault f) .machine
      have worn : State.wearFlag (u.endStage b (.fault f) x st) b turned = s.wearFlag b turned := by
        rw [wearFlag_congr (straps_of_backdrop ((backdrop_endStage u b _ x st).trans hu.back))]
      rw [slicesFlag_congr hu.back hu.strata, reportFlag_congr (straps_of_backdrop hu.back), worn] at all
      refine (sliceFlags_of (turned := turned) all ?_ ?_ ?_).2
      · exact (congrArg₂ or own.1 rfl).trans (by simp [wearFlag_eq, Causes.clear])
      · exact (congrArg₂ or own.2.1 rfl).trans (by simp [wearFlag_eq, Causes.clear, Bool.and_or_distrib_left])
      · exact (congrArg₂ or machine.2.2 rfl).trans (by simp [wearFlag_eq, Causes.clear])
    · rw [boom]
      refine fault.trans ?_
      rw [hu.ctl]
      cases (s.boom b).ctl.hole <;> rfl
  · have lead := leads.2 (by rw [hu.ctl]; exact hl)
    have hcut : (s.boom b).ctl.state.cutsGround = false := by rcases hl with h | h | h | h <;> rw [h] <;> rfl
    have closed := closedWith_endStage u b (h := h) (by rw [hu.ctl]; exact hh) (by rw [hu.ctl]; exact hcut) lead x st
    have torque : (StageEnd.fault f).torqueAfter (u.boom b).ctl.state h.torque = h.torque := by
      unfold StageEnd.torqueAfter
      split
      · rcases hf with rfl | rfl <;> rfl
      · rfl
    rw [torque] at closed
    exact closedWith_between hu hv hcut closed

end Sys2Proof.Machine

/-! ## An entry that is no sample (O25) -/
namespace Sys2Proof.Machine

/-! ### What an entry is (R6) -/

theorem modLink_modLink (s : State) (b : Boom) (f g : HeadLink → HeadLink) : (s.modLink b f).modLink b g = s.modLink b fun l => g (f l) :=
  modBoom_modBoom s b _ _

theorem modLink_congr {s : State} {b : Boom} {f g : HeadLink → HeadLink} (h : f (s.boom b).link = g (s.boom b).link) :
    s.modLink b f = s.modLink b g := modBoom_congr (by rw [h])

/-- What the take of an entry that is no sample leaves of the link. -/
theorem takeOldest_eq {l : HeadLink} {e : FifoEntry} {rest : List FifoEntry} (h : l.fifo = e :: rest) :
    l.takeOldest = { l with fifo := rest, holdOff := if rest.length ≤ 1 then false else l.holdOff } := by
  unfold HeadLink.takeOldest
  rw [h]
  simp

theorem take_of_dropped {s : State} {b : Boom} {e : FifoEntry} {rest : List FifoEntry} (h : (s.boom b).link.fifo = e :: rest)
    (hd : classifyEntry e = .dropped) : (s.take b).state = s.modLink b HeadLink.takeOldest := by
  unfold State.take
  rw [h]
  simp only [hd]

theorem take_of_headStatus {s : State} {b : Boom} {e : FifoEntry} {rest : List FifoEntry} {code : Nat}
    (h : (s.boom b).link.fifo = e :: rest) (hd : classifyEntry e = .headStatus code) :
    (s.take b).state = (s.modLink b HeadLink.takeOldest).headStatus b code := by
  unfold State.take
  rw [h]
  simp only [hd]

theorem classifyEntry_dropped {e : FifoEntry}
    (h : e.status ≠ .good ∨ (e.kind = some 0x10 ∧ e.answer = false) ∨ (e.kind ≠ some 0x10 ∧ e.kind ≠ some 0x11) ∨
      ∃ p, e.payload = some p ∧
        ((e.kind = some 0x10 ∧ p.length ≠ 11) ∨ (e.kind = some 0x11 ∧ (p.length ≠ 2 ∨ 15 < (p.getD 1 0).toNat)))) :
    classifyEntry e = .dropped := by
  unfold classifyEntry
  split
  · rename_i p hs hp
    rw [if_neg, if_neg]
    · rintro ⟨hk, hl, hc⟩
      rcases h with h | ⟨h, -⟩ | ⟨-, h⟩ | ⟨q, hq, ⟨h, -⟩ | ⟨-, h⟩⟩
      · exact h hs
      · rw [h] at hk; exact absurd hk (by decide)
      · exact h hk
      · rw [h] at hk; exact absurd hk (by decide)
      · cases hp.symm.trans hq
        omega
    · rintro ⟨hk, hl, ha⟩
      rcases h with h | ⟨-, h⟩ | ⟨h, -⟩ | ⟨q, hq, ⟨-, h⟩ | ⟨h, -⟩⟩
      · exact h hs
      · rw [h] at ha; cases ha
      · exact h hk
      · cases hp.symm.trans hq
        exact h hl
      · rw [h] at hk; exact absurd hk (by decide)
  · rfl

theorem classifyEntry_headStatus {e : FifoEntry} {p : List Byte} (hs : e.status = .good) (hk : e.kind = some 0x11)
    (hp : e.payload = some p) (hl : p.length = 2) (hc : (p.getD 1 0).toNat ≤ 15) :
    classifyEntry e = .headStatus (p.getD 1 0).toNat := by
  unfold classifyEntry
  rw [hs, hp]
  simp only []
  rw [if_neg (by rw [hk]; rintro ⟨h, -⟩; exact absurd h (by decide)), if_pos ⟨hk, hl, hc⟩]

/-! ### A fault of the link or the head (R12, R14) -/

theorem linkFault_stage {s : State} {b : Boom} (h : (s.boom b).ctl.state.isStage = true) (f : FaultCode) (x : Option Nat) :
    s.linkFault b f x = s.endStage b (.fault f) x (s.stance b) := if_pos h

theorem linkFault_waits {s : State} {b : Boom} (h : (s.boom b).ctl.state.isStage = false) (f : FaultCode) (x : Option Nat) :
    s.linkFault b f x = ((s.markFault b f).raise b .stageFault).logBoomFault b f x (s.stance b) :=
  if_neg (by rw [show (s.stance b).1 = (s.boom b).ctl.state from rfl, h]; simp)

/-- The fault is recorded, whatever the boom does. -/
theorem faultWritten_linkFault (s : State) (b : Boom) (f : FaultCode) (x : Option Nat) : s.faultWritten (s.linkFault b f x) b f x := by
  cases h : (s.boom b).ctl.state.isStage with
  | true => rw [linkFault_stage h]; exact faultWritten_endStage s b f x
  | false =>
    rw [linkFault_waits h]
    exact ⟨faultLog_logBoomFault (by simp) (by simp) x, stageFault_raised b f x _ (straps_of_backdrop (by simp))⟩

theorem elsewhere_linkFault (s : State) (b : Boom) (f : FaultCode) (x : Option Nat) : s.elsewhere (s.linkFault b f x) b := by
  cases h : (s.boom b).ctl.state.isStage with
  | true => rw [linkFault_stage h]; exact elsewhere_endStage s b _ x _
  | false =>
    rw [linkFault_waits h]
    exact ⟨by simp, by simp, by simp [boom_markFault_other s (otherBoom_ne b)]⟩

/-- In a wait state and in IDLE the fault marks the hole and moves nothing else of the boom. -/
theorem boom_linkFault_waits {s : State} {b : Boom} (h : (s.boom b).ctl.state.isStage = false) (f : FaultCode) (x : Option Nat) :
    (s.linkFault b f x).boom b =
      { s.boom b with ctl := { (s.boom b).ctl with hole := (s.boom b).ctl.hole.map fun h => { h with fault := some f } } } := by
  rw [linkFault_waits h]; simp

/-- The record of a fault depends on the booms' control, the counter and the requests. -/
theorem faultWritten_of {s u t : State} {b : Boom} {f : FaultCode} {x : Option Nat} (h : u.faultWritten t b f x)
    (hb : u.backdrop = s.backdrop) (hc : (u.boom b).ctl = (s.boom b).ctl) (hl : u.faultLog = s.faultLog) : s.faultWritten t b f x := by
  obtain ⟨hrec, hflag⟩ := h
  refine ⟨?_, by rw [← enabled_congr (straps_of_backdrop hb)]; exact hflag⟩
  rw [hrec, hl]
  unfold State.faultRecord
  rw [hc, recent_of_backdrop hb, show u.millis = s.millis from congrArg Backdrop.millis hb]

theorem elsewhere_trans {s t u : State} {b : Boom} (h : s.elsewhere t b) (k : t.elsewhere u b) : s.elsewhere u b :=
  ⟨k.1.trans h.1, k.2.1.trans h.2.1, k.2.2.trans h.2.2⟩

/-- A change of a link touches nothing else. -/
theorem elsewhere_modLink (s : State) (b : Boom) (f : HeadLink → HeadLink) : s.elsewhere (s.modLink b f) b :=
  ⟨by simp, by simp, by rw [boom_modLink_other _ (otherBoom_ne b)]⟩

theorem readied_modLink (s : State) (b : Boom) (f : HeadLink → HeadLink) : s.Readied (s.modLink b f) b := by
  constructor <;> simp [BoomUnit.strata]

theorem depth_of_core {t u : DepthTracker} (h : t.core = u.core) : t.depth = u.depth :=
  show t.core.depth = u.core.depth from congrArg _ h

theorem maxDepth_of_core {t u : DepthTracker} (h : t.core = u.core) : t.maxDepth = u.maxDepth :=
  show t.core.maxDepth = u.core.maxDepth from congrArg _ h

/-- The state in which the onset of a head fault is acted on (R14): the entry taken, the code stored, the stop latch set. -/
def State.statusTaken (s : State) (b : Boom) (rest : List FifoEntry) (code : Nat) : State :=
  s.modLink b fun l =>
    { l with fifo := rest, holdOff := if rest.length ≤ 1 then false else l.holdOff, headFault := code, stopLatch := true }

/-- Settles O25: the entry is classified by its fields; an onset of a head fault is a fault of the boom, which ends its stage. -/
theorem aTakenEntryThatIsNoSampleIsDroppedOrApplied : Obligations.ATakenEntryThatIsNoSampleIsDroppedOrApplied := by
  unfold Obligations.ATakenEntryThatIsNoSampleIsDroppedOrApplied
  intro b s e rest hfifo
  have oldest : s.modLink b HeadLink.takeOldest = s.modLink b fun l =>
      { l with fifo := rest, holdOff := if rest.length ≤ 1 then false else l.holdOff } :=
    modLink_congr (takeOldest_eq hfifo)
  refine ⟨fun h => ?_, fun p hs hk hp hl hc => ?_⟩
  · exact congrArg Host.Outcome.next ((take_of_dropped hfifo (classifyEntry_dropped h)).trans oldest)
  · have taken : exec (.fifoTake b) s = .next ((s.modLink b HeadLink.takeOldest).headStatus b (p.getD 1 0).toNat) :=
      congrArg Host.Outcome.next (take_of_headStatus hfifo (classifyEntry_headStatus hs hk hp hl hc))
    generalize (p.getD 1 0).toNat = code at *
    rw [oldest] at taken
    have onset (h0 : (s.boom b).link.headFault = 0) (h1 : code ≠ 0) :
        exec (.fifoTake b) s = .next ((s.statusTaken b rest code).linkFault b .headFault (some code)) := by
      rw [taken, State.headStatus, if_pos ⟨by simpa using h0, h1⟩, modLink_modLink, State.statusTaken]
    have written : s.faultWritten ((s.statusTaken b rest code).linkFault b .headFault (some code)) b .headFault (some code) :=
      faultWritten_of (faultWritten_linkFault _ b _ _) (readied_modLink s b _).back (readied_modLink s b _).ctl
        (by simp [State.statusTaken])
    have apart : s.elsewhere ((s.statusTaken b rest code).linkFault b .headFault (some code)) b :=
      elsewhere_trans (elsewhere_modLink s b _) (elsewhere_linkFault _ b _ _)
    have readied : s.Readied (s.statusTaken b rest code) b := readied_modLink s b _
    have ctl : ((s.statusTaken b rest code).boom b).ctl = (s.boom b).ctl := (readied_modLink s b _).ctl
    refine ⟨fun h => ?_, fun h0 h1 hw => ?_, fun stage h0 h1 => ?_⟩
    · rw [taken, State.headStatus, if_neg (by simp; tauto), modLink_modLink]
    · refine ⟨_, onset h0 h1, apart, ?_⟩
      have boom := boom_linkFault_waits (s := s.statusTaken b rest code) (by rw [ctl]; exact hw) .headFault (some code)
      have waits := linkFault_waits (s := s.statusTaken b rest code) (by rw [ctl]; exact hw) .headFault (some code)
      refine ⟨?_, ?_, ?_, ?_, ?_, written, ?_⟩
      · rw [boom]; simp [State.statusTaken]
      · rw [boom]; simp [State.statusTaken]
      · rw [boom]; simp [State.statusTaken]
      · rw [boom]; simp [State.statusTaken]
      · rw [boom]; simp [State.statusTaken]
      · rw [waits]; simp [State.statusTaken]
    · have ends := linkFault_stage (s := s.statusTaken b rest code) (by rw [ctl]; exact stage) .headFault (some code)
      rw [ends] at onset written apart
      have core := core_endStage (s.statusTaken b rest code) b (.fault .headFault) (some code) ((s.statusTaken b rest code).stance b)
      have link := link_endStage (s.statusTaken b rest code) b (.fault .headFault) (some code) ((s.statusTaken b rest code).stance b)
      have tracker : ((s.statusTaken b rest code).boom b).tracker = (s.boom b).tracker := by simp [State.statusTaken]
      have lost := stageLost_of (x := some code) (st := (s.statusTaken b rest code).stance b) readied
        (.refl ((s.statusTaken b rest code).endStage b (.fault .headFault) (some code) ((s.statusTaken b rest code).stance b)) b)
          (.inr rfl) stage
      rw [settledNow_congr (by rw [ctl]) tracker, Bool.false_eq_true] at lost
      rw [tracker] at core
      refine ⟨_, onset h0 h1, apart, ?_, ?_, ?_, depth_of_core core, maxDepth_of_core core, written, ?_⟩
      · rw [link]; simp [State.statusTaken]
      · rw [link]; simp [State.statusTaken]
      · rw [link]; simp [State.statusTaken]
      · exact lost

end Sys2Proof.Machine

/-! ## The loss of a link, and the last poll of a block (O23, O24) -/
namespace Sys2Proof.Machine

/-! ### The judgement that loses the link -/

/-- The boom with the poll judged and its link lost: the state in which the fault is acted on (R11, R12). -/
def State.linkDropped (s : State) (b : Boom) : State :=
  s.modBoom b fun _ =>
    { s.judgedBoom b with
      link := { (s.boom b).link.judged with state := .lost, stopLatch := true }
      tracker := { (s.judgedBoom b).tracker with encoderRef := none } }

theorem judgePoll_lost {s : State} {b : Boom} (h : (s.boom b).link.isLost = true) :
    s.judgePoll b = (s.linkDropped b).linkFault b .linkLost none := by
  obtain ⟨outstanding, -, up, -⟩ := (HeadLink.isLost_iff _).1 h
  obtain ⟨hl, -⟩ := judged_iff outstanding
  have link : (s.judgedBoom b).link = (s.boom b).link.judged := rfl
  rw [judgePoll_eq s b outstanding]
  unfold State.linkChange
  simp only [boom_modBoom_same, link]
  rw [if_pos (show (s.boom b).link.judged.state = .up from up), if_pos (hl.2 h).2]
  simp only [State.loseLink, State.modLink, State.modTracker, modBoom_modBoom]
  rfl

theorem readied_linkDropped (s : State) (b : Boom) : s.Readied (s.linkDropped b) b := by
  constructor <;> simp [State.linkDropped, State.judgedBoom, BoomUnit.strata]

theorem sliceMissed_uncut {s : State} {b : Boom} (h : (s.boom b).ctl.state.cutsGround = false) :
    s.sliceMissed b = (s.boom b).tracker.slice := by
  have : ¬((s.boom b).ctl.state = .collaring ∨ (s.boom b).ctl.state = .drilling) := fun hc => by
    rw [(cutsGround_iff _).2 hc] at h; cases h
  simp [State.sliceMissed, this]

/-- The link as the fault leaves it. -/
theorem link_linkFault (s : State) (b : Boom) (f : FaultCode) (x : Option Nat) (h : (s.boom b).link.stopLatch = true) :
    ((s.linkFault b f x).boom b).link = (s.boom b).link := by
  cases hst : (s.boom b).ctl.state.isStage with
  | true =>
    rw [linkFault_stage hst, link_endStage, if_neg (by simp), ← h]
  | false => rw [boom_linkFault_waits hst]

theorem core_linkFault (s : State) (b : Boom) (f : FaultCode) (x : Option Nat) :
    ((s.linkFault b f x).boom b).tracker.core = (s.boom b).tracker.core := by
  cases hst : (s.boom b).ctl.state.isStage with
  | true => rw [linkFault_stage hst, core_endStage]
  | false => rw [boom_linkFault_waits hst]

theorem tracker_endStage_uncut {s : State} {b : Boom} (h : (s.boom b).ctl.state.cutsGround = false) (e : StageEnd) (x : Option Nat)
    (st : BoomState × Option RunCondition) : ((s.endStage b e x st).boom b).tracker = (s.boom b).tracker := by
  rw [endStage_eq, boom_stageReported, (core_afterStage _ b _ _).1, settleStage_id _ b h, (stageCut_boom s b e).2.1]

theorem tracker_linkFault_uncut {s : State} {b : Boom} (h : (s.boom b).ctl.state.cutsGround = false) (f : FaultCode) (x : Option Nat) :
    ((s.linkFault b f x).boom b).tracker = (s.boom b).tracker := by
  cases hst : (s.boom b).ctl.state.isStage with
  | true => rw [linkFault_stage hst, tracker_endStage_uncut h]
  | false => rw [boom_linkFault_waits hst]

theorem linkQuality_linkFault (s : State) (b : Boom) (f : FaultCode) (x : Option Nat) :
    ((s.linkFault b f x).boom b).wear.linkQuality = (s.boom b).wear.linkQuality := by
  cases hst : (s.boom b).ctl.state.isStage with
  | true => rw [linkFault_stage hst, linkQuality_endStage]
  | false => rw [boom_linkFault_waits hst]

/-! ### The count and the sending behind it -/

theorem followed_closePoll (t : State) (b : Boom) : t.Followed (t.closePoll b) b (t.qualityTurned b) := by
  obtain ⟨-, -, row, arbiter, holes, -⟩ := closePoll_keeps t b
  refine ⟨flagged_closePoll t b, arbiter, row, holes, ?_, ?_⟩
  · rw [boom_closePoll]; rfl
  · rw [boom_closePoll]; exact ⟨_, _, rfl⟩

/-- A fault written stays written behind the count and the sending. -/
theorem faultWritten_closePoll {s t : State} {b : Boom} {f : FaultCode} {x : Option Nat} (h : s.faultWritten t b f x) :
    s.faultWritten (t.closePoll b) b f x := by
  obtain ⟨hrec, hflag⟩ := h
  obtain ⟨-, monitor, row, -, -, faults⟩ := closePoll_keeps t b
  refine ⟨?_, fun he => ?_⟩
  · rw [faults, hrec]
    unfold State.faultRecord State.interlocks
    rw [boom_closePoll, monitor, row]
  · rw [(flagged_closePoll t b).causes b.port]
    simp [Causes.join, hflag he]

theorem elsewhere_closePoll (t : State) (b : Boom) : t.elsewhere (t.closePoll b) b := by
  obtain ⟨back, monitor, -⟩ := closePoll_keeps t b
  exact ⟨back, monitor, by rw [boom_closePoll_other (otherBoom_ne b)]⟩

/-- WEAR where the act turns LINK_QUALITY. -/
theorem raisesWear_closePoll (t : State) (b : Boom) (h : t.qualityTurned b = true) :
    (t.closePoll b).portMachine.causes.c7 = true ∧ (t.enabled b = true → ((t.closePoll b).port b.port).causes.c6 = true) := by
  have machine : (t.closePoll b).portMachine.causes = t.portMachine.causes.join (t.wearFlag b (t.qualityTurned b) .machine) :=
    (flagged_closePoll t b).causes .machine
  refine ⟨by rw [machine, h, wearFlag_eq]; simp [Causes.join], fun he => ?_⟩
  rw [(flagged_closePoll t b).causes b.port, h, wearFlag_eq]
  simp [Causes.join, he]

theorem flagged_linkFault_waits {s : State} {b : Boom} (h : (s.boom b).ctl.state.isStage = false) (f : FaultCode) (x : Option Nat) :
    s.flagged (s.linkFault b f x) (s.boomFlag b .stageFault true) := by
  have raised := flagged_raise (s.markFault b f) b .stageFault
  rw [boomFlag_congr (s := s) (straps_of_backdrop (by simp))] at raised
  rw [linkFault_waits h]
  exact (State.flagged.after (fun p => port_modHole s b p _) raised).before fun p => by simp

/-! ### The expiry that loses the link -/

/-- The state behind the loss, before the poll is counted and the frame sent. -/
def State.linkGone (s : State) (b : Boom) : State := (s.linkDropped b).linkFault b .linkLost none

theorem expirePoll_lost {s : State} {b : Boom} (h : (s.boom b).link.isLost = true) : s.expirePoll b = (s.linkGone b).closePoll b := by
  rw [expirePoll_eq, judgePoll_lost h]; rfl

theorem link_linkGone (s : State) (b : Boom) :
    ((s.linkGone b).boom b).link = { (s.boom b).link.judged with state := .lost, stopLatch := true } := by
  rw [State.linkGone, link_linkFault _ b _ _ (by simp [State.linkDropped])]
  simp [State.linkDropped]

theorem quality_linkGone (s : State) (b : Boom) :
    (s.linkGone b).qualityAfter b = s.qualityAfter b ∧ (s.linkGone b).qualityTurned b = s.qualityTurned b := by
  have quality : ((s.linkGone b).boom b).wear.linkQuality = (s.boom b).wear.linkQuality := by
    rw [State.linkGone, linkQuality_linkFault]
    exact congrArg (fun r : Classifier × WearTable => r.2.linkQuality) (readied_linkDropped s b).strata
  have after := qualityAfter_congr (s := s) (t := s.linkGone b) (b := b) (by rw [link_linkGone]; rfl) (by rw [link_linkGone]; rfl) quality
  exact ⟨after, by rw [State.qualityTurned, State.qualityTurned, after, quality]⟩

theorem elsewhere_linkGone (s : State) (b : Boom) : s.elsewhere (s.linkGone b) b := by
  refine elsewhere_trans (t := s.linkDropped b) ⟨(readied_linkDropped s b).back, by simp [State.linkDropped], ?_⟩
    (elsewhere_linkFault _ b _ _)
  rw [State.linkDropped, boom_modBoom_other _ (otherBoom_ne b)]

theorem faultWritten_linkGone (s : State) (b : Boom) : s.faultWritten (s.linkGone b) b .linkLost none :=
  faultWritten_of (faultWritten_linkFault _ b _ _) (readied_linkDropped s b).back (readied_linkDropped s b).ctl
    (by simp [State.linkDropped])

/-- The link and the depth tracker as the whole expiry leaves them. -/
theorem link_expirePoll_lost {s : State} {b : Boom} (h : (s.boom b).link.isLost = true) :
    ((s.expirePoll b).boom b).link = s.expired b .lost true 0 (boomGrant (s.expirePoll b).arbiter.demands b) := by
  have back : (s.linkGone b).backdrop = s.backdrop := (elsewhere_linkGone s b).1
  have stage : (s.linkGone b).setpointStage b = 0 := by
    simp [State.setpointStage, link_linkGone]
  rw [expirePoll_lost h, (closePoll_keeps (s.linkGone b) b).2.2.2.1, ← stage]
  exact link_closePoll (link_linkGone s b) back

theorem tracker_expirePoll_lost {s : State} {b : Boom} (h : (s.boom b).link.isLost = true) :
    ((s.expirePoll b).boom b).tracker = ((s.linkGone b).boom b).tracker := by
  rw [expirePoll_lost h, boom_closePoll]

theorem settledNow_linkDropped {s : State} {b : Boom} (h : (s.boom b).link.isLost = true) :
    (s.linkDropped b).settledNow b = s.settledLost b := by
  obtain ⟨outstanding, missed, -, -⟩ := (HeadLink.isLost_iff _).1 h
  rw [State.settledLost, settledNow_eq, settledNow_eq]
  simp [State.linkDropped, State.judgedBoom, outstanding, missed, DepthTracker.remnant]

/-- Settles O23: the loss is a fault of the boom in the judged state; the count and the sending follow its end. -/
theorem theThirdMissedPollLosesTheLink : Obligations.TheThirdMissedPollLosesTheLink := by
  unfold Obligations.TheThirdMissedPollLosesTheLink
  intro b s running due outstanding missed up run u cuts
  have lost : (s.boom b).link.isLost = true := (HeadLink.isLost_iff _).2 ⟨outstanding, missed, up, run⟩
  have pollDue : (s.boom b).link.pollDue = true := (HeadLink.pollDue_iff _).2 ⟨running, due⟩
  have limit : 3 ≤ satInc 255 (s.boom b).link.missedRun := by unfold satInc; omega
  have gone := expirePoll_lost lost
  obtain ⟨after, turned⟩ := quality_linkGone s b
  have core : ((s.expirePoll b).boom b).tracker.core = ((s.linkDropped b).boom b).tracker.core := by
    rw [tracker_expirePoll_lost lost]; exact core_linkFault _ b _ _
  have straps : (s.linkGone b).straps = s.straps := straps_of_backdrop (elsewhere_linkGone s b).1
  refine ⟨s.expirePoll b, ?_, ?_, fun hb => ?_, ?_, link_expirePoll_lost lost, ?_, ?_, ?_, fun hn => ?_, ?_, fun hq => ?_, ?_,
      fun stage => ?_,
    fun wait => ?_⟩
  · simp [exec, execLinkLost, HeadLink.lostDue, pollDue, outstanding, missed, up, limit]
  · simp [exec, execPollExpiry, pollDue]
  · simp only [exec, execQualityBlockEnd, HeadLink.blockDue, pollDue]
    rw [if_pos (by simp; omega)]
  · rw [gone]; exact elsewhere_trans (elsewhere_linkGone s b) (elsewhere_closePoll _ b)
  · exact (congrArg (fun k : DepthTracker => k.encoderRef) core).trans (by simp [State.linkDropped, DepthTracker.core])
  · exact (depth_of_core core).trans (by simp [State.linkDropped, State.judgedBoom, u])
  · exact (maxDepth_of_core core).trans (by simp [State.linkDropped, State.judgedBoom, u])
  · have uncut : (s.boom b).ctl.state.cutsGround = false := by
      rw [← Bool.not_eq_true, cutsGround_iff]; exact hn
    rw [tracker_expirePoll_lost lost, State.linkGone, tracker_linkFault_uncut (by rw [(readied_linkDropped s b).ctl]; exact uncut)]
    simp [State.linkDropped, State.judgedBoom, sliceMissed_uncut uncut, u]
  · rw [gone, boom_closePoll]; exact after
  · rw [← qualityTurned_iff, ← turned] at hq
    rw [gone, ← enabled_congr straps]
    exact raisesWear_closePoll _ b hq
  · rw [gone]; exact faultWritten_closePoll (faultWritten_linkGone s b)
  · have ends : s.linkGone b = (s.linkDropped b).endStage b (.fault .linkLost) none ((s.linkDropped b).stance b) :=
      linkFault_stage (by rw [(readied_linkDropped s b).ctl]; exact stage) _ _
    have follow := followed_closePoll (s.linkGone b) b
    rw [gone, ← settledNow_linkDropped lost, ← propext (qualityTurned_iff s b), ← turned]
    rw [ends] at follow ⊢
    exact stageLost_of (readied_linkDropped s b) follow (.inl rfl) stage
  · have waits : ((s.linkDropped b).boom b).ctl.state.isStage = false := by rw [(readied_linkDropped s b).ctl]; exact wait
    have boom : (s.linkGone b).boom b = _ := boom_linkFault_waits waits .linkLost none
    have kept : s.linkGone b = _ := linkFault_waits waits .linkLost none
    have arbiter : (s.expirePoll b).arbiter = s.arbiter := by
      rw [gone, (closePoll_keeps _ b).2.2.2.1, kept]; simp [State.linkDropped]
    have flags := (State.flagged.after (readied_linkDropped s b).ports (flagged_linkFault_waits waits .linkLost none)).trans
      (flagged_closePoll (s.linkGone b) b)
    rw [boomFlag_congr (straps_of_backdrop (readied_linkDropped s b).back), wearFlag_congr straps, turned, ← gone] at flags
    rw [← propext (qualityTurned_iff s b)]
    refine ⟨?_, ?_, ?_, ?_, wearFlags_of flags ?_ ?_, ?_, ?_, arbiter, fun p => ?_⟩
    · rw [gone, boom_closePoll, boom]; simp [State.linkDropped, State.judgedBoom, u]
    · rw [gone, boom_closePoll, boom]; simp [State.linkDropped, State.judgedBoom, u]
    · rw [gone, boom_closePoll, boom]; simp [State.linkDropped, State.judgedBoom, u]
    · rw [gone, boom_closePoll, after, boom]; simp [State.linkDropped, State.judgedBoom, u]
    · simp [bothFlags, Causes.join, wearFlag_eq, boomFlag_eq, Causes.put, Causes.clear, BoomCause.code]
    · simp [bothFlags, Causes.join, wearFlag_eq, boomFlag_eq, Causes.put, Causes.clear, BoomCause.code]
    · rw [gone, (closePoll_keeps _ b).2.2.1, kept]; simp [State.linkDropped]
    · rw [gone, (closePoll_keeps _ b).2.2.2.2.1, kept]; simp [State.linkDropped]
    · rw [flags.causes p, arbiter]
      simp [bothFlags, Causes.join, wearFlag_eq, boomFlag_eq, Causes.put, Causes.clear, BoomCause.code]

/-! ### The end of a block -/

/-- Whatever an expiry brings about, it counts the poll and LINK_QUALITY follows. -/
theorem expirePoll_counts (s : State) (b : Boom) :
    ((s.expirePoll b).boom b).wear.linkQuality = s.qualityAfter b ∧ s.elsewhere (s.expirePoll b) b ∧
      (s.qualityTurns b → (s.expirePoll b).portMachine.causes.c7 = true ∧
        (s.enabled b = true → ((s.expirePoll b).port b.port).causes.c6 = true)) ∧
      ∃ state latch stage grant, ((s.expirePoll b).boom b).link = s.expired b state latch stage grant := by
  cases lost : (s.boom b).link.isLost with
  | true =>
    obtain ⟨after, turned⟩ := quality_linkGone s b
    refine ⟨?_, ?_, fun h => ?_, _, _, _, _, link_expirePoll_lost lost⟩
    · rw [expirePoll_lost lost, boom_closePoll]; exact after
    · rw [expirePoll_lost lost]; exact elsewhere_trans (elsewhere_linkGone s b) (elsewhere_closePoll _ b)
    · rw [← qualityTurned_iff, ← turned] at h
      rw [expirePoll_lost lost, ← enabled_congr (straps_of_backdrop (elsewhere_linkGone s b).1)]
      exact raisesWear_closePoll _ b h
  | false =>
    obtain ⟨back, monitor, -, -, -, -, other, boom, ⟨own, machine⟩, -⟩ := expires_of_kept lost
    refine ⟨by rw [boom], ⟨back, monitor, by rw [other]⟩, fun h => ⟨machine.2 (.inr h), fun he => own.2 (.inr ⟨he, h⟩)⟩,
      ⟨_, _, _, _, congrArg BoomUnit.link boom⟩⟩

/-- Settles O24: every expiry counts the poll in the link it leaves; the rest is the expiry of O21, O22 or O23. -/
theorem theLastPollOfABlockHandsItsErrorsToLinkQuality : Obligations.TheLastPollOfABlockHandsItsErrorsToLinkQuality := by
  unfold Obligations.TheLastPollOfABlockHandsItsErrorsToLinkQuality
  refine ⟨fun b s running due polls => ?_, fun t wearRate units => ⟨rfl, rfl, rfl⟩⟩
  intro u l goesUp isLost a norm turned
  have pollDue : (s.boom b).link.pollDue = true := (HeadLink.pollDue_iff _).2 ⟨running, due⟩
  have whole : 1023 ≤ (s.boom b).link.blockPolls := by omega
  obtain ⟨quality, apart, wear, state, latch, stage, grant, link⟩ := expirePoll_counts s b
  have ran : exec (.pollExpiry b) s = .next (s.expirePoll b) := by simp [exec, execPollExpiry, pollDue]
  have evaluated : s.qualityAfter b =
      { a with raw := l.blockErrors, norm, worst := min a.worst norm, crossed := decide (norm ≤ a.threshold) } := if_pos whole
  refine ⟨s.expirePoll b, ?_, ran, apart, ?_, ?_, ?_, quality.trans evaluated, fun h => wear ?_, fun h => ?_, fun h => ?_, fun hu hl => ?_⟩
  · simp only [exec, execQualityBlockEnd, HeadLink.blockDue, pollDue]
    rw [if_pos (by simp; omega)]
  · rw [link]; simp [State.expired, whole]
  · rw [link]; simp [State.expired, whole]
  · rw [link]; simp [State.expired, whole]; rfl
  · rw [State.qualityTurns, evaluated]
    exact bne_iff_ne.1 h
  · obtain ⟨outstanding, answered, down, run⟩ := h
    obtain ⟨t, up, expiry, -, -, -, -, -, -, -, -, boom, -⟩ :=
      theFourthAnsweredPollMakesTheLinkUp b s running due outstanding answered down run
    cases ran.symm.trans expiry
    exact ⟨up, by rw [boom]; rfl⟩
  · obtain ⟨outstanding, missed, up, run⟩ := h
    obtain ⟨t, gone, expiry, -, -, link, -⟩ := theThirdMissedPollLosesTheLink b s running due outstanding missed up run
    cases ran.symm.trans expiry
    exact ⟨gone, by rw [link]; rfl⟩
  · have stays : (s.boom b).link.goesUp = false := by rw [← Bool.not_eq_true, HeadLink.goesUp_iff]; exact hu
    have kept := expires_of_kept (s := s) (b := b) (by rw [← Bool.not_eq_true, HeadLink.isLost_iff]; exact hl)
    simpa only [stays, Bool.false_eq_true, if_false] using kept

end Sys2Proof.Machine

/-! ## A sample that is no glitch (O26) -/
namespace Sys2Proof.Machine

/-! ### The entry, and the take of it (R6, R19) -/

theorem accepts_iff (t : DepthTracker) (x : Sample) : t.accepts x ↔ isGlitch (encoderDelta t.encoderRef x.count) = false := by
  unfold DepthTracker.accepts isGlitch encoderDelta
  cases t.encoderRef with
  | none => simp
  | some r => simp; omega

/-- The entry taken, before the tracker works on it. -/
def State.entryTaken (s : State) (b : Boom) : State := s.modLink b HeadLink.takeOldest

/-- The bit is within 1 mm of maximum depth, where R23 makes the test. -/
def State.sampleFace (s : State) (b : Boom) (x : Sample) : Bool :=
  ((s.boom b).tracker.placed (s.boom b).ctl.state (s.calib b).scale x).atFace (s.boom b).ctl.state

/-- The sample extends new ground (R23). -/
def State.sampleRaises (s : State) (b : Boom) (x : Sample) : Bool :=
  ((s.boom b).tracker.placed (s.boom b).ctl.state (s.calib b).scale x).extends (s.boom b).ctl.state

/-- What the tracker makes of the sample. -/
def State.sampleTracked (s : State) (b : Boom) (x : Sample) : Tracked :=
  ((s.entryTaken b).workedOn b x).trackRuns b x (s.sampleFace b x) (s.sampleRaises b x) (s.boom b).tracker.maxDepth

/-- The state in which the controller judges the sample. -/
def State.sampleCounted (s : State) (b : Boom) (x : Sample) : State := (s.sampleTracked b x).state.countSample b x

theorem calib_entryTaken (s : State) (b : Boom) : (s.entryTaken b).calib = s.calib :=
  funext fun c => calib_of_backdrop (by simp [State.entryTaken]) c

theorem processed_trackRuns (s : State) (b : Boom) (x : Sample) (face raised : Bool) (before : Nat) :
    (s.trackRuns b x face raised before).processed = true := by
  unfold State.trackRuns
  simp only []
  repeat' split
  all_goals rfl

theorem take_of_sample {s : State} {b : Boom} {x : Sample} (hn : s.nextSample b x) (ha : (s.boom b).tracker.accepts x) :
    (s.take b).state =
      match sampleEnd (s.sampleCounted b x) b (s.sampleTracked b x) with
      | some e => (s.sampleCounted b x).endOnSample b e
      | none => s.sampleCounted b x := by
  obtain ⟨p, rest, hf, hl, rfl⟩ := hn
  have sample : classifyEntry { status := .good, kind := some 0x10, payload := some p, answer := true } = .sample (readSample p) := by
    unfold classifyEntry
    simp only []
    rw [if_pos ⟨rfl, hl, trivial⟩]
  have tracked : (s.modLink b HeadLink.takeOldest).track b (readSample p) = s.sampleTracked b (readSample p) := by
    rw [track_of_accepted (by rw [accepts_iff] at ha; simpa using ha)]
    simp only [boom_modLink_same]
    rw [show (s.modLink b HeadLink.takeOldest).calib b = s.calib b from congrFun (calib_entryTaken s b) b]
    rfl
  unfold State.take
  rw [hf]
  simp only [sample, tracked, processed_trackRuns, State.sampleTracked, if_true]
  split <;> rename_i h <;> simp only [State.sampleCounted, State.sampleTracked, h]

/-! ### Where the sample puts the bit (R20 to R27) -/

/-- The sample makes collar contact (R22). -/
def State.contactMade (s : State) (b : Boom) (x : Sample) : Bool :=
  (s.boom b).tracker.contactDue (s.boom b).ctl.state x

/-- R23 makes its tests on the sample: behind contact, in COLLARING or DRILLING. -/
def State.sampleTested (s : State) (b : Boom) (x : Sample) : Bool :=
  ((s.boom b).tracker.contactSeen || s.contactMade b x) && (s.boom b).ctl.state.cutsGround

theorem contactMade_iff (s : State) (b : Boom) (x : Sample) :
    s.contactMade b x = true ↔ (s.boom b).ctl.state = .collaring ∧ x.collar = true ∧ (s.boom b).tracker.contactSeen = false := by
  simp [State.contactMade, DepthTracker.contactDue, and_comm, and_left_comm, and_assoc]

/-- The tracker behind a sample that finds no test to make. -/
def State.sampledTracker (s : State) (b : Boom) (x : Sample) : DepthTracker := ((s.sampled b x).boom b).tracker

theorem depthAfter_unmet {s : State} {b : Boom} {x : Sample} (h : s.contactMade b x = false) :
    s.depthAfter b x =
      clampDepth ((s.boom b).tracker.depth + encoderDelta (s.boom b).tracker.encoderRef x.count * (s.calib b).scale) := by
  refine if_neg ?_
  rw [← contactMade_iff, h]
  simp

theorem placed_eq (s : State) (b : Boom) (x : Sample) :
    (s.boom b).tracker.placed (s.boom b).ctl.state (s.calib b).scale x =
      { s.sampledTracker b x with
        lastSample := (s.boom b).tracker.lastSample
        contactSeen := (s.boom b).tracker.contactSeen || s.contactMade b x
        slice := if s.contactMade b x then some (OpenSlice.fresh 0 0) else (s.boom b).tracker.slice } := by
  have due : ((s.boom b).tracker.move (s.calib b).scale x).contactDue (s.boom b).ctl.state x = s.contactMade b x := rfl
  unfold DepthTracker.placed DepthTracker.feedWindow
  rw [due]
  cases hm : s.contactMade b x with
  | true =>
    have met := (contactMade_iff s b x).1 hm
    simp [State.sampledTracker, State.sampled, State.depthAfter, met, DepthTracker.move, DepthTracker.contact]
  | false =>
    simp only [State.sampledTracker, State.sampled, boom_modTracker_same, boom_modLink_same, depthAfter_unmet hm]
    by_cases ho : (s.boom b).ctl.state = .holeOpen <;> simp [ho, DepthTracker.move]

theorem sampleFace_eq (s : State) (b : Boom) (x : Sample) :
    s.sampleFace b x = (s.sampleTested b x && decide (((s.boom b).tracker.maxDepth : Int) - 800 ≤ s.depthAfter b x)) := by
  unfold State.sampleFace
  rw [placed_eq]
  simp [DepthTracker.atFace, DepthTracker.tests, State.sampledTracker, State.sampled, State.sampleTested]

/-- New ground is where maximum depth goes up. -/
theorem sampleRaises_iff (s : State) (b : Boom) (x : Sample) :
    s.sampleRaises b x = true ↔ s.sampleTested b x = true ∧ (s.boom b).tracker.maxDepth < s.deepestAfter b x := by
  unfold State.sampleRaises
  rw [placed_eq]
  simp [DepthTracker.extends, DepthTracker.tests, State.sampledTracker, State.sampled, State.sampleTested, State.deepestAfter,
      depthLimitUnits,
    and_assoc]

/-- The sample joined to a slice, if R27 lets it. -/
theorem sliceAfter_eq (s : State) (b : Boom) (x : Sample) (o : OpenSlice) :
    s.sliceAfter b x o =
      if (decide (((s.boom b).tracker.maxDepth : Int) - 800 ≤ s.depthAfter b x) && (s.boom b).ctl.run == some .running) = true
      then o.add (x.feed - (s.boom b).tracker.z) (x.rotation * x.speed) else o := by
  unfold State.sliceAfter OpenSlice.add satInc
  cases o.saturated <;> simp

/-- Maximum depth behind the tests of R23. -/
theorem raiseMax_placed {s : State} {b : Boom} {x : Sample} (h : s.sampleTested b x = true) :
    ((s.boom b).tracker.placed (s.boom b).ctl.state (s.calib b).scale x).raiseMax (s.boom b).ctl.state =
      { (s.boom b).tracker.placed (s.boom b).ctl.state (s.calib b).scale x with maxDepth := s.deepestAfter b x } := by
  have raises := sampleRaises_iff s b x
  rw [h, eq_self, true_and] at raises
  have maxDepth : ((s.boom b).tracker.placed (s.boom b).ctl.state (s.calib b).scale x).maxDepth = (s.boom b).tracker.maxDepth := by
    rw [placed_eq]; simp [State.sampledTracker, State.sampled]
  have depth : ((s.boom b).tracker.placed (s.boom b).ctl.state (s.calib b).scale x).depth = s.depthAfter b x := by
    rw [placed_eq]; simp [State.sampledTracker, State.sampled]
  unfold DepthTracker.raiseMax
  cases hr : s.sampleRaises b x with
  | true =>
    have deeper := raises.1 hr
    have ext : ((s.boom b).tracker.placed (s.boom b).ctl.state (s.calib b).scale x).extends (s.boom b).ctl.state = true := hr
    have deepest : min ((s.boom b).tracker.placed (s.boom b).ctl.state (s.calib b).scale x).depth.toNat depthLimitUnits =
        s.deepestAfter b x := by
      rw [depth]; unfold State.deepestAfter depthLimitUnits at *; omega
    rw [if_pos ext, deepest]
  | false =>
    have same : s.deepestAfter b x = (s.boom b).tracker.maxDepth := by
      have : ¬ (s.boom b).tracker.maxDepth < s.deepestAfter b x := fun hd => by rw [raises.2 hd] at hr; cases hr
      unfold State.deepestAfter at *; omega
    have ext : ((s.boom b).tracker.placed (s.boom b).ctl.state (s.calib b).scale x).extends (s.boom b).ctl.state = false := hr
    rw [ext, if_neg (by simp), same, ← maxDepth]

/-- The tracker behind the tests of R23. -/
theorem worked_tested {s : State} {b : Boom} {x : Sample} (h : s.sampleTested b x = true) :
    (s.boom b).tracker.worked (s.boom b).ctl.state ((s.boom b).ctl.run == some .running) (s.calib b).scale x =
      { s.sampledTracker b x with
        contactSeen := true
        maxDepth := s.deepestAfter b x
        slice := (if s.contactMade b x then some (OpenSlice.fresh 0 0) else (s.boom b).tracker.slice).map (s.sliceAfter b x)
        lastSample :=
          { (s.sampledTracker b x).lastSample with
            atFace := decide (((s.boom b).tracker.maxDepth : Int) - 800 ≤ s.depthAfter b x) } } := by
  have face := sampleFace_eq s b x
  have seen : ((s.boom b).tracker.contactSeen || s.contactMade b x) = true := by
    simp only [State.sampleTested, Bool.and_eq_true] at h; exact h.1
  rw [h, Bool.true_and] at face
  simp only [DepthTracker.worked, raiseMax_placed h]
  rw [show DepthTracker.atFace _ _ = s.sampleFace b x from rfl, face, placed_eq, seen]
  generalize (if s.contactMade b x = true then some (OpenSlice.fresh 0 0) else (s.boom b).tracker.slice) = slice
  have joined : slice.map (s.sliceAfter b x) =
      if (decide (((s.boom b).tracker.maxDepth : Int) - 800 ≤ s.depthAfter b x) && (s.boom b).ctl.run == some .running) = true
      then slice.map fun o => o.add (x.feed - (s.boom b).tracker.z) (x.rotation * x.speed) else slice := by
    split
    · rename_i hc; exact congrArg (slice.map ·) (funext fun o => by rw [sliceAfter_eq, if_pos hc])
    · rename_i hc; rw [show s.sliceAfter b x = id from funext fun o => by rw [sliceAfter_eq, if_neg hc]; rfl, Option.map_id]; rfl
  rw [joined]
  unfold DepthTracker.accumulate
  split <;> simp [DepthTracker.corrected, State.sampledTracker, State.sampled]

/-- Where R23 makes no test there is no contact. -/
theorem unmet_of_untested {s : State} {b : Boom} {x : Sample} (h : s.sampleTested b x = false) : s.contactMade b x = false := by
  cases hm : s.contactMade b x with
  | false => rfl
  | true =>
    rw [State.sampleTested, hm, Bool.or_true, ((contactMade_iff s b x).1 hm).1] at h
    cases h

/-- The tracker where R23 makes no test. -/
theorem worked_untested {s : State} {b : Boom} {x : Sample} (h : s.sampleTested b x = false) :
    (s.boom b).tracker.worked (s.boom b).ctl.state ((s.boom b).ctl.run == some .running) (s.calib b).scale x = s.sampledTracker b x := by
  have unmet := unmet_of_untested h
  have raises : ((s.boom b).tracker.placed (s.boom b).ctl.state (s.calib b).scale x).extends (s.boom b).ctl.state = false := by
    rw [← Bool.not_eq_true, show DepthTracker.extends _ _ = s.sampleRaises b x from rfl, sampleRaises_iff, h]; simp
  have face : ((s.boom b).tracker.placed (s.boom b).ctl.state (s.calib b).scale x).atFace (s.boom b).ctl.state = false := by
    rw [show DepthTracker.atFace _ _ = s.sampleFace b x from rfl, sampleFace_eq, h, Bool.false_and]
  simp only [DepthTracker.worked, DepthTracker.raiseMax, raises, face, DepthTracker.accumulate, Bool.false_and, Bool.false_eq_true,
      if_false]
  rw [placed_eq, unmet]
  simp [DepthTracker.corrected, State.sampledTracker, State.sampled]

/-! ### The state behind the tracker's work -/

/-- The sample's entry is taken, and the tracker moved. -/
theorem sampled_eq (s : State) (b : Boom) (x : Sample) : s.sampled b x = (s.entryTaken b).modTracker b fun _ => s.sampledTracker b x :=
  modTracker_congr (by simp [State.sampledTracker, State.sampled])

theorem modTracker_modTracker (s : State) (b : Boom) (f g : DepthTracker → DepthTracker) :
    (s.modTracker b f).modTracker b g = s.modTracker b fun t => g (f t) := modBoom_modBoom s b _ _

theorem workedOn_entryTaken (s : State) (b : Boom) (x : Sample) :
    (s.entryTaken b).workedOn b x =
      let s1 := (s.entryTaken b).modTracker b fun _ =>
        (s.boom b).tracker.worked (s.boom b).ctl.state ((s.boom b).ctl.run == some .running) (s.calib b).scale x
      let s2 := if s.contactMade b x then s1.modCtl b fun c => { c with collarTimer := none } else s1
      if s.sampleRaises b x then s2.closeAtBoundaries b else s2 := by
  have boom : (s.entryTaken b).boom b = { s.boom b with link := (s.boom b).link.takeOldest } := by simp [State.entryTaken]
  unfold State.workedOn
  rw [boom, calib_entryTaken]
  rfl

/-- No test, no change but of the tracker's own. -/
theorem workedOn_untested {s : State} {b : Boom} {x : Sample} (h : s.sampleTested b x = false) :
    (s.entryTaken b).workedOn b x = s.sampled b x := by
  have raises : s.sampleRaises b x = false := by rw [← Bool.not_eq_true, sampleRaises_iff, h]; simp
  rw [workedOn_entryTaken, worked_untested h, unmet_of_untested h, raises, sampled_eq]
  rfl

/-- The sample at collar contact: depth 0 and the first slice, with the sample in it (R22, R26). -/
def State.contacted (s : State) (b : Boom) (x : Sample) : State :=
  ((s.sampled b x).modTracker b fun k =>
    { k with
      contactSeen := true, slice := some (s.sliceAfter b x (OpenSlice.fresh 0 0))
      lastSample := { k.lastSample with atFace := decide ((k.maxDepth : Int) - 800 ≤ 0) } }).modCtl b
        fun c => { c with collarTimer := none }

theorem workedOn_contact {s : State} {b : Boom} {x : Sample} (h : s.contactMade b x = true) :
    (s.entryTaken b).workedOn b x = s.contacted b x := by
  have met := (contactMade_iff s b x).1 h
  have tested : s.sampleTested b x = true := by simp [State.sampleTested, h, met.1, BoomState.cutsGround]
  have depth : s.depthAfter b x = 0 := if_pos met
  have deepest : s.deepestAfter b x = (s.boom b).tracker.maxDepth := by simp [State.deepestAfter, depth]
  have raises : s.sampleRaises b x = false := by rw [← Bool.not_eq_true, sampleRaises_iff, deepest]; simp
  rw [workedOn_entryTaken, worked_tested tested, h, raises, State.contacted, sampled_eq, modTracker_modTracker, depth, deepest]
  simp only [if_true, Bool.false_eq_true, if_false, Option.map_some]
  refine congrArg (State.modCtl · b _) (modTracker_congr ?_)
  simp [State.sampledTracker, State.sampled]

/-- The sample on a bit behind contact, before slices are cut at boundaries: maximum depth raised and the sample joined to the slice. -/
def State.grounded (s : State) (b : Boom) (x : Sample) : State :=
  (s.sampled b x).modTracker b fun k =>
    { k with
      maxDepth := s.deepestAfter b x, slice := k.slice.map (s.sliceAfter b x)
      lastSample := { k.lastSample with atFace := decide ((k.maxDepth : Int) - 800 ≤ s.depthAfter b x) } }

theorem tracker_grounded (s : State) (b : Boom) (x : Sample) :
    ((s.grounded b x).boom b).tracker =
      { s.sampledTracker b x with
        maxDepth := s.deepestAfter b x, slice := (s.boom b).tracker.slice.map (s.sliceAfter b x)
        lastSample :=
          { (s.sampledTracker b x).lastSample with
            atFace := decide (((s.boom b).tracker.maxDepth : Int) - 800 ≤ s.depthAfter b x) } } := by
  simp [State.grounded, State.sampledTracker, State.sampled]

theorem sliceAfter_start (s : State) (b : Boom) (x : Sample) (o : OpenSlice) : (s.sliceAfter b x o).start = o.start := by
  unfold State.sliceAfter; simp only []; split <;> rfl

/-- With new ground the slices closed are those whose boundaries maximum depth reaches. -/
theorem cuts_grounded {s : State} {b : Boom} {x : Sample} (h : (s.boom b).tracker.maxDepth < s.deepestAfter b x) :
    ((s.grounded b x).boom b).tracker.cuts = s.cutsAt b x ∧ ((s.grounded b x).boom b).tracker.reopened = s.openAfter b x := by
  rw [tracker_grounded]
  unfold DepthTracker.cuts DepthTracker.reopened State.cutsAt State.openAfter
  cases (s.boom b).tracker.slice with
  | none => exact ⟨rfl, rfl⟩
  | some o =>
    have reached : (s.sliceAfter b x o).reached (s.deepestAfter b x) = s.boundariesReached b x o := by
      rw [State.boundariesReached, if_pos h, OpenSlice.reached, sliceAfter_start]
    simp only [Option.map_some, reached, sliceAfter_start]
    refine ⟨?_, rfl⟩
    cases s.boundariesReached b x o with
    | zero => rfl
    | succ k => simp only [boundaryCloses, sliceAfter_start]; rfl

/-- Without new ground no slice closes. -/
theorem cutsAt_shallow {s : State} {b : Boom} {x : Sample} (h : ¬ (s.boom b).tracker.maxDepth < s.deepestAfter b x) :
    s.cutsAt b x = [] ∧ s.openAfter b x = (s.boom b).tracker.slice.map (s.sliceAfter b x) := by
  have none' (o : OpenSlice) : s.boundariesReached b x o = 0 := if_neg h
  unfold State.cutsAt State.openAfter
  cases (s.boom b).tracker.slice with
  | none => exact ⟨rfl, rfl⟩
  | some o => simp [none']

/-- Behind contact a sample closes the slices whose boundaries it reaches. -/
theorem workedOn_cutting {s : State} {b : Boom} {x : Sample} (hc : (s.boom b).ctl.state.cutsGround = true)
    (hs : (s.boom b).tracker.contactSeen = true) :
    (s.entryTaken b).workedOn b x =
      ((s.grounded b x).handSlices b (s.cutsAt b x)).modTracker b fun t => { t with slice := s.openAfter b x } := by
  have unmet : s.contactMade b x = false := by rw [← Bool.not_eq_true, contactMade_iff, hs]; simp
  have tested : s.sampleTested b x = true := by simp [State.sampleTested, hs, hc]
  have moved : ((s.entryTaken b).modTracker b fun _ =>
      (s.boom b).tracker.worked (s.boom b).ctl.state ((s.boom b).ctl.run == some .running) (s.calib b).scale x) = s.grounded b x := by
    rw [worked_tested tested, unmet, State.grounded, sampled_eq, modTracker_modTracker]
    refine modTracker_congr ?_
    simp [State.sampledTracker, State.sampled, hs]
  rw [workedOn_entryTaken, moved, unmet]
  simp only [Bool.false_eq_true, if_false]
  cases hr : s.sampleRaises b x with
  | true =>
    obtain ⟨cuts, reopened⟩ := cuts_grounded ((sampleRaises_iff s b x).1 hr).2
    rw [if_pos rfl, closeAtBoundaries_eq, cuts, reopened]
  | false =>
    have shallow : ¬ (s.boom b).tracker.maxDepth < s.deepestAfter b x := fun h => by
      rw [(sampleRaises_iff s b x).2 ⟨tested, h⟩] at hr; cases hr
    obtain ⟨cuts, kept⟩ := cutsAt_shallow shallow
    rw [if_neg (by simp), cuts, kept, State.handSlices, List.foldl_nil]
    exact (modTracker_self (by rw [tracker_grounded])).symm

end Sys2Proof.Machine

/-! ## What every sample that is no glitch does (O26) -/
namespace Sys2Proof.Machine

/-! ### Elsewhere -/

theorem elsewhere_modBoom (s : State) (b : Boom) (f : BoomUnit → BoomUnit) : s.elsewhere (s.modBoom b f) b :=
  ⟨by simp, by simp, by rw [boom_modBoom_other _ (otherBoom_ne b)]⟩

theorem State.elsewhere.refl (s : State) (b : Boom) : s.elsewhere s b := ⟨rfl, rfl, rfl⟩

theorem elsewhere_handSlices (s : State) (b : Boom) (cs : List ClosedSlice) : s.elsewhere (s.handSlices b cs) b :=
  ⟨backdrop_handSlices b cs s, (handSlices_keeps b cs s).2.2.2.2, by rw [boom_handSlices_other (otherBoom_ne b)]⟩

theorem elsewhere_spinToHold (s : State) (b : Boom) : s.elsewhere (s.spinToHold b) b :=
  ⟨by simp, by simp, ungranted_spinToHold s (otherBoom_ne b)⟩

theorem elsewhere_endOnSample (s : State) (b : Boom) (e : SampleEnd) : s.elsewhere (s.endOnSample b e) b := by
  cases e with
  | clear => exact elsewhere_trans (elsewhere_modBoom s b _) (elsewhere_endStage _ b _ _ _)
  | mixed => exact elsewhere_spinToHold s b
  | _ => exact elsewhere_endStage s b _ _ _

/-- The step from SPINNING to HOLDING moves its boom's controller, and what a grant moves. -/
theorem ungranted_spinToHold_same (s : State) (b : Boom) :
    ((s.spinToHold b).boom b).ungranted =
      ({ s.boom b with ctl := { (s.boom b).ctl.enterStage .holding with holdTimer := some 0, gelDeadline := none } } :
        BoomUnit).ungranted := by
  simp only [State.spinToHold, boom_raise, ungranted_reallocate, boom_arbiter, boom_modCtl_same]

theorem spinToHold_kept (s : State) (b : Boom) :
    ((s.spinToHold b).boom b).tracker = (s.boom b).tracker ∧ ((s.spinToHold b).boom b).link.fifo = (s.boom b).link.fifo := by
  have h := ungranted_spinToHold_same s b
  exact ⟨(congrArg BoomUnit.tracker h :), (congrArg (fun u : BoomUnit => u.link.fifo) h :)⟩

/-! ### The parts of the tracker that no test and no end moves -/

/-- The part of the tracker that R19, R20, R24 and R33 move. -/
def DepthTracker.stem (t : DepthTracker) : DepthTracker :=
  { DepthTracker.reset with
    encoderRef := t.encoderRef, glitchRun := t.glitchRun, depth := t.depth, window := t.window, latestCartridge := t.latestCartridge }

theorem stem_of_core {t u : DepthTracker} (h : t.core = u.core) : t.stem = u.stem :=
  show t.core.stem = u.core.stem from congrArg _ h

theorem stem_of_unrun {t u : DepthTracker} (h : t.unrun = u.unrun) : t.stem = u.stem :=
  show t.unrun.stem = u.unrun.stem from congrArg _ h

theorem stem_endOnSample (s : State) (b : Boom) (e : SampleEnd) :
    ((s.endOnSample b e).boom b).tracker.stem = (s.boom b).tracker.stem := by
  cases e with
  | clear =>
    refine (stem_of_core (core_endStage _ b _ _ _)).trans ?_
    rw [boom_modTracker_same]
    rfl
  | mixed => exact congrArg _ (spinToHold_kept s b).1
  | _ => exact stem_of_core (core_endStage _ b _ _ _)

theorem fifo_endOnSample (s : State) (b : Boom) (e : SampleEnd) : ((s.endOnSample b e).boom b).link.fifo = (s.boom b).link.fifo := by
  have ended (t : State) (e : StageEnd) (x : Option Nat) (st : BoomState × Option RunCondition) :
      ((t.endStage b e x st).boom b).link.fifo = (t.boom b).link.fifo := by rw [link_endStage]; split <;> rfl
  cases e with
  | clear => exact (ended _ _ _ _).trans (by rw [boom_modTracker_same])
  | mixed => exact (spinToHold_kept s b).2
  | _ => exact ended _ _ _ _

/-- The three ways of the tracker's work on a sample: no test, contact, or a bit behind contact in COLLARING or DRILLING. -/
theorem sample_cases (s : State) (b : Boom) (x : Sample) :
    s.sampleTested b x = false ∨ s.contactMade b x = true ∨
      ((s.boom b).ctl.state.cutsGround = true ∧ (s.boom b).tracker.contactSeen = true) := by
  cases ht : s.sampleTested b x with
  | false => exact .inl rfl
  | true =>
    cases hm : s.contactMade b x with
    | true => exact .inr (.inl rfl)
    | false =>
      simp only [State.sampleTested, hm, Bool.or_false, Bool.and_eq_true] at ht
      exact .inr (.inr ⟨ht.2, ht.1⟩)

/-- What the tracker's work keeps, whatever it finds. -/
structure State.Worked (s t : State) (b : Boom) (x : Sample) : Prop where
  apart : s.elsewhere t b
  stem : (t.boom b).tracker.stem = (s.sampledTracker b x).stem
  link : (t.boom b).link = (s.boom b).link.takeOldest

theorem State.Worked.modTracker {s t : State} {b : Boom} {x : Sample} (h : s.Worked t b x) {f : DepthTracker → DepthTracker}
    (hf : (f (t.boom b).tracker).stem = (t.boom b).tracker.stem) : s.Worked (t.modTracker b f) b x :=
  ⟨elsewhere_trans h.apart (elsewhere_modBoom t b _), by rw [boom_modTracker_same]; exact hf.trans h.stem,
    by rw [boom_modTracker_same]; exact h.link⟩

theorem State.Worked.modCtl {s t : State} {b : Boom} {x : Sample} (h : s.Worked t b x) (f : Controller → Controller) :
    s.Worked (t.modCtl b f) b x :=
  ⟨elsewhere_trans h.apart (elsewhere_modBoom t b _), by rw [boom_modCtl_same]; exact h.stem, by rw [boom_modCtl_same]; exact h.link⟩

theorem worked_sampled (s : State) (b : Boom) (x : Sample) : s.Worked (s.sampled b x) b x :=
  ⟨elsewhere_trans (elsewhere_modBoom s b _) (elsewhere_modBoom _ b _), rfl, by simp [State.sampled, HeadLink.takeOldest]⟩

theorem worked_workedOn (s : State) (b : Boom) (x : Sample) : s.Worked ((s.entryTaken b).workedOn b x) b x := by
  rcases sample_cases s b x with h | h | ⟨hc, hs⟩
  · rw [workedOn_untested h]; exact worked_sampled s b x
  · rw [workedOn_contact h]; exact ((worked_sampled s b x).modTracker rfl).modCtl _
  · rw [workedOn_cutting hc hs]
    have grounded : s.Worked (s.grounded b x) b x := (worked_sampled s b x).modTracker rfl
    refine State.Worked.modTracker ⟨elsewhere_trans grounded.apart (elsewhere_handSlices _ b _), ?_, ?_⟩ rfl
    · rw [boom_handSlices]; exact grounded.stem
    · rw [boom_handSlices]; exact grounded.link

theorem worked_sampleCounted (s : State) (b : Boom) (x : Sample) : s.Worked (s.sampleCounted b x) b x := by
  obtain ⟨f, hruns, hf⟩ := state_trackRuns ((s.entryTaken b).workedOn b x) b x (s.sampleFace b x) (s.sampleRaises b x)
    (s.boom b).tracker.maxDepth
  obtain ⟨g, hcount, -⟩ := boom_countSample (s.sampleTracked b x).state b x
  have tracked : s.Worked (s.sampleTracked b x).state b x := by
    rw [show (s.sampleTracked b x).state = _ from hruns]
    exact (worked_workedOn s b x).modTracker (stem_of_unrun (hf _))
  rw [State.sampleCounted, hcount]
  exact tracked.modCtl g

/-- Whatever the sample brings: the rest of the machine stays, and the tracker takes the count, the depth and the feed window. -/
theorem take_moves {s : State} {b : Boom} {x : Sample} (hn : s.nextSample b x) (ha : (s.boom b).tracker.accepts x) :
    s.elsewhere (s.take b).state b ∧ ((s.take b).state.boom b).tracker.stem = (s.sampledTracker b x).stem ∧
      ((s.take b).state.boom b).link.fifo = (s.boom b).link.fifo.drop 1 := by
  obtain ⟨apart, stem, link⟩ := worked_sampleCounted s b x
  rw [take_of_sample hn ha]
  split
  · rename_i e _
    exact ⟨elsewhere_trans apart (elsewhere_endOnSample _ b e), (stem_endOnSample _ b e).trans stem,
      (fifo_endOnSample _ b e).trans (by rw [link]; rfl)⟩
  · exact ⟨apart, stem, by rw [link]; rfl⟩

/-! ### Samples that end no stage -/

/-- A sample that ends nothing leaves the state in which it is judged. -/
theorem take_of_going {s : State} {b : Boom} {x : Sample} (hn : s.nextSample b x) (ha : (s.boom b).tracker.accepts x)
    (h : sampleEnd (s.sampleCounted b x) b (s.sampleTracked b x) = none) : (s.take b).state = s.sampleCounted b x := by
  rw [take_of_sample hn ha, h]

theorem trackRuns_idle {s : State} {b : Boom} (h : (s.boom b).ctl.run ≠ some .running ∨
    ((s.boom b).ctl.state ≠ .drilling ∧ (s.boom b).ctl.state ≠ .inserting)) (x : Sample) (face raised : Bool) (before : Nat) :
    s.trackRuns b x face raised before =
      { state := s, refDropped := false, processed := true, raisedMax := raised, stall := false, block := false, plate := .none } := by
  unfold State.trackRuns
  by_cases hr : (s.boom b).ctl.run = some .running
  · obtain ⟨hd, hi⟩ := h.resolve_left (not_not.2 hr)
    simp [hr, hd, hi]
  · simp [hr]

theorem countSample_idle {s : State} {b : Boom} (h : (s.boom b).ctl.run ≠ some .running ∨
    ((s.boom b).ctl.state ≠ .spinning ∧ (s.boom b).ctl.state ≠ .torquing)) (x : Sample) : s.countSample b x = s := by
  unfold State.countSample
  by_cases hr : (s.boom b).ctl.run = some .running
  · obtain ⟨hd, hi⟩ := h.resolve_left (not_not.2 hr)
    simp [hr, hd, hi]
  · simp [hr]

end Sys2Proof.Machine

/-! ## Samples that end no stage (O26) -/
namespace Sys2Proof.Machine

/-- What the tracker makes of a sample that moves no run. -/
def idleTracked (s : State) (raised : Bool) : Tracked :=
  { state := s, refDropped := false, processed := true, raisedMax := raised, stall := false, block := false, plate := .none }

theorem ctl_sampled (s : State) (b : Boom) (x : Sample) : ((s.sampled b x).boom b).ctl = (s.boom b).ctl := by simp [State.sampled]
theorem anchorage_sampled (s : State) (b : Boom) (x : Sample) : ((s.sampled b x).boom b).anchorage = (s.boom b).anchorage := by
  simp [State.sampled]
theorem params_sampled (s : State) (b : Boom) (x : Sample) : (s.sampled b x).params = s.params :=
  congrArg Backdrop.params (by simp [State.sampled] : State.backdrop _ = s.backdrop)

/-! ### No test to make -/

theorem untested_of_uncut {s : State} {b : Boom} (h : (s.boom b).ctl.state.cutsGround = false) (x : Sample) :
    s.sampleTested b x = false := by simp [State.sampleTested, h]

theorem untested_of_unseen {s : State} {b : Boom} {x : Sample} (h : (s.boom b).tracker.contactSeen = false) (hx : x.collar = false) :
    s.sampleTested b x = false := by simp [State.sampleTested, State.contactMade, DepthTracker.contactDue, h, hx]

/-- No test, and neither a run of the tracker nor a count of the controller moves. -/
theorem sampled_idle {s : State} {b : Boom} {x : Sample} (ht : s.sampleTested b x = false)
    (hi : (s.boom b).ctl.run ≠ some .running ∨ ((s.boom b).ctl.state ≠ .drilling ∧ (s.boom b).ctl.state ≠ .inserting ∧
      (s.boom b).ctl.state ≠ .spinning ∧ (s.boom b).ctl.state ≠ .torquing)) :
    s.sampleTracked b x = idleTracked (s.sampled b x) (s.sampleRaises b x) ∧ s.sampleCounted b x = s.sampled b x := by
  have tracked : s.sampleTracked b x = idleTracked (s.sampled b x) (s.sampleRaises b x) := by
    unfold State.sampleTracked
    rw [workedOn_untested ht, trackRuns_idle (by rw [ctl_sampled]; tauto), idleTracked]
  refine ⟨tracked, ?_⟩
  rw [State.sampleCounted, tracked]
  exact countSample_idle
      (by rw [show (idleTracked (s.sampled b x) (s.sampleRaises b x)).state = s.sampled b x from rfl, ctl_sampled]; tauto) x

theorem depth_sampled (s : State) (b : Boom) (x : Sample) :
    ((s.sampled b x).boom b).tracker.depth = s.depthAfter b x ∧
      ((s.sampled b x).boom b).tracker.contactSeen = (s.boom b).tracker.contactSeen := by
  simp [State.sampled]

/-- The samples that change nothing but what every sample changes. -/
theorem take_of_quiet {s : State} {b : Boom} {x : Sample} (hn : s.nextSample b x) (ha : (s.boom b).tracker.accepts x)
    (h : (s.boom b).ctl.state.isStage = false ∨ (s.boom b).ctl.state = .holding ∨
      ((s.boom b).ctl.state = .retracting ∧ -((s.params.plan.clearDistance * 800 : Nat) : Int) < s.depthAfter b x) ∨
      ((s.boom b).ctl.state = .collaring ∧ (s.boom b).tracker.contactSeen = false ∧ x.collar = false) ∨
      (((s.boom b).ctl.state = .inserting ∨ (s.boom b).ctl.state = .spinning ∨ (s.boom b).ctl.state = .torquing) ∧
        (s.boom b).ctl.run ≠ some .running)) : (s.take b).state = s.sampled b x := by
  have ctl := ctl_sampled s b x
  have untested : s.sampleTested b x = false := by
    rcases h with h | h | ⟨h, -⟩ | ⟨-, h, hx⟩ | ⟨h | h | h, -⟩
    · exact untested_of_uncut (by revert h; cases (s.boom b).ctl.state <;> simp [BoomState.isStage, BoomState.cutsGround]) x
    · exact untested_of_uncut (by rw [h]; rfl) x
    · exact untested_of_uncut (by rw [h]; rfl) x
    · exact untested_of_unseen h hx
    · exact untested_of_uncut (by rw [h]; rfl) x
    · exact untested_of_uncut (by rw [h]; rfl) x
    · exact untested_of_uncut (by rw [h]; rfl) x
  have idle : (s.boom b).ctl.run ≠ some .running ∨ ((s.boom b).ctl.state ≠ .drilling ∧ (s.boom b).ctl.state ≠ .inserting ∧
      (s.boom b).ctl.state ≠ .spinning ∧ (s.boom b).ctl.state ≠ .torquing) := by
    rcases h with h | h | ⟨h, -⟩ | ⟨h, -⟩ | ⟨-, h⟩
    · exact .inr (by revert h; cases (s.boom b).ctl.state <;> simp [BoomState.isStage])
    · exact .inr (by rw [h]; simp)
    · exact .inr (by rw [h]; simp)
    · exact .inr (by rw [h]; simp)
    · exact .inl h
  obtain ⟨tracked, counted⟩ := sampled_idle untested idle
  obtain ⟨depth, seen⟩ := depth_sampled s b x
  rw [take_of_going hn ha, counted]
  rw [counted, tracked]
  unfold sampleEnd
  simp only [ctl, depth, seen, params_sampled, idleTracked]
  rcases h with h | h | ⟨h, hd⟩ | ⟨h, hs, -⟩ | ⟨h | h | h, hr⟩
  · revert h; cases (s.boom b).ctl.state <;> simp [BoomState.isStage]
  · simp [h]
  · simp only [h]; rw [if_neg (by omega)]
  · simp [h, hs]
  · simp [h]
  · simp [h, hr]
  · simp [h, hr]

/-! ### Collar contact -/

theorem take_of_contact {s : State} {b : Boom} {x : Sample} (hn : s.nextSample b x) (ha : (s.boom b).tracker.accepts x)
    (hst : (s.boom b).ctl.state = .collaring) (hx : x.collar = true) (hs : (s.boom b).tracker.contactSeen = false)
    (hd : 0 < s.params.plan.collarDepth) : (s.take b).state = s.contacted b x := by
  have met : s.contactMade b x = true := (contactMade_iff s b x).2 ⟨hst, hx, hs⟩
  have state : ((s.contacted b x).boom b).ctl.state = .collaring := by simp [State.contacted, ctl_sampled, hst]
  have tracked : s.sampleTracked b x = idleTracked (s.contacted b x) (s.sampleRaises b x) := by
    unfold State.sampleTracked
    rw [workedOn_contact met, trackRuns_idle (.inr (by rw [state]; simp)), idleTracked]
  have counted : s.sampleCounted b x = s.contacted b x := by
    rw [State.sampleCounted, tracked]
    exact countSample_idle (.inr (by rw [show (idleTracked (s.contacted b x) _).state = s.contacted b x from rfl, state]; simp)) x
  have depth : ((s.contacted b x).boom b).tracker.depth = 0 := by
    simp only [State.contacted, boom_modCtl_same, boom_modTracker_same, depth_sampled]
    exact if_pos ⟨hst, hx, hs⟩
  have plan : (s.contacted b x).params = s.params :=
    congrArg Backdrop.params (by simp [State.contacted, State.sampled] : State.backdrop _ = s.backdrop)
  rw [take_of_going hn ha, counted]
  rw [counted]
  unfold sampleEnd
  simp only [state, depth, plan]
  rw [if_neg (by omega)]

/-! ### A bit behind contact -/

/-- The state behind a sample in COLLARING or DRILLING that ends nothing: ground, slices and the stall run (R23 to R31). -/
def State.drilledOn (s : State) (b : Boom) (x : Sample) : State :=
  ((s.grounded b x).handSlices b (s.cutsAt b x)).modTracker b fun t =>
    { t with slice := s.openAfter b x, stallCount := (s.stallAfter b x).1, stallBase := (s.stallAfter b x).2 }

/-- The state behind the boundaries that the sample reaches, before the stall run. -/
def State.cutOn (s : State) (b : Boom) (x : Sample) : State :=
  ((s.grounded b x).handSlices b (s.cutsAt b x)).modTracker b fun t => { t with slice := s.openAfter b x }

theorem boom_cutOn (s : State) (b : Boom) (x : Sample) :
    ((s.cutOn b x).boom b).tracker =
        { ((s.grounded b x).boom b).tracker with
          handedBottom := bottomAfter (s.boom b).tracker.handedBottom (s.cutsAt b x), slice := s.openAfter b x } ∧
      ((s.cutOn b x).boom b).ctl = { (s.boom b).ctl with hole := ((s.cutOn b x).boom b).ctl.hole } ∧
      ((s.cutOn b x).boom b).ctl.hole.map HoleRecord.planDepth = (s.boom b).ctl.hole.map HoleRecord.planDepth ∧
      (s.cutOn b x).params = s.params := by
  have ctl : ((s.grounded b x).boom b).ctl = (s.boom b).ctl := by simp [State.grounded, ctl_sampled]
  have bottom : ((s.grounded b x).boom b).tracker.handedBottom = (s.boom b).tracker.handedBottom := by
    simp [State.grounded, State.sampled]
  have back : (s.cutOn b x).backdrop = s.backdrop := by simp [State.cutOn, backdrop_handSlices, State.grounded, State.sampled]
  rw [State.cutOn, boom_modTracker_same, boom_handSlices]
  simp only [BoomUnit.withSlices, bottom, ctl]
  refine ⟨trivial, trivial, ?_, congrArg Backdrop.params back⟩
  cases (s.boom b).ctl.hole <;> rfl

/-- The depth from which a stall run counts new ground (R31). -/
def DepthTracker.stallFrom (k : DepthTracker) : Nat := if k.stallCount = 0 then k.maxDepth else k.stallBase

theorem stallAfter_running {s : State} {b : Boom} {x : Sample} (hst : (s.boom b).ctl.state = .drilling)
    (hr : (s.boom b).ctl.run = some .running) :
    s.stallAfter b x =
      if ((s.boom b).tracker.maxDepth : Int) - 800 ≤ s.depthAfter b x ∧
          s.params.plan.stallPressure ≤ x.feed - (s.boom b).tracker.z then
        (if s.deepestAfter b x < (s.boom b).tracker.stallFrom + 800 then (s.boom b).tracker.stallCount + 1 else 0,
          (s.boom b).tracker.stallFrom)
      else (0, (s.boom b).tracker.stallBase) := if_pos ⟨hst, hr⟩

/-- The stall run of R31, below its limit. -/
theorem stallStep_of {s : State} {b : Boom} {x : Sample} (hst : (s.boom b).ctl.state = .drilling)
    (hr : (s.boom b).ctl.run = some .running) (h : (s.stallAfter b x).1 < 250) :
    stallStep (s.boom b).tracker.stallCount (s.boom b).tracker.stallBase (s.boom b).tracker.maxDepth (s.deepestAfter b x)
        (decide (((s.boom b).tracker.maxDepth : Int) - 800 ≤ s.depthAfter b x) &&
          decide (s.params.plan.stallPressure ≤ x.feed - (s.boom b).tracker.z)) =
      ((s.stallAfter b x).1, (s.stallAfter b x).2, false) := by
  rw [stallAfter_running hst hr] at h ⊢
  unfold stallStep
  rw [show (if (s.boom b).tracker.stallCount = 0 then (s.boom b).tracker.maxDepth else (s.boom b).tracker.stallBase) =
    (s.boom b).tracker.stallFrom from rfl]
  generalize (s.boom b).tracker.stallFrom = base at h ⊢
  by_cases hq : ((s.boom b).tracker.maxDepth : Int) - 800 ≤ s.depthAfter b x ∧ s.params.plan.stallPressure ≤ x.feed - (s.boom b).tracker.z
  · rw [if_pos hq] at h ⊢
    rw [if_pos (by simpa using hq)]
    by_cases hd : s.deepestAfter b x < base + 800
    · rw [if_pos hd] at h
      rw [if_neg (by omega), if_neg (by omega), if_pos hd]
    · rw [if_pos (by omega), if_neg hd]
  · rw [if_neg hq, if_neg (by simpa using hq)]

theorem drilledOn_eq (s : State) (b : Boom) (x : Sample) :
    s.drilledOn b x = (s.cutOn b x).modTracker b fun t =>
      { t with stallCount := (s.stallAfter b x).1, stallBase := (s.stallAfter b x).2 } := by
  rw [State.cutOn, modTracker_modTracker]
  rfl

/-- In COLLARING and DRILLING behind contact, the tracker's work and the run. -/
theorem tracked_cutting {s : State} {b : Boom} {x : Sample} (hs : (s.boom b).tracker.contactSeen = true)
    (hc : (s.boom b).ctl.state.cutsGround = true) (h : (s.boom b).ctl.state = .drilling → (s.stallAfter b x).1 < 250) :
    s.sampleTracked b x = idleTracked (s.drilledOn b x) (s.sampleRaises b x) := by
  obtain ⟨tracker, ctl, -, plan⟩ := boom_cutOn s b x
  have unmet : s.contactMade b x = false := by rw [← Bool.not_eq_true, contactMade_iff, hs]; simp
  have tested : s.sampleTested b x = true := by simp [State.sampleTested, hs, hc]
  have face := sampleFace_eq s b x
  rw [tested, Bool.true_and] at face
  have own := tracker_grounded s b x
  have k : ((s.cutOn b x).boom b).tracker.stallCount = (s.boom b).tracker.stallCount ∧
      ((s.cutOn b x).boom b).tracker.stallBase = (s.boom b).tracker.stallBase ∧
      ((s.cutOn b x).boom b).tracker.maxDepth = s.deepestAfter b x ∧
      ((s.cutOn b x).boom b).tracker.corrected x = x.feed - (s.boom b).tracker.z := by
    rw [tracker, own]; simp [DepthTracker.corrected, State.sampledTracker, State.sampled]
  obtain ⟨k1, k2, k3, k4⟩ := k
  have state : ((s.cutOn b x).boom b).ctl.state = (s.boom b).ctl.state ∧ ((s.cutOn b x).boom b).ctl.run = (s.boom b).ctl.run := by
    rw [ctl]; exact ⟨rfl, rfl⟩
  unfold State.sampleTracked
  rw [workedOn_cutting hc hs, ← State.cutOn]
  by_cases hi : (s.boom b).ctl.run = some .running ∧ (s.boom b).ctl.state = .drilling
  · obtain ⟨hr, hd⟩ := hi
    unfold State.trackRuns
    simp only [state, hr, hd, k1, k2, k3, k4, plan, face, stallStep_of hd hr (h hd)]
    rw [drilledOn_eq]
    rfl
  · have still : s.stallAfter b x = ((s.boom b).tracker.stallCount, (s.boom b).tracker.stallBase) := if_neg fun h => hi ⟨h.2, h.1⟩
    have same : s.drilledOn b x = s.cutOn b x := by
      rw [drilledOn_eq, still]
      exact modTracker_self (by rw [← k1, ← k2])
    rw [trackRuns_idle ?_, same, idleTracked]
    rw [state.1, state.2]
    have : (s.boom b).ctl.state ≠ .inserting := fun h => by rw [h] at hc; cases hc
    tauto

theorem take_of_ground {s : State} {b : Boom} {x : Sample} (hn : s.nextSample b x) (ha : (s.boom b).tracker.accepts x)
    (hs : (s.boom b).tracker.contactSeen = true)
    (h : ((s.boom b).ctl.state = .collaring ∧ s.depthAfter b x < (s.params.plan.collarDepth * 800 : Nat)) ∨
      ((s.boom b).ctl.state = .drilling ∧ s.deepestAfter b x < 2040000 ∧
        (s.deepestAfter b x = (s.boom b).tracker.maxDepth ∨
          ∃ h, (s.boom b).ctl.hole = some h ∧ s.deepestAfter b x < h.planDepth * 800) ∧ (s.stallAfter b x).1 < 250)) :
    (s.take b).state = s.drilledOn b x := by
  have cuts : (s.boom b).ctl.state.cutsGround = true := by rcases h with ⟨h, -⟩ | ⟨h, -⟩ <;> rw [h] <;> rfl
  have tracked := tracked_cutting hs cuts (x := x) fun hd => by
    rcases h with ⟨h, -⟩ | ⟨-, -, -, h⟩
    · rw [h] at hd; cases hd
    · exact h
  obtain ⟨tracker, ctl, hole, plan⟩ := boom_cutOn s b x
  have boom : (s.drilledOn b x).boom b = { (s.cutOn b x).boom b with
      tracker := { ((s.cutOn b x).boom b).tracker with stallCount := (s.stallAfter b x).1, stallBase := (s.stallAfter b x).2 } } := by
    rw [drilledOn_eq, boom_modTracker_same]
  have state : ((s.drilledOn b x).boom b).ctl.state = (s.boom b).ctl.state := by rw [boom, ctl]
  have counted : s.sampleCounted b x = s.drilledOn b x := by
    rw [State.sampleCounted, tracked]
    refine countSample_idle (.inr ?_) x
    rw [show (idleTracked (s.drilledOn b x) _).state = s.drilledOn b x from rfl, state]
    rcases h with ⟨h, -⟩ | ⟨h, -⟩ <;> rw [h] <;> simp
  have depths : ((s.drilledOn b x).boom b).tracker.depth = s.depthAfter b x ∧
      ((s.drilledOn b x).boom b).tracker.maxDepth = s.deepestAfter b x := by
    rw [boom, tracker, tracker_grounded]; simp [State.sampledTracker, State.sampled]
  have plans : (s.drilledOn b x).params = s.params ∧
      ((s.drilledOn b x).boom b).ctl.hole.map HoleRecord.planDepth = (s.boom b).ctl.hole.map HoleRecord.planDepth := by
    rw [boom]; exact ⟨(by rw [drilledOn_eq]; simpa using plan), hole⟩
  rw [take_of_going hn ha, counted]
  rw [counted, tracked]
  unfold sampleEnd
  simp only [state, depths, plans, idleTracked]
  rcases h with ⟨h, hd⟩ | ⟨h, hl, hd, -⟩
  · simp only [h]; rw [if_neg (by omega)]
  · have raised : ¬(s.sampleRaises b x = true ∧ ((s.boom b).ctl.hole.map HoleRecord.planDepth).getD 0 * 800 ≤ s.deepestAfter b x) := by
      rintro ⟨hr, hp⟩
      rcases hd with hd | ⟨hole, hh, hd⟩
      · have := ((sampleRaises_iff s b x).1 hr).2; omega
      · rw [hh] at hp; exact absurd hp (by simpa using hd)
    simp only [h]
    rw [if_neg (by unfold depthLimitUnits; omega), if_neg raised]
    rfl

/-! ### A RUNNING stage of the bolt -/

theorem take_of_mixing {s : State} {b : Boom} {x : Sample} {a : Anchorage} (hn : s.nextSample b x) (ha : (s.boom b).tracker.accepts x)
    (hanch : (s.boom b).anchorage = some a) (hr : (s.boom b).ctl.run = some .running) (hst : (s.boom b).ctl.state = .spinning)
    (h : min 4294967295 ((s.boom b).ctl.mix + x.speed) < a.mixTarget) :
    (s.take b).state = (s.sampled b x).modCtl b fun c => { c with mix := min 4294967295 (c.mix + x.speed) } := by
  have ctl := ctl_sampled s b x
  have tracked : s.sampleTracked b x = idleTracked (s.sampled b x) (s.sampleRaises b x) := by
    unfold State.sampleTracked
    rw [workedOn_untested (untested_of_uncut (by rw [hst]; rfl) x), trackRuns_idle (.inr (by rw [ctl, hst]; simp)), idleTracked]
  have counted : s.sampleCounted b x = (s.sampled b x).modCtl b fun c => { c with mix := min 4294967295 (c.mix + x.speed) } := by
    rw [State.sampleCounted, tracked]
    simp only [State.countSample, idleTracked, ctl, hr, hst]
    rfl
  rw [take_of_going hn ha, counted]
  rw [counted, tracked]
  unfold sampleEnd
  simp only [boom_modCtl_same, ctl, hst, anchorage_sampled, hanch]
  rw [if_neg]
  rintro ⟨-, hm⟩
  exact absurd h (not_lt.2 hm)

theorem torqueSample_eq (c : Controller) (a : Anchorage) (x : Sample) : c.torqueSample a.pTq x = c.torqued a x := by
  have reach : reachLevel a.pTq ≤ x.rotation ↔ a.pTq * 60 ≤ x.rotation * 100 := by
    unfold reachLevel ceilDiv; omega
  simp only [Controller.torqueSample, Controller.torqued, satAdd32, reach, Bool.and_eq_true, decide_eq_true_eq]

theorem take_of_torquing {s : State} {b : Boom} {x : Sample} {a : Anchorage} (hn : s.nextSample b x) (ha : (s.boom b).tracker.accepts x)
    (hanch : (s.boom b).anchorage = some a) (hr : (s.boom b).ctl.run = some .running) (hst : (s.boom b).ctl.state = .torquing)
    (hold : ((s.boom b).ctl.torqued a x).holdRun < 250) (slip : ((s.boom b).ctl.torqued a x).slipRun < 100)
    (turns : ((s.boom b).ctl.torqued a x).torqueAcc ≤ s.params.plan.rTq * 30000) :
    (s.take b).state = (s.sampled b x).modCtl b fun c => c.torqued a x := by
  have ctl := ctl_sampled s b x
  have tracked : s.sampleTracked b x = idleTracked (s.sampled b x) (s.sampleRaises b x) := by
    unfold State.sampleTracked
    rw [workedOn_untested (untested_of_uncut (by rw [hst]; rfl) x), trackRuns_idle (.inr (by rw [ctl, hst]; simp)), idleTracked]
  have counted : s.sampleCounted b x = (s.sampled b x).modCtl b fun c => c.torqued a x := by
    rw [State.sampleCounted, tracked]
    simp only [State.countSample, idleTracked, ctl, hr, hst, anchorage_sampled, hanch]
    simp [torqueSample_eq]
  have state : ((s.boom b).ctl.torqued a x).state = .torquing := hst
  have plan : State.params ((s.sampled b x).modCtl b fun c => c.torqued a x) = s.params :=
    (congrArg Backdrop.params (by simp : State.backdrop _ = (s.sampled b x).backdrop)).trans (params_sampled s b x)
  rw [take_of_going hn ha, counted]
  rw [counted, tracked]
  unfold sampleEnd
  have going : torqueEnd ((s.boom b).ctl.torqued a x) s.params.plan.rTq = none := by
    unfold torqueEnd
    rw [if_neg (by omega), if_neg (by omega), if_neg (by omega)]
  simp only [boom_modCtl_same, ctl, state, plan, going, ite_self]

theorem take_of_inserting {s : State} {b : Boom} {x : Sample} {a : Anchorage} (hn : s.nextSample b x) (ha : (s.boom b).tracker.accepts x)
    (hanch : (s.boom b).anchorage = some a) (hr : (s.boom b).ctl.run = some .running) (hst : (s.boom b).ctl.state = .inserting)
    (hp : x.plate = false) (h : s.blockAfter b x a < 150) :
    (s.take b).state = (s.sampled b x).modTracker b fun k => { k with blockRun := s.blockAfter b x a } := by
  have ctl := ctl_sampled s b x
  have line : ((s.sampled b x).boom b).insertLine = ((a.d : Int) - 150) * 800 := by
    simp [BoomUnit.insertLine, anchorage_sampled, hanch]
  have k : ((s.sampled b x).boom b).tracker.blockRun = (s.boom b).tracker.blockRun ∧
      ((s.sampled b x).boom b).tracker.corrected x = x.feed - (s.boom b).tracker.z := by simp [State.sampled, DepthTracker.corrected]
  have step : blockStep (s.boom b).tracker.blockRun (decide (s.depthAfter b x < ((a.d : Int) - 150) * 800) &&
      decide (s.params.plan.blockPressure ≤ x.feed - (s.boom b).tracker.z)) = (s.blockAfter b x a, false) := by
    unfold State.blockAfter blockStep at *
    simp only [Bool.and_eq_true, decide_eq_true_eq]
    split
    · rename_i hq
      rw [if_pos hq] at h
      rw [if_neg (by omega)]
    · rfl
  have tracked : s.sampleTracked b x =
      idleTracked ((s.sampled b x).modTracker b fun k => { k with blockRun := s.blockAfter b x a }) (s.sampleRaises b x) := by
    unfold State.sampleTracked
    rw [workedOn_untested (untested_of_uncut (by rw [hst]; rfl) x)]
    unfold State.trackRuns
    simp only [ctl, hr, hst, line, k, params_sampled, depth_sampled, step, hp, idleTracked]
    rfl
  have counted : s.sampleCounted b x = (s.sampled b x).modTracker b fun k => { k with blockRun := s.blockAfter b x a } := by
    rw [State.sampleCounted, tracked]
    exact countSample_idle (.inr (by simp [idleTracked, ctl, hst])) x
  rw [take_of_going hn ha, counted]
  rw [counted, tracked]
  unfold sampleEnd
  simp only [boom_modTracker_same, ctl, hst, idleTracked]
  rfl

/-! ### The obligation -/

theorem drilledOn_keeps (s : State) (b : Boom) (x : Sample) :
    (s.drilledOn b x).arbiter = s.arbiter ∧ (s.drilledOn b x).rowMap = s.rowMap ∧ s.logsKept (s.drilledOn b x) ∧
      s.flagged (s.drilledOn b x) (s.slicesFlag b (s.cutsAt b x)) := by
  have back : (s.grounded b x).backdrop = s.backdrop := by simp [State.grounded, State.sampled]
  have strata : ((s.grounded b x).boom b).strata = (s.boom b).strata := by simp [State.grounded, State.sampled, BoomUnit.strata]
  obtain ⟨arbiter, row, holes, faults, -⟩ := handSlices_keeps b (s.cutsAt b x) (s.grounded b x)
  have flags := flagged_handSlices b (s.cutsAt b x) (s.grounded b x)
  rw [slicesFlag_congr back strata] at flags
  refine ⟨?_, ?_, ⟨?_, ?_⟩, ?_⟩
  · exact (arbiter_modTracker _ b _).trans (arbiter.trans (by simp [State.grounded, State.sampled]))
  · exact (rowMap_modTracker _ b _).trans (row.trans (by simp [State.grounded, State.sampled]))
  · exact (holeLog_modTracker _ b _).trans (holes.trans (by simp [State.grounded, State.sampled]))
  · exact (faultLog_modTracker _ b _).trans (faults.trans (by simp [State.grounded, State.sampled]))
  · exact (State.flagged.after (fun p => by simp [State.grounded, State.sampled]) flags).before fun p => by simp [State.drilledOn]

theorem boom_drilledOn (s : State) (b : Boom) (x : Sample) :
    (s.drilledOn b x).boom b =
      { (s.boom b).withSlices (s.handed b (s.cutsAt b x)) none
          (s.anyHanded b (s.overflowing b) (s.boom b).strata (s.cutsAt b x)) with
        link := ((s.sampled b x).boom b).link
        tracker :=
          { s.sampledTracker b x with
            maxDepth := s.deepestAfter b x, slice := s.openAfter b x
            stallCount := (s.stallAfter b x).1, stallBase := (s.stallAfter b x).2
            handedBottom := bottomAfter (s.boom b).tracker.handedBottom (s.cutsAt b x)
            lastSample :=
              { (s.sampledTracker b x).lastSample with
                atFace := decide (((s.boom b).tracker.maxDepth : Int) - 800 ≤ s.depthAfter b x) } } } := by
  have back : (s.grounded b x).backdrop = s.backdrop := by simp [State.grounded, State.sampled]
  have strata : ((s.grounded b x).boom b).strata = (s.boom b).strata := by simp [State.grounded, State.sampled, BoomUnit.strata]
  rw [State.drilledOn, boom_modTracker_same, boom_handSlices, handed_congr back strata, strata, (acts_congr back b).1, anyHanded_congr back]
  simp [BoomUnit.withSlices, State.grounded, State.sampled, State.sampledTracker]

theorem boom_contacted (s : State) (b : Boom) (x : Sample) :
    (s.contacted b x).boom b =
      { (s.sampled b x).boom b with
        tracker :=
          { s.sampledTracker b x with
            contactSeen := true, slice := some (s.sliceAfter b x (OpenSlice.fresh 0 0))
            lastSample :=
              { (s.sampledTracker b x).lastSample with atFace := decide (((s.boom b).tracker.maxDepth : Int) - 800 ≤ 0) } }
        ctl := { ((s.sampled b x).boom b).ctl with collarTimer := none } } := by
  simp [State.contacted, State.sampledTracker, State.sampled]

theorem ports_contacted (s : State) (b : Boom) (x : Sample) :
    (∀ p, (s.contacted b x).port p = s.port p) ∧ (s.contacted b x).arbiter = s.arbiter ∧ (s.contacted b x).rowMap = s.rowMap ∧
      s.logsKept (s.contacted b x) := by
  simp [State.contacted, State.sampled, State.logsKept]

theorem slicesFlag_eq (s : State) (b : Boom) (cs : List ClosedSlice) (p : Port) :
    (s.slicesFlag b cs p).c5 = (decide (p = b.port) && s.enabled b && s.anyHanded b (s.layering b) (s.boom b).strata cs) ∧
      (s.slicesFlag b cs p).c6 = (decide (p = b.port) && s.enabled b && s.anyHanded b (s.turning b) (s.boom b).strata cs) ∧
      (s.slicesFlag b cs p).c7 = (decide (p = .machine) && s.anyHanded b (s.turning b) (s.boom b).strata cs) := by
  simp [State.slicesFlag, bothFlags, Causes.join, wearFlag_eq, boomFlag_eq, Causes.put, Causes.clear, BoomCause.code]

/-- Settles O26: whatever the sample brings the stem of the tracker moves; the samples that end nothing are taken apart by the stage. -/
theorem aSampleMovesTheDepthByItsEncoderDelta : Obligations.ASampleMovesTheDepthByItsEncoderDelta := by
  unfold Obligations.ASampleMovesTheDepthByItsEncoderDelta
  intro b s x hn ha u depth deepest stall kept
  obtain ⟨apart, stem, fifo⟩ := take_moves hn ha
  have keeps : (s.sampledTracker b x).encoderRef = some x.count ∧
      (s.sampledTracker b x).glitchRun = (if u.tracker.encoderRef.isSome then 0 else u.tracker.glitchRun) ∧
      (s.sampledTracker b x).latestCartridge = some x.cartridges ∧ (s.sampledTracker b x).depth = depth ∧
      (s.sampledTracker b x).window =
        (if u.ctl.state = .holeOpen then appendCapped 25 u.tracker.window x.feed else u.tracker.window) := by
    simp [State.sampledTracker, State.sampled, u, depth]
  obtain ⟨ref, run, cartridge, depths, window⟩ := keeps
  refine ⟨(s.take b).state, rfl, apart, fifo, ?_, ?_, ?_, ?_, ?_, take_of_quiet hn ha, fun hst hx hs hd => ?_, fun hs hst => ?_,
    fun a hanch hr => ⟨fun hst h => ?_, fun hst h1 h2 h3 => ?_, fun hst hp h => ?_⟩⟩
  · exact ((congrArg DepthTracker.encoderRef stem :)).trans ref
  · exact ((congrArg DepthTracker.glitchRun stem :)).trans run
  · exact ((congrArg DepthTracker.latestCartridge stem :)).trans cartridge
  · exact ((congrArg DepthTracker.depth stem :)).trans depths
  · exact ((congrArg DepthTracker.window stem :)).trans window
  · rw [take_of_contact hn ha hst hx hs hd]
    have boom := boom_contacted s b x
    obtain ⟨ports, arbiter, row, holes, faults⟩ := ports_contacted s b x
    refine ⟨by rw [boom], by rw [boom]; simp [State.sampledTracker, State.sampled, u], by rw [boom]; rfl, by rw [boom, ctl_sampled], ?_,
        ?_, ?_,
      ⟨arbiter, row, ⟨holes, faults⟩, by rw [boom]⟩, fun p => by rw [ports]⟩
    all_goals rw [boom]; simp [State.sampled, u]
  · rw [take_of_ground hn ha hs hst]
    have boom := boom_drilledOn s b x
    obtain ⟨arbiter, row, logs, flags⟩ := drilledOn_keeps s b x
    have slices := sliceFlags_of (cs := s.cutsAt b x) (turned := false) flags
      (by rw [(slicesFlag_eq s b (s.cutsAt b x) b.port).1]; simp) (by rw [(slicesFlag_eq s b (s.cutsAt b x) b.port).2.1]; simp)
        (by rw [(slicesFlag_eq s b (s.cutsAt b x) .machine).2.2]; simp)
    refine ⟨by rw [boom]; rfl, by rw [boom]; rfl, by simpa [State.sliceFlags] using slices, by rw [boom]; rfl, by rw [boom]; rfl,
      fun hh => by rw [boom]; simp [BoomUnit.withSlices, show (s.boom b).ctl.hole = none from hh], fun h hh => ?_,
      ⟨arbiter, row, logs, by rw [boom]⟩⟩
    refine ⟨h.layerOverflow || s.anyHanded b (s.overflowing b) (s.boom b).strata (s.cutsAt b x), ?_, ?_⟩
    · rw [boom]; simp [BoomUnit.withSlices, show (s.boom b).ctl.hole = some h from hh, HoleRecord.markOverflow]
    · rw [Bool.or_eq_true, overflowsLayers_iff]
  · exact take_of_mixing hn ha hanch hr hst h
  · exact take_of_torquing hn ha hanch hr hst h1 h2 h3
  · exact take_of_inserting hn ha hanch hr hst hp h

end Sys2Proof.Machine

/-! ## The payloads of the reads (O40) -/
namespace Sys2Proof.Machine

/-! ### Fields -/

theorem b1_eq (n : Nat) : b1 n = [byteOf n] := rfl
theorem flagByte_eq (v : Bool) : flagByte v = [byteOf v.toNat] := rfl

theorem optField_eq (k : Nat) (v : Option Nat) : optField k v = orOnes k v := by cases v <;> rfl

theorem optGroup_eq {α : Type} (k : Nat) (f : α → List Byte) (v : Option α) : optGroup k f v = ledBy k (v.map f) := by cases v <;> rfl

theorem flatMap_single {α : Type} (f : α → Byte) : ∀ l : List α, (l.flatMap fun a => [f a]) = l.map f
  | [] => rfl
  | a :: l => by rw [List.flatMap_cons, flatMap_single f l]; rfl

theorem sum_zipIdx_pow : ∀ (l : List Bool) (k : Nat), ((l.zipIdx k).map fun p => p.1.toNat * 2 ^ p.2).sum = 2 ^ k * bitsNat l
  | [], _ => rfl
  | v :: l, k => by
    have own : bitsNat (v :: l) = v.toNat * 2 ^ 0 + ((l.zipIdx 1).map fun p => p.1.toNat * 2 ^ p.2).sum := rfl
    rw [List.zipIdx_cons, List.map_cons, List.sum_cons, own, sum_zipIdx_pow l, sum_zipIdx_pow l]
    ring

theorem bitsNat_cons (v : Bool) (l : List Bool) : bitsNat (v :: l) = v.toNat + 2 * bitsNat l := by
  have own : bitsNat (v :: l) = v.toNat * 2 ^ 0 + ((l.zipIdx 1).map fun p => p.1.toNat * 2 ^ p.2).sum := rfl
  rw [own, sum_zipIdx_pow]
  ring

/-- Bits taken from a list of things, from bit 12 on. -/
theorem sum_zipIdx_shift {α : Type} (f : α → Bool) (l : List α) (k : Nat) :
    (l.zipIdx.map fun p => (f p.1).toNat * 2 ^ (k + p.2)).sum = 2 ^ k * bitsNat (l.map f) := by
  rw [bitsNat, List.zipIdx_map, List.map_map, ← List.sum_map_mul_left]
  congr 1
  refine List.map_congr_left fun p _ => ?_
  simp only [Function.comp, Prod.map, id]
  ring

theorem bitsNat_nil : bitsNat [] = 0 := rfl

theorem field_eq (i : Interlocks) : bytesLE 2 i.toNat = i.field := by
  unfold Interlocks.field Interlocks.toNat
  congr 1
  simp only [bitsNat_cons, bitsNat_nil]
  omega

theorem causes_eq (c : Causes) : c.toNat = bitsNat [c.c1, c.c2, c.c3, c.c4, c.c5, c.c6, c.c7] := by
  simp only [bitsNat_cons, bitsNat_nil, Causes.toNat]
  omega

/-! ### Codes -/

theorem stanceBytes_eq (x : BoomState × Option RunCondition) : stanceBytes x = stancePair x := by
  obtain ⟨st, run⟩ := x
  unfold stanceBytes stancePair
  rw [b1_eq, optField_eq]
  congr 1
  · cases st <;> rfl
  · rcases run with _ | r
    · rfl
    · cases r <;> rfl

theorem faultCodeOf_eq (f : Option FaultCode) : faultCodeOf f = faultNumber f := by
  rcases f with _ | f
  · rfl
  · cases f <;> rfl

theorem ground_code_eq (g : Ground) : g.code = groundNumber g := by cases g <;> rfl

theorem verdict_code_eq (v : Option Verdict) : (v.map Verdict.code).getD 0 = verdictNumber v := by
  rcases v with _ | v
  · rfl
  · cases v <;> rfl

theorem grade_code_eq (g : Option Grade) : (g.map Grade.code).getD 7 = gradeNumber g := by
  rcases g with _ | g
  · rfl
  · cases g <;> rfl

theorem torque_code_eq (t : Option TorqueResult) : (t.map TorqueResult.code).getD 0 =
    (t.map fun v => 1 + ([.achieved, .slipped, .torqueTimeout, .torqueMissed] : List TorqueResult).idxOf v).getD 0 := by
  rcases t with _ | t
  · rfl
  · cases t <;> rfl

theorem boomCode_eq (b : Boom) : boomCode b = if b = .left then 0 else 1 := by cases b <;> rfl

end Sys2Proof.Machine

/-! ## The parts of the reads, byte by byte (O40) -/
namespace Sys2Proof.Machine

theorem zone_code_eq (z : ZoneState) : z.code = ([.good, .clamped, .defaulted] : List ZoneState).idxOf z := by cases z <;> rfl

theorem memOp_code_eq (o : MemOp) : o.code = match o with
    | .none => 0
    | .write _ => 1
    | .load _ => 2
    | .save _ => 3 := by cases o <;> rfl

theorem demandBytes_eq (d : Demand) : demandBytes d =
    [ byteOf (([.left, .right, .machine] : List Port).idxOf d.owner),
      byteOf (([.collar, .drill, .retract, .insert, .spin, .hold, .torque, .tram, .support] : List DemandKind).idxOf d.kind),
      byteOf (([.normal, .critical, .machine] : List DemandClass).idxOf d.kind.cls) ] ++
      bytesLE 2 d.demand ++ bytesLE 2 d.floor ++ bytesLE 2 d.grant := by
  have owner : ownerCode d.owner = ([.left, .right, .machine] : List Port).idxOf d.owner := by cases d.owner <;> rfl
  have kind : d.kind.code =
      ([.collar, .drill, .retract, .insert, .spin, .hold, .torque, .tram, .support] : List DemandKind).idxOf d.kind := by
    cases d.kind <;> rfl
  have cls : d.kind.cls.code = ([.normal, .critical, .machine] : List DemandClass).idxOf d.kind.cls := by cases d.kind.cls <;> rfl
  simp only [demandBytes, b1_eq, owner, kind, cls, List.append_assoc, List.cons_append, List.nil_append]

/-! ### READ_STATUS -/

theorem readStatus_eq (s : State) (p : Port) (x : Nat) :
    s.readStatus p x = if x ≤ 2 then some (s.statusLayout p x) else none := by
  have flow (i : Interlocks) : i.pumpLow.toNat + 2 * i.oilHot.toNat + 4 * i.supplyLow.toNat =
      bitsNat [i.pumpLow, i.oilHot, i.supplyLow] := by
    simp only [bitsNat_cons, bitsNat_nil]; omega
  rcases x with _ | _ | _ | x
  · simp only [State.readStatus, State.status0, State.statusLayout, b1_eq, flagByte_eq, optField_eq, stanceBytes_eq, field_eq, causes_eq,
      flatMap_single, zone_code_eq, memOp_code_eq, List.append_assoc, List.cons_append, List.nil_append]
    rfl
  · simp only [State.readStatus, State.status1, State.statusLayout, b1_eq, flow, List.append_assoc, List.cons_append, List.nil_append]
    rw [show demandBytes = _ from funext demandBytes_eq]
    rfl
  · simp only [State.readStatus, State.status2, State.statusLayout, b1_eq, List.append_assoc, List.cons_append, List.nil_append]
    rw [show demandBytes = _ from funext demandBytes_eq]
    rfl
  · simp [State.readStatus]

/-! ### Hole records -/

theorem headerTail_eq (h : HoleRecord) : h.headerTail = h.headerLayout := by
  have flags : h.wornBit.toNat + 2 * h.sensorSuspect.toNat + 4 * h.layerOverflow.toNat + 8 * h.resinShort.toNat +
      16 * h.resinCapped.toNat + 32 * h.cartridgesCounted.isSome.toNat =
      bitsNat [h.wornBit, h.sensorSuspect, h.layerOverflow, h.resinShort, h.resinCapped, h.cartridgesCounted.isSome] := by
    simp only [bitsNat_cons, bitsNat_nil]; omega
  cases hz : h.z <;> cases hw : h.w <;>
    simp only [HoleRecord.headerTail, HoleRecord.headerLayout, b1_eq, hz, hw, flags, HoleRecord.closeBytes, HoleRecord.slotBoom,
      boomCode_eq, optField_eq, verdict_code_eq, torque_code_eq, grade_code_eq, faultCodeOf_eq, List.append_assoc, List.cons_append,
      List.nil_append, Option.map_some, Option.map_none, Option.getD_some, Option.getD_none, Nat.reducePow, Nat.sub_self]

theorem layerTail_eq (ls : List LayerView) : layerTail ls = layersLayout ls := by
  have saturated : (ls.zipIdx.map fun p => p.1.saturated.toNat * 2 ^ (12 + p.2)).sum = 2 ^ 12 * bitsNat (ls.map LayerView.saturated) :=
    sum_zipIdx_shift _ ls 12
  have unused : 4 * (4 - ls.length) = 16 - 4 * ls.length := by omega
  have layer : layerBytes = fun l : LayerView =>
      bytesLE 2 (l.bottomMm + 2 ^ 12 * groundNumber l.ground + 2 ^ 15 * l.isPartial.toNat) ++
        [byteOf (l.meanH.getD 0), byteOf (min 255 l.slices)] := by
    funext l
    simp only [layerBytes, b1_eq, ground_code_eq, List.append_assoc, List.cons_append, List.nil_append]
    rfl
  simp only [layerTail, layersLayout, saturated, unused, layer]

theorem layerPart_eq (h : HoleRecord) (part : Nat) : h.layerPart part =
    bytesLE 2 h.row ++ [byteOf (h.slot + 16 * (if h.boom = .left then 0 else 1) + 32 * ((h.layers.drop (4 * part - 4)).take 4).length)] ++
      orOnes 4 (h.closeTime.map BitVec.toNat) ++ layersLayout ((h.layers.drop (4 * part - 4)).take 4) := by
  have part' : 4 * (part - 1) = 4 * part - 4 := by omega
  simp only [HoleRecord.layerPart, layersOf, part', b1_eq, HoleRecord.slotBoom, HoleRecord.closeBytes, boomCode_eq, optField_eq,
      layerTail_eq]

/-- What READ_HOLE gives of a record. -/
theorem holePart_eq (s : State) (h : HoleRecord) (part : Nat) :
    (if part = 0 then s.holeLog.header h else h.layerPart part) = s.holeLayout h part := by
  unfold State.holeLayout HoleLog.header
  rw [headerTail_eq, layerPart_eq, b1_eq]
  rfl

/-! ### READ_LIVE -/

theorem counted_eq (t : DepthTracker) : optWide 1 t.counted =
    (t.cartridgeBase.map fun base => [byteOf ((t.latestCartridge.getD 0 + 256 - base) % 256), 0]).getD [0xFF, 0xFF] := by
  unfold DepthTracker.counted
  cases t.cartridgeBase with
  | none => rfl
  | some base =>
    have : (t.latestCartridge.getD 0 + 256 - base) % 256 / 256 = 0 := by omega
    simp [optWide, bytesLE, byteOf, this]

theorem stageTimer_eq (c : Controller) (z : Zone5) :
    (c.stageTimer z).map Prod.fst = (if c.state = .collaring then c.collarTimer else if c.state = .holding then c.holdTimer
      else if c.state = .torquing then c.torqueTime else none) ∧
    (c.stageTimer z).map Prod.snd = (if c.state = .collaring then c.collarTimer.map fun _ => 3000
      else if c.state = .holding then c.holdTimer.map fun _ => z.holdTime
      else if c.state = .torquing then c.torqueTime.map fun _ => 8000 else none) := by
  unfold Controller.stageTimer
  cases c.state <;> simp [Option.map_map, Function.comp_def]

theorem resinTimer_eq (c : Controller) (z : Zone5) : c.resinTimer z =
    ((c.insertToSpin.map (·, z.insertToSpin)).or (c.gelDeadline.map (·, z.gelDeadline))).or (c.torqueWindow.map (·, z.torqueWindow)) := by
  unfold Controller.resinTimer
  cases c.insertToSpin <;> cases c.gelDeadline <;> cases c.torqueWindow <;> rfl

theorem betweenTimer_eq (c : Controller) (z : Zone5) : c.betweenTimer z =
    if z.betweenCode = 0 then none
    else c.betweenStage.map (·, if z.betweenCode ≤ 240 then z.betweenCode * 5000 else (z.betweenCode - 240) * 60000) := by
  unfold Controller.betweenTimer betweenLimit
  by_cases hz : z.betweenCode = 0
  · simp [hz]
  · cases c.betweenStage with
    | none => simp
    | some v => by_cases hl : z.betweenCode ≤ 240 <;> simp [hz, hl]

end Sys2Proof.Machine

/-! ## The parts of READ_LIVE (O40) -/
namespace Sys2Proof.Machine

theorem live0_eq (s : State) (b : Boom) : s.live0 b = s.liveLayout b 0 := by
  obtain ⟨timer, -⟩ := stageTimer_eq (s.boom b).ctl s.params.plan
  simp only [State.live0, State.controllerView, State.liveLayout, timerBytes, stanceBytes_eq, field_eq, optField_eq, optGroup_eq, timer,
    resinTimer_eq, betweenTimer_eq, flagByte_eq, b1_eq, List.append_assoc, List.cons_append, List.nil_append, if_true]
  rfl

theorem live1_eq (s : State) (b : Boom) : s.live1 b = s.liveLayout b 1 := by
  have flags (x : Bool) (y : Bool) (z : Bool) : x.toNat + 2 * y.toNat + 4 * z.toNat = bitsNat [x, y, z] := by
    simp only [bitsNat_cons, bitsNat_nil]; omega
  simp only [State.live1, State.liveLayout, State.depthMm, flags, counted_eq, flagByte_eq, b1_eq, List.append_assoc, List.cons_append,
    List.nil_append]
  rfl

theorem live2_eq (s : State) (b : Boom) : (s.boom b).tracker.live2 = s.liveLayout b 2 := by
  simp only [DepthTracker.live2, optGroup_eq, flagByte_eq]
  rfl

theorem live3_eq (s : State) (b : Boom) : anchorageFirst (s.boom b).anchorage = s.liveLayout b 3 := by
  have reason (r : EndReason) : r.code =
      ([.depthReached, .stall, .depthLimit, .stop, .linkLost, .headFault, .supply, .abandon] : List EndReason).idxOf r := by
    cases r <;> rfl
  have verdict (v : Verdict) : v.code = verdictNumber (some v) := verdict_code_eq (some v)
  simp only [anchorageFirst, optGroup_eq, b1_eq, reason, verdict]
  cases ha : (s.boom b).anchorage <;> simp [State.liveLayout, ledBy, ha]

theorem live4_eq (s : State) (b : Boom) : s.live4 b = s.liveLayout b 4 := by
  obtain ⟨-, limit⟩ := stageTimer_eq (s.boom b).ctl s.params.plan
  simp only [State.live4, State.controllerView, limit, optGroup_eq, optField_eq, counted_eq, b1_eq, flagByte_eq]
  cases ha : (s.boom b).anchorage <;> simp [State.liveLayout, ledBy, ha]

theorem live5_eq (s : State) (b : Boom) : s.live5 b = s.liveLayout b 5 := by
  simp only [State.live5, State.controllerView, State.liveRecord, State.liveLayout]
  cases (s.boom b).ctl.hole with
  | none => rfl
  | some h => simp only [Option.map_some, headerTail_eq]; rfl

theorem liveLayers_eq (s : State) (b : Boom) {part : Nat} (h : 6 ≤ part) (h9 : part ≤ 9) :
    (s.boom b).classifier.liveLayers part = s.liveLayout b part := by
  have from' : 4 * (part - 5 - 1) = 4 * part - 24 := by omega
  have unused (ls : List Layer) : List.replicate (6 - (ls.take 4).length) (0 : Byte) =
      List.replicate (4 - (ls.take 4).length) 0 ++ [0, 0] := by
    have : (ls.take 4).length ≤ 4 := by simp
    rw [show ([0, 0] : List Byte) = List.replicate 2 0 from rfl, List.replicate_append_replicate]
    congr 1
    omega
  unfold Classifier.liveLayers State.liveLayout layersOf
  simp only [from', unused, layerTail_eq, b1_eq, flatMap_single]
  rw [if_neg (by omega), if_neg (by omega), if_neg (by omega), if_neg (by omega), if_neg (by omega), if_neg (by omega), if_pos h9]
  simp only [List.append_assoc, List.cons_append, List.nil_append]

theorem live10_eq (s : State) (b : Boom) : (s.boom b).classifier.live10 = s.liveLayout b 10 := by
  have flags (x : Bool) (y : Bool) : x.toNat + 2 * y.toNat + 4 = bitsNat [x, y, true] := by
    simp only [bitsNat_cons, bitsNat_nil, Bool.toNat_true]; omega
  have placement (p : Placement) : p.code = ([.extended, .opened, .absorbed, .merged, .forced] : List Placement).idxOf p := by
    cases p <;> rfl
  unfold Classifier.live10
  cases hl : (s.boom b).classifier.last with
  | none => simp [State.liveLayout, hl]
  | some r => simp [State.liveLayout, hl, b1_eq, flags, placement, ground_code_eq, optField_eq]

/-- READ_LIVE of a boom (R175). -/
theorem readLive_eq (s : State) (b : Boom) (x : Nat) : s.readLive b x = if x ≤ 10 then some (s.liveLayout b x) else none := by
  rcases x with _ | _ | _ | _ | _ | _ | _ | _ | _ | _ | _ | x
  · exact congrArg some (live0_eq s b)
  · exact congrArg some (live1_eq s b)
  · exact congrArg some (live2_eq s b)
  · exact congrArg some (live3_eq s b)
  · exact congrArg some (live4_eq s b)
  · exact congrArg some (live5_eq s b)
  · exact congrArg some (liveLayers_eq s b (by omega) (by omega))
  · exact congrArg some (liveLayers_eq s b (by omega) (by omega))
  · exact congrArg some (liveLayers_eq s b (by omega) (by omega))
  · exact congrArg some (liveLayers_eq s b (by omega) (by omega))
  · exact congrArg some (live10_eq s b)
  · simp [State.readLive]

end Sys2Proof.Machine

/-! ## The other reads, and the eight together (O40) -/
namespace Sys2Proof.Machine

/-! ### READ_ROW -/

theorem slotBytes_eq (sl : Slot) : slotBytes sl =
    [byteOf sl.number, byteOf sl.position] ++ bytesLE 2 sl.depth ++ orOnes 1 sl.parent ++
      match sl.state with
      | .isOpen => [0, 0xFF, 0xFF]
      | .claimed b => [1, if b = .left then 0 else 1, 0xFF]
      | .bolted g => [2, 0xFF, byteOf (gradeNumber (some g))]
      | .waived => [3, 0xFF, 0xFF] := by
  unfold slotBytes
  rw [optField_eq]
  rcases sl.state with _ | b | g | _
  · simp [b1_eq, SlotState.code, byteOf]
  · cases b <;> simp [b1_eq, SlotState.code, byteOf, boomCode]
  · simp [b1_eq, SlotState.code, byteOf, show g.code = gradeNumber (some g) from grade_code_eq (some g)]
  · simp [b1_eq, SlotState.code, byteOf]

theorem readRow_eq (s : State) (x : Nat) : s.rowMap.readRow x = if x ≤ 5 then some (s.rowLayout x) else none := by
  have support : (!s.rowMap.supportSet).toNat = if s.rowMap.supportSet then 0 else 1 := by cases s.rowMap.supportSet <;> rfl
  have slots (part : Nat) (h : part ≠ 0) (h5 : part ≠ 5) : s.rowMap.slotPart part = s.rowLayout part := by
    have from' : 3 * (part - 1) = 3 * part - 3 := by omega
    unfold RowMap.slotPart State.rowLayout
    rw [from', show slotBytes = _ from funext slotBytes_eq]
    simp only [h, h5, if_false]
    rfl
  rcases x with _ | _ | _ | _ | _ | _ | x
  · simp only [RowMap.readRow, RowMap.part0, State.rowLayout, flagByte_eq, b1_eq, support, List.append_assoc, List.cons_append,
      List.nil_append]
    rfl
  · exact congrArg some (slots 1 (by omega) (by omega))
  · exact congrArg some (slots 2 (by omega) (by omega))
  · exact congrArg some (slots 3 (by omega) (by omega))
  · exact congrArg some (slots 4 (by omega) (by omega))
  · simp only [RowMap.readRow, RowMap.part5, State.rowLayout]
    cases s.rowMap.pendingPlan <;> rfl
  · simp [RowMap.readRow]

/-! ### READ_FAULT -/

theorem mark_eq (r : FaultRecord) : r.mark = bytesLE 4 r.time.toNat ++
    [byteOf (([.left, .right, .machine, .device] : List FaultSource).idxOf r.source), byteOf (faultNumber (some r.code))] := by
  have source : r.source.code = ([.left, .right, .machine, .device] : List FaultSource).idxOf r.source := by cases r.source <;> rfl
  have code : r.code.code = faultNumber (some r.code) := faultCodeOf_eq (some r.code)
  simp only [FaultRecord.mark, b1_eq, source, code, List.append_assoc, List.cons_append, List.nil_append]

theorem faultPart_eq (s : State) (r : FaultRecord) (part : Nat) :
    (if part = 0 then s.faultLog.part0 r else r.entryPart part) = s.faultLayout r part := by
  have depth : optSigned r.depth = (r.depth.map fun d => signedLE 2 d ++ [0]).getD [0xFF, 0xFF, 0xFF] := by cases r.depth <;> rfl
  have stance (v : Option (BoomState × Option RunCondition)) : stanceField v = ledBy 2 (v.map stancePair) := by
    rw [stanceField, optGroup_eq, show stanceBytes = stancePair from funext stanceBytes_eq]
  have entry : entryBytes = fun e : RecentEntry => e.kind :: e.payload ++ [byteOf e.code.toNat] ++ bytesLE 4 e.time.toNat := by
    funext e; simp [entryBytes, b1_eq]
  have from' : 2 * (part - 1) = 2 * part - 2 := by omega
  unfold State.faultLayout
  simp only [FaultLog.part0, FaultRecord.entryPart, mark_eq, depth, stance, entry, from', b1_eq, field_eq, optField_eq]
  simp only [List.append_assoc, List.cons_append, List.nil_append]

/-! ### READ_ATTRIBUTES -/

theorem readAttributes_eq (t : WearTable) (x : Nat) : t.readAttributes x = if x < 2 then some (t.attributeLayout x) else none := by
  rcases x with _ | _ | x
  · have crossed : ((t.attrs.zipIdx.map fun p => p.1.crossed.toNat * 2 ^ p.2).sum) = bitsNat (t.attrs.map Attr.crossed) := by
      have := sum_zipIdx_shift Attr.crossed t.attrs 0
      simpa using this
    simp only [WearTable.readAttributes, WearTable.part0, WearTable.attributeLayout, b1_eq, crossed, flatMap_single, List.append_assoc,
      List.cons_append, List.nil_append]
    rfl
  · have outcome (o : HoleOutcome) : o.grade.code + 8 * faultCodeOf o.fault = gradeNumber (some o.grade) + 8 * faultNumber o.fault := by
      rw [faultCodeOf_eq, ← grade_code_eq]; rfl
    simp only [WearTable.readAttributes, WearTable.part1, WearTable.attributeLayout, b1_eq, outcome, flatMap_single]
    rfl
  · simp [WearTable.readAttributes]

/-! ### READ_MONITOR -/

theorem breach_code_eq (v : Breach) : v.code = ([.inside, .hi, .lo] : List Breach).idxOf v := by cases v <;> rfl

theorem channelBytes_eq (c : Channel) : channelBytes c =
    [byteOf c.limits.enabled.toNat] ++ bytesLE 2 c.limits.hi ++ bytesLE 2 c.limits.lo ++ [byteOf c.limits.hyst] ++ orOnes 2 c.last ++
      [byteOf (([.inside, .hi, .lo] : List Breach).idxOf c.breach)] ++
      ledBy 2 (c.debounce.map fun v => [byteOf (([.inside, .hi, .lo] : List Breach).idxOf v), 1]) := by
  simp only [channelBytes, flagByte_eq, b1_eq, optField_eq, optGroup_eq, breach_code_eq]
  rfl

theorem readMonitor_eq (s : State) (x : Nat) : s.readMonitor x = if x ≤ 3 then some (s.monitorLayout x) else none := by
  have parts (part : Nat) (h : part ≠ 0) : s.monitor.channelPart part = s.monitorLayout part := by
    have from' : 2 * (part - 1) = 2 * part - 2 := by omega
    unfold Monitor.channelPart State.monitorLayout
    rw [from', show channelBytes = _ from funext channelBytes_eq]
    simp only [h, if_false]
  rcases x with _ | _ | _ | _ | x
  · have support : (!s.rowMap.supportSet).toNat = if s.rowMap.supportSet then 0 else 1 := by cases s.rowMap.supportSet <;> rfl
    have low : (s.monitor.breach 3 == .lo).toNat + 2 * (if s.rowMap.supportSet then 0 else 1) =
        bitsNat [s.monitor.breach 3 == .lo, !s.rowMap.supportSet] := by
      rw [← support]; simp only [bitsNat_cons, bitsNat_nil]; omega
    simp only [State.readMonitor, State.monitor0, State.monitorLayout, b1_eq, flagByte_eq, optField_eq, field_eq, support, low]
    cases s.monitor.round <;> simp [RoundState.code, RoundState.channel, orOnes, byteOf, bytesLE]
  · exact congrArg some (parts 1 (by omega))
  · exact congrArg some (parts 2 (by omega))
  · exact congrArg some (parts 3 (by omega))
  · simp [State.readMonitor]

/-! ### READ_LINK -/

theorem readLink_eq (l : HeadLink) (x : Nat) : l.readLink x = if x < 2 then some (l.linkLayout x) else none := by
  rcases x with _ | _ | x
  · have state : l.state.code = ([.down, .up, .lost] : List LinkState).idxOf l.state := by cases l.state <;> rfl
    have receiver : l.receiver.code = ([.hunt, .sync, .frame] : List ReceiverState).idxOf l.receiver := by cases l.receiver <;> rfl
    simp only [HeadLink.readLink, HeadLink.part0, HeadLink.linkLayout, b1_eq, flagByte_eq, state, receiver, List.append_assoc,
      List.cons_append, List.nil_append]
    rfl
  · rfl
  · simp [HeadLink.readLink]

/-! ### A read answered (R173, R175) -/

/-- The state with the reply of a read: DATA with the part, RANGE where there is none. -/
def State.replyPart (s : State) (p : Port) : Option (List Byte) → State
  | some bytes => s.onlyReply p .data bytes
  | none => s.onlyReply p .range []

/-- A read taken answers on its own port, and changes nothing else. -/
theorem serve_read {s : State} {p : Port} {k : RequestKind} {q : Request} (h : s.taken p k q) (hk : k.isCommand = false)
    {body : List Byte → State → Answer} {part : Option (List Byte)} (hb : body q.operands s = answerPart s part) :
    s.serve p k body = s.replyPart p part := by
  rw [serve_taken h, hb]
  cases part with
  | some bytes => exact finish_read s p q k hk .data bytes
  | none => exact finish_read s p q k hk .range []

/-- A read whose part exists under a condition. -/
theorem answers_of {s : State} {p : Port} {k : RequestKind} {q : Request} (h : s.taken p k q) (hk : k.isCommand = false)
    {body : List Byte → State → Answer} {good : Prop} [Decidable good] {bytes : List Byte}
    (hb : body q.operands s = answerPart s (if good then some bytes else none)) :
    (good → Host.Outcome.next (φ := Fault) (ρ := Refusal) (s.serve p k body) = .next (s.onlyReply p .data bytes)) ∧
      (¬ good → Host.Outcome.next (φ := Fault) (ρ := Refusal) (s.serve p k body) = .next (s.onlyReply p .range [])) := by
  rw [serve_read h hk hb]
  exact ⟨fun hg => by rw [if_pos hg]; rfl, fun hg => by rw [if_neg hg]; rfl⟩

/-- A read that names a boom and a part. -/
theorem booms_of {s : State} {p : Port} {k : RequestKind} {q : Request} (h : s.taken p k q) (hk : k.isCommand = false)
    {read : Boom → Nat → Option (List Byte)} {parts : Nat} {bytes : Boom → List Byte} {body : List Byte → State → Answer}
    (hr : ∀ b, read b (operand q.operands 1) = if operand q.operands 1 < parts then some (bytes b) else none)
    (hb : body q.operands s = s.readOfBoom q.operands read) :
    (operand q.operands 0 = 0 → operand q.operands 1 < parts →
        Host.Outcome.next (φ := Fault) (ρ := Refusal) (s.serve p k body) = .next (s.onlyReply p .data (bytes .left))) ∧
      (operand q.operands 0 = 1 → operand q.operands 1 < parts →
        Host.Outcome.next (φ := Fault) (ρ := Refusal) (s.serve p k body) = .next (s.onlyReply p .data (bytes .right))) ∧
      (1 < operand q.operands 0 ∨ parts ≤ operand q.operands 1 →
        Host.Outcome.next (φ := Fault) (ρ := Refusal) (s.serve p k body) = .next (s.onlyReply p .range [])) := by
  rw [serve_read h hk hb]
  refine ⟨fun h0 hp => ?_, fun h1 hp => ?_, fun hn => ?_⟩
  · simp [h0, boomOperand, hr, hp, State.replyPart]
  · simp [h1, boomOperand, hr, hp, State.replyPart]
  · rcases hx : operand q.operands 0 with _ | _ | n
    · simp [boomOperand, hr, show ¬ operand q.operands 1 < parts by omega, State.replyPart]
    · simp [boomOperand, hr, show ¬ operand q.operands 1 < parts by omega, State.replyPart]
    · simp [boomOperand, State.replyPart]

/-- The record that a read of the hole log names. -/
theorem readHole_eq (s : State) (x y : Nat) :
    s.readHole x y = if x ≤ 31 ∧ y ≤ 4 ∧ x < s.holeLog.count then
      ((s.holeLog.places[(s.holeLog.pointer + 63 - x) % 32]?).join).map fun h => s.holeLayout h y else none := by
  have place : placeBack 32 s.holeLog.pointer x - 1 = (s.holeLog.pointer + 63 - x) % 32 := by unfold placeBack; congr 1
  unfold State.readHole HoleLog.record?
  simp only [holePart_eq, place]
  by_cases h : x ≤ 31 ∧ y ≤ 4
  · rw [if_neg (by omega)]
    by_cases hc : x < s.holeLog.count
    · rw [if_pos (by omega), if_pos (by omega)]
    · rw [if_neg (by omega), if_neg (by omega)]; rfl
  · rw [if_pos (by omega), if_neg (by omega)]

/-- The record that a read of the fault log names. -/
theorem readFault_eq (s : State) (x y : Nat) :
    s.readFault x y = if x ≤ 7 ∧ y ≤ 2 ∧ x < s.faultLog.count then
      ((s.faultLog.places[(s.faultLog.pointer + 15 - x) % 8]?).join).map fun r => s.faultLayout r y else none := by
  have place : placeBack 8 s.faultLog.pointer x - 1 = (s.faultLog.pointer + 15 - x) % 8 := by unfold placeBack; congr 1
  unfold State.readFault FaultLog.record?
  simp only [faultPart_eq, place]
  by_cases h : x ≤ 7 ∧ y ≤ 2
  · rw [if_neg (by omega)]
    by_cases hc : x < s.faultLog.count
    · rw [if_pos (by omega), if_pos (by omega)]
    · rw [if_neg (by omega), if_neg (by omega)]; rfl
  · rw [if_pos (by omega), if_neg (by omega)]

theorem join_eq_none {α : Type} {x : Option (Option α)} (h : ∀ a, x ≠ some (some a)) : x.join = none := by
  rcases x with _ | _ | a
  · rfl
  · rfl
  · exact absurd rfl (h a)

/-- Settles O40: the bytes of every part by the lemmas on the reads; a read taken leaves its reply alone. -/
theorem theEightReadsAnswerAndChangeNothingElse : Obligations.TheEightReadsAnswerAndChangeNothingElse := by
  unfold Obligations.TheEightReadsAnswerAndChangeNothingElse
  intro s p q x y answers booms
  refine ⟨fun h => ?_, fun h b hp => ?_, fun h hp => ?_, fun h => ?_, fun h => ?_, fun h => ?_, fun h => ?_,
      fun h => ⟨fun r hr => ?_, fun hn => ?_⟩,
    fun h => ⟨fun r hr => ?_, fun hn => ?_⟩⟩
  · exact answers_of h rfl (by rw [readStatus_eq])
  · subst hp
    exact answers_of h rfl (by rw [← readLive_eq]; cases b <;> rfl)
  · subst hp
    exact booms_of (read := s.readLive) (parts := 11) (bytes := fun b => s.liveLayout b y) h rfl
      (fun b => by rw [readLive_eq]; simp only [Nat.lt_succ_iff]; rfl) rfl
  · exact answers_of h rfl (by rw [readRow_eq])
  · exact booms_of (read := fun b => (s.boom b).wear.readAttributes) h rfl (fun b => readAttributes_eq _ _) rfl
  · exact answers_of h rfl (by rw [readMonitor_eq])
  · exact booms_of (read := fun b => (s.boom b).link.readLink) h rfl (fun b => readLink_eq _ _) rfl
  · exact answers_of h rfl (by rw [readHole_eq, show _ = some (some r) from hr]; rfl)
  · exact congrArg Host.Outcome.next (serve_read (part := none) h rfl (by rw [readHole_eq, join_eq_none hn]; simp))
  · exact answers_of h rfl (by rw [readFault_eq, show _ = some (some r) from hr]; rfl)
  · exact congrArg Host.Outcome.next (serve_read (part := none) h rfl (by rw [readFault_eq, join_eq_none hn]; simp))

end Sys2Proof.Machine

/-! ## The holes given up for a RESET request (O17) -/
namespace Sys2Proof.Machine

/-- The record of a hole given up for a reset (R102, R193). -/
def State.abortedRecord (s : State) (b : Boom) (h : HoleRecord) : HoleRecord :=
  completeRecord { h with fault := some .resetAbort, drilled := (s.boom b).tracker.maxDepth / 800
                          revolutions := (s.boom b).ctl.mix / 30000, layers := (s.boom b).classifier.layers.map Layer.view }
    (s.boom b).anchorage (s.boom b).ctl.state.gradeGivenUp s.millis

/-- The records that the reset of a boom archives. -/
def State.abortedRecords (s : State) (b : Boom) : List HoleRecord :=
  if (s.boom b).ctl.state = .idle then [] else ((s.boom b).ctl.hole.map (s.abortedRecord b)).toList

/-- The wear table behind the reset of a boom: the outcome of the hole that it closed. -/
def State.abortedWear (s : State) (b : Boom) : WearTable :=
  if (s.boom b).ctl.state = .idle ∨ (s.boom b).ctl.hole = none then (s.boom b).wear
  else (s.boom b).wear.addOutcome { grade := (s.boom b).ctl.state.gradeGivenUp, fault := some .resetAbort }

theorem gradeOf_givenUp {st : BoomState} (h : st ≠ .idle) (r : HoleRecord) (a : Option Anchorage) :
    gradeOf .givenUp st r a = st.gradeGivenUp := by
  cases st <;> first | rfl | exact absurd rfl h

theorem rowMap_closeSlot (s : State) (b : Boom) (g : Grade) :
    (s.closeSlot b g).rowMap = (s.rowMap.claimOf b).elim s.rowMap fun sl => s.rowClosed b sl g := by
  cases hc : s.rowMap.claimOf b with
  | none => unfold State.closeSlot; simp [hc]
  | some sl => exact (closeSlot_claimed s b hc g).1

/-- A close, in the parts that it moves. -/
theorem closeHole_parts (s : State) (b : Boom) (how : CloseKind) (st : BoomState) (f : Option FaultCode) :
    (s.liveRecord b = none → (s.closeHole b how st f).holeLog = s.holeLog ∧ (s.closeHole b how st f).rowMap = s.rowMap ∧
      ((s.closeHole b how st f).boom b).wear = (s.boom b).wear) ∧
    ∀ h, s.liveRecord b = some h →
      (s.closeHole b how st f).holeLog = s.holeLog.archive (completeRecord h (s.boom b).anchorage
        (gradeOf how st h (s.boom b).anchorage) s.millis) ∧
      (s.closeHole b how st f).rowMap =
        (s.rowMap.claimOf b).elim s.rowMap (fun sl => s.rowClosed b sl (gradeOf how st h (s.boom b).anchorage)) ∧
      ((s.closeHole b how st f).boom b).wear = 
        (s.boom b).wear.addOutcome { grade := gradeOf how st h (s.boom b).anchorage, fault := f } := by
  constructor
  · intro h
    unfold State.closeHole
    rw [h]
    simp
  · intro h hh
    refine ⟨holeLog_closeHole s b hh how st f, ?_, ?_⟩
    · unfold State.closeHole
      rw [hh]
      simp only [rowMap_modCtl, rowMap_modWear]
      exact rowMap_closeSlot _ b _
    · unfold State.closeHole
      rw [hh]
      simp

/-- What the reset of a boom does to the logs, the row and the wear table, and what it leaves. -/
structure State.Aborted (s t : State) (b : Boom) : Prop where
  apart : s.elsewhere t b
  faults : t.faultLog = s.faultLog
  holes : t.holeLog = (s.abortedRecords b).foldl HoleLog.archive s.holeLog
  row : t.rowMap = s.rowGivenUp b
  wear : (t.boom b).wear = s.abortedWear b

/-- A close of the hole with the fault marked, on a state that differs in nothing that it looks at. -/
theorem aborted_closeHole {s w : State} {b : Boom} (hst : (s.boom b).ctl.state ≠ .idle) (hw : s.elsewhere w b)
    (hf : w.faultLog = s.faultLog) (hh : w.holeLog = s.holeLog) (hr : w.rowMap = s.rowMap)
    (hb : ∃ link, w.boom b = { s.boom b with
      link, ctl := { (s.boom b).ctl with hole := (s.boom b).ctl.hole.map fun h => { h with fault := some .resetAbort } } }) :
    s.Aborted (w.closeHole b .givenUp (s.boom b).ctl.state (some .resetAbort)) b := by
  obtain ⟨link, hb⟩ := hb
  obtain ⟨none', some'⟩ := closeHole_parts w b .givenUp (s.boom b).ctl.state (some .resetAbort)
  have apart : s.elsewhere (w.closeHole b .givenUp (s.boom b).ctl.state (some .resetAbort)) b :=
    elsewhere_trans hw ⟨by simp, by simp, by rw [boom_closeHole_other _ (otherBoom_ne b)]⟩
  have millis : w.millis = s.millis := congrArg Backdrop.millis hw.1
  have params : w.params = s.params := congrArg Backdrop.params hw.1
  have live : w.liveRecord b = (s.boom b).ctl.hole.map fun h =>
      { h with fault := some .resetAbort, drilled := (s.boom b).tracker.maxDepth / 800
               revolutions := (s.boom b).ctl.mix / 30000, layers := (s.boom b).classifier.layers.map Layer.view } := by
    unfold State.liveRecord
    simp only [hb, Option.map_map]
    rfl
  cases ho : (s.boom b).ctl.hole with
  | none =>
    rw [ho] at live
    obtain ⟨h1, h2, h3⟩ := none' live
    refine ⟨apart, by simp [hf], ?_, ?_, ?_⟩
    · rw [h1, hh, State.abortedRecords, if_neg hst, ho]; rfl
    · rw [h2, hr, State.rowGivenUp, ho]
    · rw [h3, State.abortedWear, if_pos (.inr ho), hb]
  | some h =>
    rw [ho] at live
    obtain ⟨h1, h2, h3⟩ := some' _ live
    rw [gradeOf_givenUp hst] at h1 h2 h3
    refine ⟨apart, by simp [hf], ?_, ?_, ?_⟩
    · rw [h1, hh, State.abortedRecords, if_neg hst, ho, millis, hb]; rfl
    · rw [h2, hr, State.rowGivenUp, ho]
      cases hc : s.rowMap.claimOf b with
      | none => rfl
      | some sl =>
        simp only [Option.elim_some, if_neg hst]
        unfold State.rowClosed
        rw [hr, params]
    · rw [h3, State.abortedWear, if_neg (by simp [hst, ho]), hb]

theorem destination_resetAbort {st : BoomState} (contact : Bool) : destination st contact .resetAbort = .closes .givenUp := by
  cases st <;> rfl

theorem aborted_closeForReset (s : State) (b : Boom) : s.Aborted (s.closeForReset b) b := by
  unfold State.closeForReset
  simp only []
  by_cases hi : (s.boom b).ctl.state = .idle
  · rw [if_pos hi]
    refine ⟨.refl s b, rfl, by rw [State.abortedRecords, if_pos hi]; rfl, ?_, by rw [State.abortedWear, if_pos (.inl hi)]⟩
    unfold State.rowGivenUp
    rw [hi]
    split <;> rfl
  · rw [if_neg hi]
    split
    · obtain ⟨back, row, holes, faults, monitor⟩ := stageCut_keeps s b .resetAbort
      have closed := aborted_closeHole (w := s.stageCut b .resetAbort) hi ⟨back, monitor, ?_⟩ faults holes row
        (by rw [boom_stageCut]; exact ⟨_, rfl⟩)
      · have ended : s.endStage b .resetAbort none (s.stance b) =
            ((s.stageCut b .resetAbort).closeHole b .givenUp (s.boom b).ctl.state (some .resetAbort)).raise b .stageEnd := by
          rw [endStage_eq, State.settleStage, if_pos rfl, State.afterStage, destination_resetAbort]
          simp [torqueResultOf, State.stageReported, StageEnd.code]
        obtain ⟨apart, f, h, r, w⟩ := closed
        rw [ended]
        exact ⟨elsewhere_trans apart ⟨by simp, by simp, by simp⟩, by simpa using f, by simpa using h, by simpa using r, by simpa using w⟩
      · unfold State.stageCut
        simp only [StageEnd.code, reduceCtorEq, if_false, boom_modLink_other _ (otherBoom_ne b), ungranted_withdraw,
          boom_markFault_other s (otherBoom_ne b)]
    · exact aborted_closeHole (w := s.markFault b .resetAbort) hi
        ⟨by simp, by simp, by rw [boom_markFault_other s (otherBoom_ne b)]⟩ (by simp) (by simp) (by simp)
          (by rw [boom_markFault_same]; exact ⟨_, rfl⟩)

end Sys2Proof.Machine

/-! ## The zones read afresh (O17) -/
namespace Sys2Proof.Machine

/-! ### Both holes given up -/

theorem aborted_congr {s t : State} {b : Boom} (hb : t.backdrop = s.backdrop) (hu : (t.boom b).ungranted = (s.boom b).ungranted) :
    t.abortedRecords b = s.abortedRecords b ∧ t.abortedWear b = s.abortedWear b := by
  have state : (t.boom b).ctl.state = (s.boom b).ctl.state := (congrArg (fun u : BoomUnit => u.ctl.state) hu :)
  have hole : (t.boom b).ctl.hole = (s.boom b).ctl.hole := (congrArg (fun u : BoomUnit => u.ctl.hole) hu :)
  have mix : (t.boom b).ctl.mix = (s.boom b).ctl.mix := (congrArg (fun u : BoomUnit => u.ctl.mix) hu :)
  have tracker : (t.boom b).tracker = (s.boom b).tracker := (congrArg BoomUnit.tracker hu :)
  have classifier : (t.boom b).classifier = (s.boom b).classifier := (congrArg BoomUnit.classifier hu :)
  have anchorage : (t.boom b).anchorage = (s.boom b).anchorage := (congrArg BoomUnit.anchorage hu :)
  have wear : (t.boom b).wear = (s.boom b).wear := (congrArg BoomUnit.wear hu :)
  have millis : t.millis = s.millis := congrArg Backdrop.millis hb
  have record : t.abortedRecord b = s.abortedRecord b := by
    funext h; simp only [State.abortedRecord, state, mix, tracker, classifier, anchorage, millis]
  exact ⟨by simp only [State.abortedRecords, state, hole, record], by simp only [State.abortedWear, state, hole, wear]⟩

/-- The state behind both closes. -/
def State.givenUp (s : State) : State := (s.closeForReset .left).closeForReset .right

theorem givenUp_spec (s : State) :
    s.givenUp.backdrop = s.backdrop ∧ s.givenUp.monitor = s.monitor ∧ s.givenUp.faultLog = s.faultLog ∧
      s.givenUp.holeLog = (s.abortedRecords .left ++ s.abortedRecords .right).foldl HoleLog.archive s.holeLog ∧
      s.givenUp.rowMap = State.rowGivenUp { s with rowMap := s.rowGivenUp .left } .right ∧
      ∀ b, (s.givenUp.boom b).wear = s.abortedWear b := by
  obtain ⟨⟨back, monitor, other⟩, faults, holes, row, wear⟩ := aborted_closeForReset s .left
  obtain ⟨⟨back', monitor', other'⟩, faults', holes', row', wear'⟩ := aborted_closeForReset (s.closeForReset .left) .right
  obtain ⟨records, table⟩ := aborted_congr back (b := .right) other
  have state : ((s.closeForReset .left).boom .right).ctl.state = (s.boom .right).ctl.state :=
      (congrArg (fun u : BoomUnit => u.ctl.state) other :)
  have hole : ((s.closeForReset .left).boom .right).ctl.hole = (s.boom .right).ctl.hole :=
      (congrArg (fun u : BoomUnit => u.ctl.hole) other :)
  have params : (s.closeForReset .left).params = s.params := congrArg Backdrop.params back
  refine ⟨back'.trans back, monitor'.trans monitor, faults'.trans faults, ?_, ?_, fun b => ?_⟩
  · rw [State.givenUp, holes', records, holes, List.foldl_append]
  · rw [State.givenUp, row']
    simp only [State.rowGivenUp, State.rowClosed, state, hole, params, row]
    rfl
  · cases b with
    | left => exact (congrArg BoomUnit.wear other' :).trans wear
    | right => exact wear'.trans table

/-! ### One zone -/

/-- Zone 1 as the pass brings it to life. -/
def passedZone1 (img : List Host.Cell) : Zone1 := if zoneSumOk img 1 then (Zone1.stored img).settled else Zone1.builtIn

/-- The calibration of a boom as the pass brings it to life. -/
def passedCalib (img : List Host.Cell) : Boom → Calib
  | .left => if zoneSumOk img 2 then (Calib.stored img 2).settled else Calib.builtIn .left
  | .right => if zoneSumOk img 3 then (Calib.stored img 3).settled else Calib.builtIn .right

/-- Zone 4 as the pass brings it to life. -/
def passedZone4 (img : List Host.Cell) : Zone4 := if zoneSumOk img 4 then (Zone4.stored img).settled else Zone4.builtIn

/-- Zone 5 as the pass brings it to life. -/
def passedZone5 (img : List Host.Cell) : Zone5 := if zoneSumOk img 5 then (Zone5.stored img).settled else Zone5.builtIn

/-- What the blocks take of a zone in the pass, good or at its defaults (R184). -/
def State.takePassed (s : State) (img : List Host.Cell) (z : Nat) : State :=
  match z with
  | 0 => { s with params := { s.params with machineNumber := if zoneSumOk img 0 then field img 0 0 2 else 0 } }
  | 1 => s.takeZone1 (passedZone1 img)
  | 2 => s.takeCalib .left (passedCalib img .left)
  | 3 => s.takeCalib .right (passedCalib img .right)
  | 4 => s.modMonitor fun m => m.takeZone4 (passedZone4 img)
  | 5 => s.takeZone5 (passedZone5 img)
  | _ => s

theorem takePassed_good {s : State} {z : Nat} (h : zoneSumOk s.mem.image z = true) : s.takePassed s.mem.image z = s.takeZone z := by
  rcases z with _ | _ | _ | _ | _ | _ | z <;>
    simp [State.takePassed, State.takeZone, passedZone1, passedCalib, passedZone4, passedZone5, h]

theorem takePassed_bad {s : State} {z : Nat} (h : zoneSumOk s.mem.image z = false) : s.takePassed s.mem.image z = s.defaultZone z := by
  rcases z with _ | _ | _ | _ | _ | _ | z <;>
    simp [State.takePassed, State.defaultZone, passedZone1, passedCalib, passedZone4, passedZone5, h]

/-- The zone states behind one zone of the pass after a RESET request. -/
def zonesPassed (img : List Host.Cell) (zones : List ZoneState) (z : Nat) : List ZoneState :=
  if zoneSumOk img z then zones.set z (if zoneNeedsClamp img z then .clamped else .good)
  else if z = 6 then zones else zones.set z .defaulted

/-- The zone is bad, and gets a record. -/
def zoneRecorded (img : List Host.Cell) (z : Nat) : Bool := !zoneSumOk img z && z != 6

/-- One zone of the pass after a RESET request. -/
theorem passZone_eq (s : State) (z : Nat) : s.passZone true z =
    let u : State := { s.takePassed s.mem.image z with
      mem := { (s.takePassed s.mem.image z).mem with zones := zonesPassed s.mem.image (s.takePassed s.mem.image z).mem.zones z } }
    if zoneRecorded s.mem.image z then u.logPartFault .device .configZoneBad (some z) else u := by
  unfold State.passZone zonesPassed zoneRecorded
  cases h : zoneSumOk s.mem.image z with
  | true =>
    rw [takePassed_good h]
    simp [State.markZone, State.modMem, passClamped, judgedState]
  | false =>
    rw [takePassed_bad h]
    by_cases h6 : z = 6
    · subst h6; simp [State.defaultZone]
    · simp [h6, State.markZone, State.modMem]

end Sys2Proof.Machine

/-! ## What a zone moves, part by part (O17) -/
namespace Sys2Proof.Machine

/-- The parameters as one zone of the pass leaves them. -/
def paramsPassed (img : List Host.Cell) (p : Params) : Nat → Params
  | 0 => { p with machineNumber := if zoneSumOk img 0 then field img 0 0 2 else 0 }
  | 1 => { p with classifier := (passedZone1 img).consts }
  | 2 => { p with calibLeft := passedCalib img .left }
  | 3 => { p with calibRight := passedCalib img .right }
  | 5 => { p with plan := passedZone5 img }
  | _ => p

/-- A boom as one zone of the pass leaves it. -/
def boomPassed (img : List Host.Cell) (b : Boom) (u : BoomUnit) : Nat → BoomUnit
  | 1 => { u with wear := u.wear.retune (passedZone1 img).thresholds (passedZone1 img).consts.wearRate }
  | 2 => if b = .left then { u with classifier := { u.classifier with cr := crOf (passedCalib img .left).kt } } else u
  | 3 => if b = .right then { u with classifier := { u.classifier with cr := crOf (passedCalib img .right).kt } } else u
  | _ => u

/-- The monitor as one zone of the pass leaves it. -/
def monitorPassed (img : List Host.Cell) (m : Monitor) : Nat → Monitor
  | 4 => m.takeZone4 (passedZone4 img)
  | _ => m

/-- No flag moves but WEAR, on the booms' ports and on the machine port. -/
def State.onlyWearMoves (s t : State) : Prop :=
  (∀ b : Boom, (t.port b.port).causes = { (s.port b.port).causes with c6 := (t.port b.port).causes.c6 }) ∧
    t.portMachine.causes = { s.portMachine.causes with c7 := t.portMachine.causes.c7 }

theorem State.onlyWearMoves.of_ports {s t : State} (h : ∀ p, t.port p = s.port p) : s.onlyWearMoves t :=
  ⟨fun b => by rw [h], by rw [show t.portMachine = s.portMachine from h .machine]⟩

theorem State.onlyWearMoves.trans {s t u : State} (h : s.onlyWearMoves t) (k : t.onlyWearMoves u) : s.onlyWearMoves u :=
  ⟨fun b => by rw [k.1 b, h.1 b], by rw [k.2, h.2]⟩

theorem onlyWearMoves_modWear (s : State) (b : Boom) (f : WearTable → WearTable) : s.onlyWearMoves (s.modWear b f) := by
  have raised := flagged_modWear s b f
  constructor
  · intro c
    rw [raised c.port, wearFlag_eq]
    cases c <;> simp [Causes.join, Causes.clear, Boom.port]
  · rw [show (s.modWear b f).portMachine = _ from raised .machine, wearFlag_eq]
    cases b <;> simp [Causes.join, Causes.clear, Boom.port, State.port]

/-- What one zone's values move. -/
theorem takePassed_moves (s : State) (img : List Host.Cell) (z : Nat) :
    (s.takePassed img z).backdrop = { s.backdrop with params := paramsPassed img s.params z } ∧
      (∀ b, (s.takePassed img z).boom b = boomPassed img b (s.boom b) z) ∧
      (s.takePassed img z).monitor = monitorPassed img s.monitor z ∧ s.onlyWearMoves (s.takePassed img z) ∧
      (s.takePassed img z).arbiter = s.arbiter ∧ (s.takePassed img z).rowMap = s.rowMap ∧ (s.takePassed img z).holeLog = s.holeLog ∧
      (s.takePassed img z).faultLog = s.faultLog := by
  have zone1 (z : Zone1) : s.onlyWearMoves (s.takeZone1 z) :=
    .trans (t := { s with params := { s.params with classifier := z.consts } }) (.of_ports fun p => by cases p <;> rfl)
      ((onlyWearMoves_modWear _ _ _).trans (onlyWearMoves_modWear _ _ _))
  rcases z with _ | _ | _ | _ | _ | _ | z
  case zero => exact ⟨rfl, fun b => by cases b <;> rfl, rfl, .of_ports fun p => by cases p <;> rfl, rfl, rfl, rfl, rfl⟩
  case succ.zero =>
    refine ⟨?_, fun b => ?_, ?_, zone1 _, ?_, ?_, ?_, ?_⟩
    · simp only [State.takePassed, State.takeZone1, backdrop_modWear]; rfl
    · cases b
      · simp only [State.takePassed, State.takeZone1, boom_modWear_other _ (show Boom.left ≠ .right by decide), boom_modWear_same]; rfl
      · simp only [State.takePassed, State.takeZone1, boom_modWear_same, boom_modWear_other _ (show Boom.right ≠ .left by decide)]; rfl
    all_goals simp [State.takePassed, State.takeZone1, monitorPassed]
  all_goals exact ⟨rfl, fun b => by cases b <;> rfl, rfl, .of_ports fun p => by cases p <;> rfl, rfl, rfl, rfl, rfl⟩

/-- Records of bad zones, one for each of those listed, join the fault log. -/
def State.zonesLogged (s t : State) (zs : List Nat) : Prop :=
  ∃ rs : List FaultRecord, t.faultLog = rs.foldl FaultLog.record s.faultLog ∧ rs.map FaultRecord.detail = zs.map some ∧
    ∀ r ∈ rs, r.code = .configZoneBad ∧ r.source = .device ∧ r.time = s.millis

theorem State.zonesLogged.trans {s t u : State} {xs ys : List Nat} (h : s.zonesLogged t xs) (k : t.zonesLogged u ys)
    (hm : t.millis = s.millis) : s.zonesLogged u (xs ++ ys) := by
  obtain ⟨rs, log, detail, each⟩ := h
  obtain ⟨rs', log', detail', each'⟩ := k
  refine ⟨rs ++ rs', by rw [log', log, List.foldl_append], by rw [List.map_append, detail, detail', List.map_append], fun r hr => ?_⟩
  rcases List.mem_append.1 hr with h | h
  · exact each r h
  · exact hm ▸ each' r h

/-- What one zone of the pass moves. -/
theorem passZone_moves (s : State) (z : Nat) :
    (s.passZone true z).backdrop = { s.backdrop with
      params := paramsPassed s.mem.image s.params z, mem := { s.mem with zones := zonesPassed s.mem.image s.mem.zones z } } ∧
      (∀ b, (s.passZone true z).boom b = boomPassed s.mem.image b (s.boom b) z) ∧
      (s.passZone true z).monitor = monitorPassed s.mem.image s.monitor z ∧ s.onlyWearMoves (s.passZone true z) ∧
      (s.passZone true z).arbiter = s.arbiter ∧ (s.passZone true z).rowMap = s.rowMap ∧ (s.passZone true z).holeLog = s.holeLog ∧
      s.zonesLogged (s.passZone true z) ([z].filter (zoneRecorded s.mem.image)) := by
  obtain ⟨back, boom, monitor, ports, arbiter, row, holes, faults⟩ := takePassed_moves s s.mem.image z
  rw [passZone_eq]
  generalize s.takePassed s.mem.image z = t at *
  have mem : t.mem = s.mem := congrArg Backdrop.mem back
  have millis : t.millis = s.millis := congrArg Backdrop.millis back
  have backdrop : ({ t with mem := { t.mem with zones := zonesPassed s.mem.image t.mem.zones z } } : State).backdrop =
      { s.backdrop with
        params := paramsPassed s.mem.image s.params z, mem := { s.mem with zones := zonesPassed s.mem.image s.mem.zones z } } :=
    calc _ = { t.backdrop with mem := { t.mem with zones := zonesPassed s.mem.image t.mem.zones z } } := rfl
      _ = _ := by rw [back, mem]
  have still : s.onlyWearMoves ({ t with mem := { t.mem with zones := zonesPassed s.mem.image t.mem.zones z } } : State) :=
    ports.trans (.of_ports fun p => by cases p <;> rfl)
  cases hr : zoneRecorded s.mem.image z with
  | false =>
    refine ⟨backdrop, boom, monitor, still, arbiter, row, holes, [], faults, by simp [hr], by simp⟩
  | true =>
    exact ⟨backdrop, boom, monitor, still.trans (.of_ports fun p => by cases p <;> rfl), arbiter, row, holes, [_],
      congrArg (FaultLog.record · _) faults, by simp [hr]; rfl, by simp; exact ⟨rfl, rfl, millis⟩⟩

/-- What a run of zones moves. -/
theorem passZones_moves (zs : List Nat) : ∀ s : State,
    let t := zs.foldl (State.passZone true) s
    t.backdrop = { s.backdrop with
      params := zs.foldl (paramsPassed s.mem.image) s.params
      mem := { s.mem with zones := zs.foldl (zonesPassed s.mem.image) s.mem.zones } } ∧
      (∀ b, t.boom b = zs.foldl (boomPassed s.mem.image b) (s.boom b)) ∧
      t.monitor = zs.foldl (monitorPassed s.mem.image) s.monitor ∧ s.onlyWearMoves t ∧
      t.arbiter = s.arbiter ∧ t.rowMap = s.rowMap ∧ t.holeLog = s.holeLog ∧ s.zonesLogged t (zs.filter (zoneRecorded s.mem.image)) := by
  induction zs with
  | nil => exact fun s => ⟨rfl, fun b => rfl, rfl, .of_ports fun _ => rfl, rfl, rfl, rfl, [], rfl, rfl, by simp⟩
  | cons z zs ih =>
    intro s
    obtain ⟨back, boom, monitor, ports, arbiter, row, holes, log⟩ := passZone_moves s z
    obtain ⟨back', boom', monitor', ports', arbiter', row', holes', log'⟩ := ih (s.passZone true z)
    have mem : (s.passZone true z).mem = { s.mem with zones := zonesPassed s.mem.image s.mem.zones z } := congrArg Backdrop.mem back
    have params : (s.passZone true z).params = paramsPassed s.mem.image s.params z := congrArg Backdrop.params back
    have image : (s.passZone true z).mem.image = s.mem.image := by rw [mem]
    rw [image] at back' boom' monitor' log'
    simp only [List.foldl_cons]
    refine ⟨?_, fun b => ?_, ?_, ports.trans ports', arbiter'.trans arbiter, row'.trans row, holes'.trans holes, ?_⟩
    · rw [back', back, mem, params]
    · rw [boom', boom]
    · rw [monitor', monitor]
    · have h := log.trans log' (congrArg Backdrop.millis back)
      rwa [← List.filter_append] at h

end Sys2Proof.Machine

/-! ## A RESET request taken (O17) -/
namespace Sys2Proof.Machine

/-! ### The seven zones together -/

/-- The state of a zone behind the pass. -/
def zoneJudged (img : List Host.Cell) (z : Nat) : ZoneState :=
  if zoneSumOk img z then (if zoneNeedsClamp img z then .clamped else .good) else .defaulted

theorem zonesPassed_lt {img : List Host.Cell} {z : Nat} (h : z < 6) (zones : List ZoneState) :
    zonesPassed img zones z = zones.set z (zoneJudged img z) := by
  unfold zonesPassed zoneJudged
  rw [if_neg (show z ≠ 6 by omega)]
  split <;> rfl

theorem zonesPassed_six (img : List Host.Cell) (zones : List ZoneState) :
    zonesPassed img zones 6 = if zoneSumOk img 6 then zones.set 6 .good else zones := rfl

theorem zones_range {img : List Host.Cell} {zones : List ZoneState} (h : zones.length = 7) :
    (∀ z, z < 6 → ((List.range 7).foldl (zonesPassed img) zones)[z]? = some (zoneJudged img z)) ∧
      ((List.range 7).foldl (zonesPassed img) zones)[6]? = if zoneSumOk img 6 then some .good else zones[6]? := by
  have six : (List.range 7).foldl (zonesPassed img) zones = zonesPassed img
      ((List.range 6).foldl (fun zs z => zs.set z (zoneJudged img z)) zones) 6 := by
    rw [show List.range 7 = List.range 6 ++ [6] from rfl, List.foldl_append]
    have below : (List.range 6).foldl (zonesPassed img) zones = (List.range 6).foldl (fun zs z => zs.set z (zoneJudged img z)) zones :=
      List.foldl_ext _ _ _ fun zs z hz => zonesPassed_lt (List.mem_range.1 hz) zs
    rw [below]
    rfl
  rw [six, zonesPassed_six]
  match zones, h with
  | [_, _, _, _, _, _, _], _ =>
    constructor
    · intro z hz
      split <;> interval_cases z <;> rfl
    · split <;> rfl

theorem params_range (img : List Host.Cell) (p : Params) : (List.range 7).foldl (paramsPassed img) p =
    { machineNumber := if zoneSumOk img 0 then field img 0 0 2 else 0, classifier := (passedZone1 img).consts
      calibLeft := passedCalib img .left, calibRight := passedCalib img .right, plan := passedZone5 img } := rfl

theorem boom_range (img : List Host.Cell) (b : Boom) (u : BoomUnit) : (List.range 7).foldl (boomPassed img b) u =
    { u with
      classifier := { u.classifier with cr := crOf (passedCalib img b).kt }
      wear := u.wear.retune (passedZone1 img).thresholds (passedZone1 img).consts.wearRate } := by
  cases b <;> rfl

theorem monitor_range (img : List Host.Cell) (m : Monitor) : (List.range 7).foldl (monitorPassed img) m = m.takeZone4 (passedZone4 img) :=
    rfl

theorem recorded_range (img : List Host.Cell) :
    (List.range 7).filter (zoneRecorded img) = (List.range 6).filter fun z => !zoneSumOk img z := by
  rw [show List.range 7 = List.range 6 ++ [6] from rfl, List.filter_append,
    show [6].filter (zoneRecorded img) = [] by simp [zoneRecorded], List.append_nil]
  refine List.filter_congr fun z hz => ?_
  simp [zoneRecorded, show z ≠ 6 from by have := List.mem_range.1 hz; omega]

/-- Channels at reset take new limits, whatever limits they had. -/
theorem take_reset : ∀ cs ls : List ChannelLimits, cs.length = ls.length →
    (cs.map Channel.reset).zipWith Channel.take ls = ls.map Channel.reset
  | [], [], _ => rfl
  | c :: cs, l :: ls, h => by
    rw [List.map_cons, List.zipWith_cons_cons, take_reset cs ls (by simpa using h), List.map_cons]
    congr 1
    unfold Channel.take
    split <;> rfl

theorem length_passedZone4 (img : List Host.Cell) : (passedZone4 img).channels.length = 6 := by
  unfold passedZone4
  split <;> rfl

/-- A monitor at its reset column takes zone 4 as if it were reset with it. -/
theorem takeZone4_reset {z : Zone4} (img : List Host.Cell) (h : z.channels.length = 6) :
    (Monitor.reset z).takeZone4 (passedZone4 img) = Monitor.reset (passedZone4 img) := by
  unfold Monitor.takeZone4 Monitor.reset
  simp only [take_reset _ _ (h.trans (length_passedZone4 img).symm)]

/-! ### Before the pass -/

/-- The part before the pass of a RESET request: its column, the straps sampled, and the image to be judged. -/
def State.resetColumn (s : State) (pins : Straps) : State :=
  State.modMem { ({ s with check := s.check.stopForReset } : State).cutMemory.resetCommon with straps := pins }
    fun m => { m with image := m.memory }

theorem requestReset_eq (s : State) (pins : Straps) : s.requestReset pins =
    { (List.range 7).foldl (State.passZone true) (s.givenUp.resetColumn pins) with phase := .zonesRead true } := rfl

theorem quiet_cut (m : MasterPort) : m.cut.quiet = { MasterPort.reset with transfer := m.transfer.map fun _ => .onClosed } := rfl

theorem transfer_of_backdrop {s t : State} (h : t.backdrop = s.backdrop) (p : Port) : (t.port p).transfer = (s.port p).transfer := by
  cases p
  · exact (congrArg (fun x : Backdrop => x.portLeft.transfer) h :)
  · exact (congrArg (fun x : Backdrop => x.portRight.transfer) h :)
  · exact (congrArg (fun x : Backdrop => x.portMachine.transfer) h :)

theorem check_stopForReset (c : SelfCheck) : c.stopForReset.running = false ∧
    c.stopForReset.last = if c.running then some { result := 2, detail := none } else c.last := by
  unfold SelfCheck.stopForReset
  cases h : c.running <;> simp [h]

/-! ### The wear tables and the records -/

theorem abortedWear_keeps (s : State) (b : Boom) :
    (s.abortedWear b).cmDrilled = (s.boom b).wear.cmDrilled ∧ (s.abortedWear b).remainder = (s.boom b).wear.remainder ∧
      (s.abortedWear b).feedZero.raw = (s.boom b).wear.feedZero.raw ∧ (s.abortedWear b).linkQuality.raw = (s.boom b).wear.linkQuality.raw ∧
      (((s.boom b).ctl.state = .idle ∨ (s.boom b).ctl.hole = none) → (s.abortedWear b).outcomes = (s.boom b).wear.outcomes) ∧
      ((s.boom b).ctl.state ≠ .idle → (s.boom b).ctl.hole.isSome = true → (s.abortedWear b).outcomes =
        (s.boom b).wear.outcomes.drop ((s.boom b).wear.outcomes.length - 15) ++
          [{ grade := (s.boom b).ctl.state.gradeGivenUp, fault := some .resetAbort }]) := by
  unfold State.abortedWear
  split
  · rename_i h
    refine ⟨rfl, rfl, rfl, rfl, fun _ => rfl, fun hi hs => ?_⟩
    rcases h with h | h
    · exact absurd h hi
    · simp [h] at hs
  · rename_i h
    refine ⟨rfl, rfl, rfl, rfl, fun k => absurd k h, fun _ _ => ?_⟩
    rw [WearTable.addOutcome, appendCapped_eq, show ∀ n, n + 1 - 16 = n - 15 by omega]

theorem abortedRecords_spec (s : State) (b : Boom) :
    ((s.boom b).ctl.state = .idle ∨ (s.boom b).ctl.hole = none → s.abortedRecords b = []) ∧
      ∀ h, (s.boom b).ctl.hole = some h → (s.boom b).ctl.state ≠ .idle → s.abortedRecords b = [s.abortedRecord b h] := by
  unfold State.abortedRecords
  constructor
  · rintro (h | h)
    · rw [if_pos h]
    · rw [h]; exact ite_self _
  · intro h hh hi
    rw [if_neg hi, hh]; rfl

/-- What a part holds behind the pass of a RESET request, its phase apart. -/
structure State.Reread (s : State) (pins : Straps) (t : State) : Prop where
  straps : t.straps = pins
  resetNLow : t.resetNLow = s.resetNLow
  millis : t.millis = s.millis
  postFail : t.postFail = s.postFail
  check : t.check = s.check.stopForReset
  memory : ∃ n, t.mem.memory = cutPage s.mem.memory n s.mem.op.pageInProgress
  mem : t.mem = { s.mem with
    memory := t.mem.memory, image := t.mem.memory, op := .none, pendingSave := false, opTimer := 0
    zones := (List.range 7).foldl (zonesPassed t.mem.memory) s.mem.zones }
  params : t.params = (List.range 7).foldl (paramsPassed t.mem.memory) s.params
  monitor : t.monitor = (Monitor.reset s.monitor.zone4).takeZone4 (passedZone4 t.mem.memory)
  booms : ∀ b, t.boom b =
    { link := HeadLink.reset, tracker := DepthTracker.reset, classifier := { layers := [], last := none, cr := (t.calib b).kt * 899536 }
      anchorage := none, ctl := Controller.reset
      wear := (s.abortedWear b).retune (passedZone1 t.mem.memory).thresholds (passedZone1 t.mem.memory).consts.wearRate }
  quiet : ∀ p, (t.port p).quiet = { MasterPort.reset with transfer := (s.port p).transfer.map fun _ => .onClosed }
  boomCauses : ∀ b : Boom, (t.port b.port).causes = { Causes.clear with c6 := (t.port b.port).causes.c6 }
  machineCauses : t.portMachine.causes = { Causes.clear with c7 := t.portMachine.causes.c7 }
  demands : t.arbiter.demands = []
  row : t.rowMap = State.rowGivenUp { s with rowMap := s.rowGivenUp .left } .right
  holes : t.holeLog = (s.abortedRecords .left ++ s.abortedRecords .right).foldl HoleLog.archive s.holeLog
  faults : s.zonesLogged t ((List.range 6).filter fun z => !zoneSumOk t.mem.memory z)

/-- Both holes closed (`givenUp_spec`), the column, and the seven zones one after the other (`passZones_moves`). -/
theorem reread_passZones (s : State) (pins : Straps) :
    s.Reread pins ((List.range 7).foldl (State.passZone true) (s.givenUp.resetColumn pins)) := by
  obtain ⟨gback, gmonitor, gfaults, gholes, grow, gwear⟩ := givenUp_spec s
  obtain ⟨back, boom, monitor, ⟨boomPorts, machinePort⟩, arbiter, row, holes, rs, faults, details, each⟩ :=
    passZones_moves (List.range 7) (s.givenUp.resetColumn pins)
  generalize (List.range 7).foldl (State.passZone true) (s.givenUp.resetColumn pins) = t at *
  generalize s.givenUp = g at *
  have gmem : g.mem = s.mem := congrArg Backdrop.mem gback
  have gcheck : g.check = s.check := congrArg Backdrop.check gback
  have column : (g.resetColumn pins).mem = { s.mem with
      memory := cutPage s.mem.memory g.free s.mem.op.pageInProgress, op := .none, pendingSave := false, opTimer := 0
      image := cutPage s.mem.memory g.free s.mem.op.pageInProgress } := by
    rw [← gmem]; rfl
  have tmem : t.mem = { (g.resetColumn pins).mem with
      zones := (List.range 7).foldl (zonesPassed (g.resetColumn pins).mem.image) (g.resetColumn pins).mem.zones } :=
    congrArg Backdrop.mem back
  have memory : t.mem.memory = cutPage s.mem.memory g.free s.mem.op.pageInProgress := by rw [tmem, column]
  have image : (g.resetColumn pins).mem.image = t.mem.memory := by rw [memory, column]
  have params : t.params = (List.range 7).foldl (paramsPassed t.mem.memory) s.params := by
    rw [← image]
    exact (congrArg Backdrop.params back).trans (by rw [params_range, params_range])
  have calibs (b : Boom) : passedCalib t.mem.memory b = t.calib b := by
    rw [params_range] at params
    cases b <;> simp only [State.calib, params]
  rw [image] at boom monitor
  rw [image, recorded_range] at details
  refine ⟨congrArg Backdrop.straps back, (congrArg Backdrop.resetNLow back).trans (congrArg Backdrop.resetNLow gback),
    (congrArg Backdrop.millis back).trans (congrArg Backdrop.millis gback),
    (congrArg Backdrop.postFail back).trans (congrArg Backdrop.postFail gback),
    (congrArg Backdrop.check back).trans (congrArg SelfCheck.stopForReset gcheck), ⟨_, memory⟩, ?_, params, ?_, fun b => ?_, fun p => ?_,
    fun b => ?_, machinePort, congrArg Arbiter.demands arbiter, row.trans grow, holes.trans gholes,
    ⟨rs, faults.trans (congrArg (rs.foldl FaultLog.record ·) gfaults), details, fun r hr => ?_⟩⟩
  · rw [memory, ← congrArg MemoryController.zones column]
    refine tmem.trans ?_
    rw [column]
  · exact (monitor.trans (monitor_range _ _)).trans
      (congrArg (fun m : Monitor => (Monitor.reset m.zone4).takeZone4 (passedZone4 t.mem.memory)) gmonitor)
  · rw [boom, boom_range, ← gwear, calibs]
    cases b <;> rfl
  · rw [← transfer_of_backdrop gback, ← quiet_cut]
    cases p
    · exact congrArg Backdrop.portLeft back
    · exact congrArg Backdrop.portRight back
    · exact congrArg Backdrop.portMachine back
  · refine (boomPorts b).trans ?_
    cases b <;> rfl
  · obtain ⟨code, source, time⟩ := each r hr
    exact ⟨code, source, time.trans (congrArg Backdrop.millis gback)⟩

/-- Settles O17 from what the part holds behind the pass (`reread_passZones`). -/
theorem aRequestedResetClosesTheHolesAndRereadsTheZones : Obligations.ARequestedResetClosesTheHolesAndRereadsTheZones := by
  unfold Obligations.ARequestedResetClosesTheHolesAndRereadsTheZones
  intro s pins q htaken hchannels hzones
  obtain ⟨held, -, size⟩ := htaken
  have eq := requestReset_eq s pins
  have r := reread_passZones s pins
  generalize (List.range 7).foldl (State.passZone true) (s.givenUp.resetColumn pins) = t at *
  obtain ⟨judged, six⟩ := zones_range (img := t.mem.memory) hzones
  have zones : t.mem.zones = (List.range 7).foldl (zonesPassed t.mem.memory) s.mem.zones := congrArg MemoryController.zones r.mem
  have booms (b : Boom) : (s.requestReset pins).boom b = t.boom b := by rw [eq]; cases b <;> rfl
  have wear (b : Boom) : ((s.requestReset pins).boom b).wear = _ := congrArg BoomUnit.wear ((booms b).trans (r.booms b))
  refine ⟨s.requestReset pins, by simp [exec, execReset, held, size], ?_⟩
  rw [eq] at booms wear ⊢
  refine ⟨rfl, r.straps, fun b => State.drivesNothing_of_stopped ?_, r.resetNLow, r.millis, r.postFail, fun b => ?_, fun p => ?_,
      fun b => ?_,
    r.machineCauses, r.demands, ?_, ?_, congrArg MemoryController.op r.mem, congrArg MemoryController.pendingSave r.mem,
    congrArg MemoryController.image r.mem, fun a ha => ?_,
    ⟨r.params, ?_, fun z hz => ?_, ?_, r.faults, fun b => ?_⟩,
    ⟨s.abortedRecords, r.holes, fun b => ?_⟩, r.row⟩
  · rw [booms, r.booms]; rfl
  · rw [wear, booms]; exact r.booms b
  · cases p
    · exact r.quiet .left
    · exact r.quiet .right
    · exact r.quiet .machine
  · cases b
    · exact r.boomCauses .left
    · exact r.boomCauses .right
  · exact (congrArg SelfCheck.running r.check).trans (check_stopForReset _).1
  · exact (congrArg SelfCheck.last r.check).trans (check_stopForReset _).2
  · obtain ⟨n, memory⟩ := r.memory
    exact (congrArg (Memory.read · a) memory).trans (read_cutPage_other _ _ _ ha)
  · exact r.monitor.trans (takeZone4_reset _ (by simpa [Monitor.zone4] using hchannels))
  · exact (congrArg (·[z]?) zones).trans (judged z hz)
  · exact (congrArg (·[6]?) zones).trans six
  · obtain ⟨cm, remainder, feed, quality, same, added⟩ := abortedWear_keeps s b
    rw [wear]
    refine ⟨cm, remainder, ?_, feed, quality, same, added⟩
    rw [← cm]
    rfl
  · obtain ⟨none', one⟩ := abortedRecords_spec s b
    exact ⟨none', fun h hh hi => ⟨_, one h hh hi, rfl, rfl, rfl, rfl, rfl, rfl, rfl, rfl, rfl⟩⟩

end Sys2Proof.Machine

/-! ## The laws of the stages, seen through what they look at (O8)

The laws that tie the booms together look at few fields of a boom, of the demand list and of the ports. What an allocation makes of those
fields is one function of the demand list before and after it, so every law is kept by looking at these views alone. -/
namespace Sys2Proof.Machine

/-! ### The demand list by owner -/

/-- The kinds and floors of an owner's entries, in order. -/
def keysOf (ds : List Demand) (p : Port) : List (DemandKind × Nat) := (ds.filter fun d => d.owner == p).map fun d => (d.kind, d.floor)

theorem kindsOf_keys (ds : List Demand) (b : Boom) : kindsOf ds b = (keysOf ds b.port).map Prod.fst := by
  simp [kindsOf, keysOf, Function.comp_def]

theorem allocPass_keys (sel : Demand → Bool) (give : Nat → Demand → Nat) :
    ∀ (ds : List Demand) (cap : Nat), (allocPass sel give cap ds).1.map (fun d => (d.owner, d.kind, d.floor)) =
      ds.map fun d => (d.owner, d.kind, d.floor)
  | [], _ => rfl
  | d :: ds, cap => by
    unfold allocPass
    split <;> simp [allocPass_keys sel give ds]

theorem allocate_keys (q : Nat) (ds : List Demand) :
    (allocate q ds).map (fun d => (d.owner, d.kind, d.floor)) = ds.map fun d => (d.owner, d.kind, d.floor) := by
  simp only [allocate, allocPass_keys]
  simp

theorem keysOf_eq (ds : List Demand) (p : Port) :
    keysOf ds p = ((ds.map fun d => (d.owner, d.kind, d.floor)).filter fun x => x.1 == p).map Prod.snd := by
  simp [keysOf, List.filter_map, Function.comp_def]

@[simp] theorem keysOf_allocate (q : Nat) (ds : List Demand) (p : Port) : keysOf (allocate q ds) p = keysOf ds p := by
  rw [keysOf_eq, allocate_keys, ← keysOf_eq]

@[simp] theorem keysOf_nil (p : Port) : keysOf [] p = [] := rfl

@[simp] theorem keysOf_append (ds es : List Demand) (p : Port) : keysOf (ds ++ es) p = keysOf ds p ++ keysOf es p := by
  simp [keysOf]

theorem keysOf_newDemand (z : Zone5) (p q : Port) (k : DemandKind) :
    keysOf [newDemand z p k] q = if p = q then [(k, (flowOf z k).floor)] else [] := by
  by_cases h : p = q <;> simp [keysOf, newDemand, h]

/-- Entries taken out that are not an owner's. -/
theorem keysOf_filter_other {ds : List Demand} {sel : Demand → Bool} {p : Port} (h : ∀ d ∈ ds, d.owner = p → sel d = true) :
    keysOf (ds.filter sel) p = keysOf ds p := by
  rw [keysOf, keysOf, List.filter_filter]
  congr 1
  refine List.filter_congr fun d hd => ?_
  by_cases ho : d.owner = p
  · simp [ho, h d hd ho]
  · simp [ho]

/-- All of an owner's entries taken out. -/
theorem keysOf_filter_own {ds : List Demand} {sel : Demand → Bool} {p : Port} (h : ∀ d ∈ ds, d.owner = p → sel d = false) :
    keysOf (ds.filter sel) p = [] := by
  rw [keysOf, List.map_eq_nil_iff, List.filter_eq_nil_iff]
  intro d hd ho
  obtain ⟨hm, hs⟩ := List.mem_filter.1 hd
  simp [h d hm (by simpa using ho)] at hs

theorem keysOf_filter_subset {ds : List Demand} (sel : Demand → Bool) (p : Port) : keysOf (ds.filter sel) p ⊆ keysOf ds p := by
  unfold keysOf
  exact List.map_subset _ fun d hd => by
    obtain ⟨h, ho⟩ := List.mem_filter.1 hd
    exact List.mem_filter.2 ⟨List.mem_of_mem_filter h, ho⟩

theorem port_ne {b c : Boom} (h : c ≠ b) : c.port ≠ b.port := by
  cases b <;> cases c <;> simp_all [Boom.port]

theorem boom_port_ne_machine (b : Boom) : b.port ≠ .machine := by cases b <;> simp [Boom.port]

/-! ### What the laws look at -/

/-- The fields of a boom that its laws look at. -/
structure BoomView where
  state : BoomState
  run : Option RunCondition
  firstRun : Bool
  insertToSpin : Option Nat
  gelDeadline : Option Nat
  torqueWindow : Option Nat
  hole : Option (Option Nat)
  peak : Nat
  link : LinkState
  headFault : Nat
  stopLatch : Bool

/-- The view of a boom. -/
def BoomUnit.view (u : BoomUnit) : BoomView :=
  { state := u.ctl.state, run := u.ctl.run, firstRun := u.ctl.firstRun, insertToSpin := u.ctl.insertToSpin
    gelDeadline := u.ctl.gelDeadline, torqueWindow := u.ctl.torqueWindow, hole := u.ctl.hole.map HoleRecord.peak, peak := u.ctl.peak
    link := u.link.state, headFault := u.link.headFault, stopLatch := u.link.stopLatch }

/-- A slot of the row is claimed for a boom. -/
def RowMap.claims (m : RowMap) (b : Boom) : Prop := ∃ sl ∈ m.slots, sl.state = .claimed b

/-- The laws of a boom that hold whatever its link and the interlocks do (R74, R76, R88, R119). -/
structure BoomView.based (v : BoomView) (claimed : Prop) : Prop where
  run : v.run.isSome = v.state.isStage
  hole : v.hole = none ↔ v.state = .idle
  peak : v.hole.join = none ∨ v.hole.join = some v.peak
  claim : ¬ claimed ↔ v.state = .idle

/-- The laws of a stage in progress, under a set of interlocks (R9, R75, R98). -/
structure BoomView.staged (v : BoomView) (i : Interlocks) : Prop where
  link : v.state.isStage = true → v.link = .up ∧ v.headFault = 0
  free : v.state.isStage = true → v.run ≠ some .suspended → i.inter (suspenders v.state) = Interlocks.empty
  runs : v.run = some .running → v.stopLatch = false ∧ v.firstRun = true

theorem boomLawful_iff (s : State) (b : Boom) :
    s.boomLawful b ↔ (s.boom b).view.based (s.rowMap.claims b) ∧ (s.boom b).view.staged s.interlocks := by
  have hole : (s.boom b).view.hole = none ↔ (s.boom b).ctl.hole = none := Option.map_eq_none_iff
  have join : (s.boom b).view.hole.join = (s.boom b).ctl.hole.bind HoleRecord.peak := by
    simp only [BoomUnit.view]
    cases (s.boom b).ctl.hole <;> rfl
  have claim : (∀ sl ∈ s.rowMap.slots, sl.state ≠ .claimed b) ↔ ¬ s.rowMap.claims b := by simp [RowMap.claims]
  constructor
  · rintro ⟨run, stage, runs, hh, peak, cl⟩
    exact ⟨⟨run, hole.trans hh, by rw [join]; exact peak, claim.symm.trans cl⟩,
      ⟨fun h => ⟨(stage h).1, (stage h).2.1⟩, fun h => (stage h).2.2, runs⟩⟩
  · rintro ⟨⟨run, hh, peak, cl⟩, ⟨link, free, runs⟩⟩
    exact ⟨run, fun h => ⟨(link h).1, (link h).2, free h⟩, runs, hole.symm.trans hh, by rw [← join]; exact peak, claim.trans cl⟩

/-! ### What a grant makes of a boom (R75, R92) -/

/-- A stage that becomes RUNNING. -/
def BoomView.entered (v : BoomView) : BoomView :=
  { v with
    run := some .running, firstRun := true, stopLatch := false
    insertToSpin := if v.firstRun = false ∧ v.state = .spinning then none else v.insertToSpin
    gelDeadline := if v.firstRun = false ∧ v.state = .spinning then some 0 else v.gelDeadline
    torqueWindow := if v.firstRun = false ∧ v.state = .torquing then none else v.torqueWindow }

/-- A boom with the grant of its entry acted on. -/
def BoomView.applied (v : BoomView) (d : Demand) : BoomView :=
  if v.run = some .waitFlow ∨ v.run = some .paused then (if d.floor ≤ d.grant then v.entered else v)
  else if v.run = some .running ∧ d.grant < d.floor then { v with run := some .paused } else v

/-- A boom as the change from one demand list to another leaves it. -/
def BoomView.handed (v : BoomView) (old new : List Demand) (b : Boom) : BoomView :=
  if grantsChanged old new b.port then (boomDemand new b).elim v v.applied else v

theorem view_enterRunning (s : State) (b : Boom) : ((s.enterRunning b).boom b).view = (s.boom b).view.entered := by
  unfold State.enterRunning
  simp only [boom_modLink_same, boom_modCtl_same, BoomUnit.view, BoomView.entered]
  by_cases hf : (s.boom b).ctl.firstRun = true
  · simp [hf]
  · by_cases hs : (s.boom b).ctl.state = .spinning
    · simp [hf, hs]
    · by_cases ht : (s.boom b).ctl.state = .torquing <;> simp [hf, hs, ht]

theorem view_applyGrant (s : State) (b : Boom) (d : Demand) : ((s.applyGrant b d).boom b).view = (s.boom b).view.applied d := by
  have run : (s.boom b).view.run = (s.boom b).ctl.run := rfl
  unfold BoomView.applied
  rw [run]
  cases hr : (s.boom b).ctl.run with
  | none => simp [State.applyGrant, hr]
  | some r =>
    cases r with
    | waitFlow | paused => by_cases hg : d.floor ≤ d.grant <;> simp [State.applyGrant, hr, hg, view_enterRunning]
    | running =>
      by_cases hg : d.grant < d.floor
      · simp [State.applyGrant, hr, hg]; rfl
      · simp [State.applyGrant, hr, hg]
    | suspended => simp [State.applyGrant, hr]

theorem view_handGrant (s : State) (b : Boom) (old new : List Demand) :
    ((s.handGrant b old new).boom b).view = (s.boom b).view.handed old new b := by
  unfold State.handGrant BoomView.handed
  cases grantsChanged old new b.port with
  | false => rfl
  | true =>
    cases boomDemand new b with
    | none => simp
    | some d => simp [view_applyGrant]

/-- What an allocation makes of each boom. -/
theorem view_reallocate (s : State) (old : List Demand) (b : Boom) :
    ((s.reallocate old).boom b).view = (s.boom b).view.handed old (s.reallocate old).arbiter.demands b := by
  rw [arbiter_reallocate]
  unfold State.reallocate
  simp only []
  have own : ∀ u : State, (∀ c, u.boom c = s.boom c) →
      (((u.handGrant .left old (allocate s.arbiter.qAvail s.arbiter.demands)).handGrant .right old
        (allocate s.arbiter.qAvail s.arbiter.demands)).boom b).view =
      (s.boom b).view.handed old (allocate s.arbiter.qAvail s.arbiter.demands) b := by
    intro u hu
    cases b
    · rw [boom_handGrant_other (by decide), view_handGrant, hu]
    · rw [view_handGrant, boom_handGrant_other (by decide), hu]
  split
  · rw [boom_raiseMachine]
    exact own _ fun c => by simp
  · exact own _ fun c => by simp

/-! ### What an allocation cannot do to a boom -/

theorem grantsChanged_self (ds : List Demand) (p : Port) : grantsChanged ds ds p = false := by
  rw [Bool.eq_false_iff, Ne, grantsChanged_iff]
  rintro ⟨k, h⟩
  exact h rfl

theorem handed_self (v : BoomView) (ds : List Demand) (b : Boom) : v.handed ds ds b = v := by
  rw [BoomView.handed, grantsChanged_self]; rfl

theorem applied_keeps (v : BoomView) (d : Demand) :
    (v.applied d).state = v.state ∧ (v.applied d).hole = v.hole ∧ (v.applied d).peak = v.peak ∧ (v.applied d).link = v.link ∧
      (v.applied d).headFault = v.headFault ∧ (v.applied d).run.isSome = v.run.isSome ∧
        ((v.applied d).run = some .suspended ↔ v.run = some .suspended) := by
  unfold BoomView.applied
  split
  · rename_i h
    split
    · refine ⟨rfl, rfl, rfl, rfl, rfl, ?_, ?_⟩ <;> rcases h with h | h <;> simp [BoomView.entered, h]
    · exact ⟨rfl, rfl, rfl, rfl, rfl, rfl, .rfl⟩
  · split
    · rename_i h
      exact ⟨rfl, rfl, rfl, rfl, rfl, by simp [h.1], by simp [h.1]⟩
    · exact ⟨rfl, rfl, rfl, rfl, rfl, rfl, .rfl⟩

theorem handed_keeps (v : BoomView) (old new : List Demand) (b : Boom) :
    (v.handed old new b).state = v.state ∧ (v.handed old new b).hole = v.hole ∧ (v.handed old new b).peak = v.peak ∧
      (v.handed old new b).link = v.link ∧ (v.handed old new b).headFault = v.headFault ∧
      (v.handed old new b).run.isSome = v.run.isSome ∧
      ((v.handed old new b).run = some .suspended ↔ v.run = some .suspended) := by
  unfold BoomView.handed
  split
  · cases boomDemand new b with
    | none => exact ⟨rfl, rfl, rfl, rfl, rfl, rfl, .rfl⟩
    | some d => exact applied_keeps v d
  · exact ⟨rfl, rfl, rfl, rfl, rfl, rfl, .rfl⟩

theorem based_handed {v : BoomView} {c : Prop} (h : v.based c) (old new : List Demand) (b : Boom) : (v.handed old new b).based c := by
  obtain ⟨state, hole, peak, -, -, run, -⟩ := handed_keeps v old new b
  exact ⟨by rw [run, state]; exact h.run, by rw [hole, state]; exact h.hole, by rw [hole, peak]; exact h.peak,
    by rw [state]; exact h.claim⟩

theorem runs_applied {v : BoomView} (h : v.run = some .running → v.stopLatch = false ∧ v.firstRun = true) (d : Demand) :
    (v.applied d).run = some .running → (v.applied d).stopLatch = false ∧ (v.applied d).firstRun = true := by
  unfold BoomView.applied
  split
  · split
    · exact fun _ => ⟨rfl, rfl⟩
    · exact h
  · split
    · exact fun k => by simp at k
    · exact h

theorem staged_handed {v : BoomView} {i : Interlocks} (h : v.staged i) (old new : List Demand) (b : Boom) :
    (v.handed old new b).staged i := by
  obtain ⟨state, -, -, link, fault, -, suspended⟩ := handed_keeps v old new b
  refine ⟨by rw [state, link, fault]; exact h.link, by rw [state, Ne, suspended]; exact h.free, ?_⟩
  unfold BoomView.handed
  split
  · cases boomDemand new b with
    | none => exact h.runs
    | some d => exact runs_applied h.runs d
  · exact h.runs

/-- A boom in no stage has no law of a stage to keep. -/
theorem staged_of_rest {v : BoomView} (hs : v.state.isStage = false) (hr : v.run ≠ some .running) (i : Interlocks) : v.staged i :=
  ⟨fun h => by simp [hs] at h, fun h => by simp [hs] at h, fun h => absurd h hr⟩

end Sys2Proof.Machine

/-! ## The course of a boom from one state to the next (O8)

Whatever a step does, a boom's entry in the list stays and its run condition follows the grant, or a stage begins with an entry of its
own, or the boom has no entry and calls for none. The laws on demands and run conditions follow from that alone. -/
namespace Sys2Proof.Machine

/-! ### A boom's only entry -/

theorem entry_of_keys {ds : List Demand} {b : Boom} {k : DemandKind} {f : Nat} (h : keysOf ds b.port = [(k, f)]) :
    ∃ d, d ∈ ds ∧ boomDemand ds b = some d ∧ d.kind = k ∧ d.floor = f ∧ grantOf ds b.port k = d.grant := by
  obtain ⟨d, hd, key⟩ := List.map_eq_singleton_iff.1 h
  obtain ⟨rfl, rfl⟩ := Prod.mk.inj key
  refine ⟨d, List.mem_of_mem_filter (hd ▸ List.mem_singleton_self d), ?_, rfl, rfl, ?_⟩
  · rw [boomDemand, ← List.head?_filter, hd]; rfl
  · have found : findDemand ds b.port d.kind = some d := by
      have owned : (ds.filter fun d => d.owner == b.port).find? (fun x => x.kind == d.kind) = some d := by rw [hd]; simp
      rw [List.find?_filter] at owned
      rw [findDemand, ← owned]
      congr 1
      funext x
      rw [Bool.eq_iff_iff]
      simp
    rw [grantOf, found]; rfl

theorem boomDemand_of_no_keys {ds : List Demand} {b : Boom} (h : keysOf ds b.port = []) : boomDemand ds b = none :=
  boomDemand_none (by rw [kindsOf_keys, h]; rfl)

theorem grantOf_of_no_keys {ds : List Demand} {p : Port} {k : DemandKind} (h : k ∉ (keysOf ds p).map Prod.fst) : grantOf ds p k = 0 := by
  have none' : findDemand ds p k = none := by
    rw [findDemand, List.find?_eq_none]
    intro d hd hk
    simp only [Bool.and_eq_true, beq_iff_eq] at hk
    exact h (List.mem_map.2 ⟨(d.kind, d.floor), List.mem_map.2 ⟨d, List.mem_filter.2 ⟨hd, by simp [hk.1]⟩, rfl⟩, hk.2⟩)
  rw [grantOf, none']; rfl

theorem mem_keysOf {ds : List Demand} {d : Demand} (h : d ∈ ds) : (d.kind, d.floor) ∈ keysOf ds d.owner :=
  List.mem_map.2 ⟨d, List.mem_filter.2 ⟨h, by simp⟩, rfl⟩

theorem exists_of_mem_keysOf {ds : List Demand} {p : Port} {x : DemandKind × Nat} (h : x ∈ keysOf ds p) :
    ∃ d ∈ ds, d.owner = p ∧ d.kind = x.1 ∧ d.floor = x.2 := by
  obtain ⟨d, hd, rfl⟩ := List.mem_map.1 h
  obtain ⟨hm, ho⟩ := List.mem_filter.1 hd
  exact ⟨d, hm, by simpa using ho, rfl, rfl⟩

/-! ### The run condition behind an allocation -/

/-- The kinds that a boom's stage calls for. -/
def BoomView.wanted (v : BoomView) : List DemandKind :=
  if v.state.isStage = true ∧ v.run ≠ some .suspended then [v.state.demandKind] else []

theorem wanted_view (u : BoomUnit) : u.ctl.wanted = u.view.wanted := rfl

theorem wanted_handed (v : BoomView) (old new : List Demand) (b : Boom) : (v.handed old new b).wanted = v.wanted := by
  obtain ⟨state, -, -, -, -, -, suspended⟩ := handed_keeps v old new b
  simp only [BoomView.wanted, state, Ne, suspended]

/-- A stage that agreed with its old grant agrees with its new one (R75), and becomes RUNNING as R75 and R92 say. -/
theorem run_handed {v : BoomView} {old new : List Demand} {b : Boom} {d : Demand}
    (hv : v.run = some .waitFlow ∨ v.run = some .paused ∨ v.run = some .running) (hd : boomDemand new b = some d)
    (hn : grantOf new b.port d.kind = d.grant) (hg : v.run = some .running ↔ d.floor ≤ grantOf old b.port d.kind) :
    (v.handed old new b).run =
        some (if d.floor ≤ d.grant then .running else if v.run = some .running ∨ v.run = some .paused then .paused else .waitFlow) ∧
      ((v.handed old new b).run = some .running → v.run ≠ some .running → v.handed old new b = v.entered) := by
  unfold BoomView.handed
  cases hc : grantsChanged old new b.port with
  | true =>
    rw [hd]
    simp only [if_true, Option.elim_some, BoomView.applied]
    by_cases hfloor : d.floor ≤ d.grant
    · rcases hv with hv | hv | hv <;> simp [hv, hfloor, Nat.not_lt.2 hfloor, BoomView.entered]
    · rcases hv with hv | hv | hv <;> simp [hv, hfloor, Nat.lt_of_not_le hfloor]
  | false =>
    have same : grantOf old b.port d.kind = d.grant := by
      rw [← hn]
      by_contra hne
      have := (grantsChanged_iff old new b.port).2 ⟨_, hne⟩
      simp [hc] at this
    rw [same] at hg
    rcases hv with hv | hv | hv <;> simp [hv] at hg <;> simp [hv, hg]

/-! ### The three courses -/

/-- The course of a boom from one state to the next. -/
inductive State.course (s t : State) (b : Boom) : Prop
  | continues (v : BoomView) (view : (t.boom b).view = v.handed s.arbiter.demands t.arbiter.demands b)
      (state : v.state = (s.boom b).ctl.state) (run : v.run = (s.boom b).ctl.run) (firstRun : v.firstRun = (s.boom b).ctl.firstRun)
      (keys : keysOf t.arbiter.demands b.port = keysOf s.arbiter.demands b.port)
  | begins (v : BoomView) (view : (t.boom b).view = v.handed s.arbiter.demands t.arbiter.demands b) (stage : v.state.isStage = true)
      (run : v.run = some .waitFlow) (fresh : grantOf s.arbiter.demands b.port v.state.demandKind = 0)
      (again : v.state = (s.boom b).ctl.state → (s.boom b).ctl.run = some .suspended ∧ v.firstRun = (s.boom b).ctl.firstRun)
      (keys : keysOf t.arbiter.demands b.port = [(v.state.demandKind, (flowOf s.params.plan v.state.demandKind).floor)])
  | rests (keys : keysOf t.arbiter.demands b.port = []) (wanted : (t.boom b).ctl.wanted = [])

theorem wanted_of_course {s t : State} {b : Boom} (h : s.course t b) (hs : kindsOf s.arbiter.demands b = (s.boom b).ctl.wanted) :
    kindsOf t.arbiter.demands b = (t.boom b).ctl.wanted := by
  cases h with
  | continues v view state run firstRun keys =>
    rw [wanted_view, view, wanted_handed, kindsOf_keys, keys, ← kindsOf_keys, hs]
    simp only [Controller.wanted, BoomView.wanted, state, run]
  | begins v view stage run fresh again keys =>
    rw [wanted_view, view, wanted_handed, kindsOf_keys, keys]
    simp [BoomView.wanted, stage, run]
  | rests keys wanted => rw [kindsOf_keys, keys, wanted]; rfl

/-- A stage that stands in the list: it is in progress, and its run condition agrees with its grant. -/
theorem standing_of_keys {s : State} {b : Boom} {d : Demand} (hb : (s.boom b).ctl.run.isSome = (s.boom b).ctl.state.isStage)
    (hs : s.demandsSound) (hd : boomDemand s.arbiter.demands b = some d) :
    keysOf s.arbiter.demands b.port = [((s.boom b).ctl.state.demandKind, d.floor)] ∧
      ((s.boom b).ctl.run = some .waitFlow ∨ (s.boom b).ctl.run = some .paused ∨ (s.boom b).ctl.run = some .running) := by
  have kinds := (demandsSound_iff s).1 hs b
  have ne : keysOf s.arbiter.demands b.port ≠ [] := fun h => by simp [boomDemand_of_no_keys h] at hd
  rw [kindsOf_keys] at kinds
  unfold Controller.wanted at kinds
  split at kinds
  · rename_i h
    obtain ⟨⟨k, f⟩, hk, rfl⟩ := List.map_eq_singleton_iff.1 kinds
    obtain ⟨d', -, hd', -, hf, -⟩ := entry_of_keys hk
    rw [hd] at hd'
    cases hd'
    refine ⟨by rw [hk, hf], ?_⟩
    obtain ⟨r, hr⟩ := Option.isSome_iff_exists.1 (hb.trans h.1)
    have := h.2
    cases r <;> simp_all
  · exact absurd (List.map_eq_nil_iff.1 kinds) ne

/-- A boom's run condition follows the grant of its entry (R75, R92). -/
def State.pacedBy (s t : State) (b : Boom) (d : Demand) : Prop :=
  ((t.boom b).ctl.run = some .running ↔ d.floor ≤ d.grant) ∧
    ((t.boom b).ctl.state = (s.boom b).ctl.state →
      (t.boom b).ctl.run = some (if d.floor ≤ d.grant then .running
        else if (s.boom b).ctl.run = some .running ∨ (s.boom b).ctl.run = some .paused then .paused else .waitFlow) ∧
      ((t.boom b).ctl.run = some .running → (s.boom b).ctl.run ≠ some .running →
        (t.boom b).ctl.firstRun = true ∧ (t.boom b).link.stopLatch = false ∧
          ((s.boom b).ctl.firstRun = false →
            ((s.boom b).ctl.state = .spinning → (t.boom b).ctl.insertToSpin = none ∧ (t.boom b).ctl.gelDeadline = some 0) ∧
              ((s.boom b).ctl.state = .torquing → (t.boom b).ctl.torqueWindow = none))))

theorem pacedBy_of_handed {s t : State} {b : Boom} {d : Demand} {v : BoomView}
    (view : (t.boom b).view = v.handed s.arbiter.demands t.arbiter.demands b)
    (hv : v.run = some .waitFlow ∨ v.run = some .paused ∨ v.run = some .running) (hd : boomDemand t.arbiter.demands b = some d)
    (hn : grantOf t.arbiter.demands b.port d.kind = d.grant)
    (hg : v.run = some .running ↔ d.floor ≤ grantOf s.arbiter.demands b.port d.kind)
    (same : v.state = (s.boom b).ctl.state → v.firstRun = (s.boom b).ctl.firstRun ∧
      (v.run = (s.boom b).ctl.run ∨ v.run = some .waitFlow ∧ (s.boom b).ctl.run = some .suspended)) : s.pacedBy t b d := by
  obtain ⟨run, enters⟩ := run_handed hv hd hn hg
  have trun : (t.boom b).ctl.run = (v.handed s.arbiter.demands t.arbiter.demands b).run := congrArg BoomView.run view
  have tstate : (t.boom b).ctl.state = v.state := (congrArg BoomView.state view).trans (handed_keeps v _ _ b).1
  refine ⟨?_, fun hst => ?_⟩
  · rw [trun, run]
    by_cases hf : d.floor ≤ d.grant
    · simp [hf]
    · simp only [hf, if_false]
      split <;> simp
  · obtain ⟨first, runs⟩ := same (tstate.symm.trans hst)
    have mark : (v.run = some .running ∨ v.run = some .paused) ↔
        ((s.boom b).ctl.run = some .running ∨ (s.boom b).ctl.run = some .paused) := by
      rcases runs with h | ⟨h, h'⟩
      · rw [h]
      · simp [h, h']
    refine ⟨by rw [trun, run]; simp only [mark], fun hrun hnot => ?_⟩
    have entered := enters (trun.symm.trans hrun) (by
      rcases runs with h | ⟨h, -⟩
      · rw [h]; exact hnot
      · simp [h])
    rw [entered] at view
    refine ⟨congrArg BoomView.firstRun view, congrArg BoomView.stopLatch view, fun hf => ⟨fun hs => ⟨?_, ?_⟩, fun hs => ?_⟩⟩ <;>
      have at' := (tstate.symm.trans hst).trans hs
    · exact (congrArg BoomView.insertToSpin view).trans (if_pos ⟨first.trans hf, at'⟩)
    · exact (congrArg BoomView.gelDeadline view).trans (if_pos ⟨first.trans hf, at'⟩)
    · exact (congrArg BoomView.torqueWindow view).trans (if_pos ⟨first.trans hf, at'⟩)

/-- What the course of a boom says of its entry and of its run condition. -/
theorem paced_of_course {s t : State} {b : Boom} {d : Demand} (h : s.course t b) (hs : s.demandsSound) (hg : s.grantsRun)
    (hb : (s.boom b).ctl.run.isSome = (s.boom b).ctl.state.isStage) (hd : boomDemand t.arbiter.demands b = some d) :
    0 < d.floor ∧ s.pacedBy t b d := by
  obtain ⟨planFloors, floors, agree⟩ := hg
  cases h with
  | rests keys => simp [boomDemand_of_no_keys keys] at hd
  | begins v view stage run fresh again keys =>
    obtain ⟨d', -, hd', kind, floor, hn⟩ := entry_of_keys keys
    cases hd.symm.trans hd'
    have pos : 0 < d.floor := by rw [floor]; exact planFloors _
    refine ⟨pos, pacedBy_of_handed view (.inl run) hd (by rw [kind]; exact hn) ?_ fun hst => ⟨(again hst).2, .inr ⟨run, (again hst).1⟩⟩⟩
    rw [kind, fresh, run]
    simp [Nat.pos_iff_ne_zero.1 pos]
  | continues v view state run firstRun keys =>
    have held : ∃ d', boomDemand s.arbiter.demands b = some d' := by
      cases hk : boomDemand s.arbiter.demands b with
      | some d' => exact ⟨d', rfl⟩
      | none =>
        have none' : keysOf s.arbiter.demands b.port = [] := by
          rw [keysOf, List.map_eq_nil_iff, List.filter_eq_nil_iff]
          exact List.find?_eq_none.1 hk
        rw [none'] at keys
        simp [boomDemand_of_no_keys keys] at hd
    obtain ⟨d₀, hd₀⟩ := held
    obtain ⟨keys₀, runs⟩ := standing_of_keys hb hs hd₀
    obtain ⟨x, mem, hx, -, -, hn₀⟩ := entry_of_keys keys₀
    cases hd₀.symm.trans hx
    obtain ⟨y, -, hy, kind, floor, hn⟩ := entry_of_keys (keys.trans keys₀)
    cases hd.symm.trans hy
    refine ⟨by rw [floor]; exact floors _ mem, pacedBy_of_handed view (by rw [run]; exact runs) hd (by rw [kind]; exact hn) ?_
      fun _ => ⟨firstRun, .inl run⟩⟩
    rw [kind, hn₀, floor, run]
    exact agree b _ hd₀

/-- What a step is to do to the list and the booms for the laws on grants (R75). -/
structure State.follows (s t : State) : Prop where
  course : ∀ b, s.course t b
  machine : ∀ x ∈ keysOf t.arbiter.demands .machine,
    x ∈ keysOf s.arbiter.demands .machine ∨ x.2 = (flowOf s.params.plan x.1).floor
  plan : (∀ k, 0 < (flowOf s.params.plan k).floor) → ∀ k, 0 < (flowOf t.params.plan k).floor

theorem demandsSound_of_course {s t : State} (h : ∀ b, s.course t b) (hs : s.demandsSound) : t.demandsSound :=
  (demandsSound_iff t).2 fun b => wanted_of_course (h b) ((demandsSound_iff s).1 hs b)

theorem grants_of_follows {s t : State} (h : s.follows t) (hb : ∀ b, (s.boom b).ctl.run.isSome = (s.boom b).ctl.state.isStage)
    (hs : s.demandsSound) (hg : s.grantsRun) : t.grantsRun ∧ ∀ b, s.runFollows t b := by
  have paced (b : Boom) (d : Demand) (hd : boomDemand t.arbiter.demands b = some d) := paced_of_course (h.course b) hs hg (hb b) hd
  have ofBoom (b : Boom) (d : Demand) (hd : d ∈ t.arbiter.demands) (ho : d.owner = b.port) : 0 < d.floor := by
    have sound := demandsSound_of_course h.course hs
    obtain ⟨e, he⟩ : ∃ e, boomDemand t.arbiter.demands b = some e :=
      Option.isSome_iff_exists.1 (List.find?_isSome.2 ⟨d, hd, by simp [ho]⟩)
    have one := (demandsSound_iff t).1 sound b
    have key := mem_keysOf hd
    rw [ho] at key
    obtain ⟨x, hx⟩ : ∃ x, keysOf t.arbiter.demands b.port = [x] := by
      rw [kindsOf_keys] at one
      unfold Controller.wanted at one
      split at one
      · obtain ⟨x, hx, -⟩ := List.map_eq_singleton_iff.1 one
        exact ⟨x, hx⟩
      · rw [List.map_eq_nil_iff.1 one] at key
        simp at key
    rw [hx] at key
    obtain ⟨y, -, hy, -, hf, -⟩ := entry_of_keys (hx.trans (by rw [← List.mem_singleton.1 key]))
    cases he.symm.trans hy
    rw [← hf]
    exact (paced b _ he).1
  refine ⟨⟨h.plan hg.1, fun d hd => ?_, fun b d hd => (paced b d hd).2.1⟩, fun b => fun _ hst d hd => (paced b d hd).2.2 hst⟩
  cases ho : d.owner with
  | left => exact ofBoom .left d hd ho
  | right => exact ofBoom .right d hd ho
  | machine =>
    have key := mem_keysOf hd
    rw [ho] at key
    rcases h.machine _ key with old | new
    · obtain ⟨d₀, hd₀, -, -, hf⟩ := exists_of_mem_keysOf old
      exact Nat.lt_of_lt_of_eq (hg.2.1 d₀ hd₀) hf
    · exact Nat.lt_of_lt_of_eq (hg.1 _) new.symm

end Sys2Proof.Machine

/-! ## The laws as they are kept (O8) -/
namespace Sys2Proof.Machine

/-! ### The laws, sorted by what moves them -/

/-- A port as it stands outside operation (R174). -/
def MasterPort.sealed (p : MasterPort) : Prop := p.isOpen = false ∧ (∃ r, p.reply = .pending r) ∧ p.transfer ≠ some .begunPending

/-- The laws of the row alone (R119, R122, R130). -/
structure RowMap.lawful (m : RowMap) : Prop where
  planned : m.planned.map Slot.number = List.range m.planned.length
  most : m.planned.length ≤ 8
  supplementary : m.supplementary.map Slot.number = (List.range m.supplementary.length).map (8 + ·)
  pending : ∀ plan, m.pendingPlan = some plan → plan.length ≤ 8
  tram : m.tramPermitted = true → ∀ b, ¬ m.claims b

/-- The laws that hold whatever the interlocks and the links do. -/
structure State.framed (s : State) : Prop where
  based : ∀ b, (s.boom b).view.based (s.rowMap.claims b)
  row : s.rowMap.lawful
  tram : ∀ x ∈ keysOf s.arbiter.demands .machine, x.1 = .tram → s.rowMap.tramPermitted = true
  quiet : s.phase ≠ .operating → s.arbiter.demands = [] ∧ (∀ p, (s.port p).sealed) ∧ ∀ b, (s.boom b).ctl.state = .idle
  links : s.linksLawful

/-- The laws of every stage in progress. -/
def State.stagesLawful (s : State) : Prop := ∀ b, (s.boom b).view.staged s.interlocks

theorem lawful_iff (s : State) : s.lawful ↔ s.framed ∧ s.stagesLawful := by
  have tram : (∀ d ∈ s.arbiter.demands, d.owner = .machine → d.kind = .tram → s.rowMap.tramPermitted = true) ↔
      ∀ x ∈ keysOf s.arbiter.demands .machine, x.1 = .tram → s.rowMap.tramPermitted = true := by
    constructor
    · intro h x hx hk
      obtain ⟨d, hd, ho, kind, -⟩ := exists_of_mem_keysOf hx
      exact h d hd ho (kind.trans hk)
    · intro h d hd ho hk
      exact h (d.kind, d.floor) (ho ▸ mem_keysOf hd) hk
  have claims : (∀ sl ∈ s.rowMap.slots, ∀ b, sl.state ≠ .claimed b) ↔ ∀ b, ¬ s.rowMap.claims b := by
    simp only [RowMap.claims, not_exists, not_and]
    exact ⟨fun h b sl hsl => h sl hsl b, fun h sl hsl b => h b sl hsl⟩
  constructor
  · rintro ⟨booms, ⟨r1, r2, r3, r4, r5, r6⟩, phase, links⟩
    exact ⟨⟨fun b => ((boomLawful_iff s b).1 (booms b)).1, ⟨r1, r2, r3, r4, fun h => claims.1 (r5 h)⟩, tram.1 r6, phase, links⟩,
      fun b => ((boomLawful_iff s b).1 (booms b)).2⟩
  · rintro ⟨⟨based, ⟨r1, r2, r3, r4, r5⟩, r6, phase, links⟩, staged⟩
    exact ⟨fun b => (boomLawful_iff s b).2 ⟨based b, staged b⟩, ⟨r1, r2, r3, r4, fun h => claims.2 (r5 h), tram.2 r6⟩, phase, links⟩

/-- Where no slot is claimed both booms are IDLE. -/
theorem State.framed.idle_of_tram {s : State} (h : s.framed) (ht : s.rowMap.tramPermitted = true) (b : Boom) :
    (s.boom b).ctl.state = .idle :=
  (h.based b).claim.1 (h.row.tram ht b)

/-- A boom that is not IDLE stands in operation. -/
theorem State.framed.operating {s : State} (h : s.framed) {b : Boom} (hb : (s.boom b).ctl.state ≠ .idle) : s.phase = .operating := by
  by_contra hp
  exact hb ((h.quiet hp).2.2 b)

/-- What a step is to keep, of a state that meets the laws. -/
structure State.Kept (s t : State) : Prop where
  framed : t.framed
  staged : t.stagesLawful
  follows : s.demandsSound → s.follows t

/-! ### What stays around an act -/

/-- Whether a link runs, and the frame on its line (R17). -/
def BoomUnit.line (u : BoomUnit) : Bool × Option (List Byte) := (u.link.running, u.link.sent)

theorem line_of_ungranted {u v : BoomUnit} (h : u.ungranted = v.ungranted) : u.line = v.line :=
  (congrArg (fun w : BoomUnit => (w.link.running, w.link.sent)) h : u.ungranted.line = v.ungranted.line)

/-- A link that runs or not as before, and whose line stays where it does not run. -/
def BoomUnit.LineKept (u v : BoomUnit) : Prop :=
  v.link.running = u.link.running ∧ (u.link.running = false → v.link.sent = u.link.sent)

theorem BoomUnit.LineKept.of_line {u v : BoomUnit} (h : v.line = u.line) : u.LineKept v :=
  ⟨congrArg Prod.fst h, fun _ => congrArg Prod.snd h⟩

theorem BoomUnit.LineKept.trans {u v w : BoomUnit} (h : u.LineKept v) (k : v.LineKept w) : u.LineKept w :=
  ⟨k.1.trans h.1, fun hu => (k.2 (h.1.trans hu)).trans (h.2 hu)⟩

/-- The setting of an act: the phase, the straps, zone 5, the ports outside operation, and what the links send. -/
structure State.steady (s t : State) : Prop where
  phase : t.phase = s.phase
  straps : t.straps = s.straps
  plan : t.params.plan = s.params.plan
  ports : ∀ p, (s.port p).sealed → (t.port p).sealed
  lines : ∀ b, (s.boom b).LineKept (t.boom b)

theorem State.steady.refl (s : State) : s.steady s := ⟨rfl, rfl, rfl, fun _ h => h, fun _ => .of_line rfl⟩

theorem State.steady.trans {s t u : State} (h : s.steady t) (k : t.steady u) : s.steady u :=
  ⟨k.phase.trans h.phase, k.straps.trans h.straps, k.plan.trans h.plan, fun p hp => k.ports p (h.ports p hp),
    fun b => (h.lines b).trans (k.lines b)⟩

theorem sealed_of_quiet {p q : MasterPort} (h : p.quiet = q.quiet) (hq : q.sealed) : p.sealed := by
  have isOpen : p.isOpen = q.isOpen := (congrArg MasterPort.isOpen h :)
  have reply : p.reply = q.reply := (congrArg MasterPort.reply h :)
  have transfer : p.transfer = q.transfer := (congrArg MasterPort.transfer h :)
  unfold MasterPort.sealed
  rw [isOpen, reply, transfer]
  exact hq

theorem steady_of_kept {s t : State} (hb : t.backdrop = s.backdrop) (hl : ∀ b, (s.boom b).LineKept (t.boom b)) : s.steady t where
  phase := congrArg Backdrop.phase hb
  straps := congrArg Backdrop.straps hb
  plan := congrArg (fun x : Backdrop => x.params.plan) hb
  ports := fun p => by
    cases p
    · exact sealed_of_quiet (congrArg Backdrop.portLeft hb)
    · exact sealed_of_quiet (congrArg Backdrop.portRight hb)
    · exact sealed_of_quiet (congrArg Backdrop.portMachine hb)
  lines := hl

theorem steady_of_backdrop {s t : State} (hb : t.backdrop = s.backdrop) (hl : ∀ b, (t.boom b).line = (s.boom b).line) : s.steady t :=
  steady_of_kept hb fun b => .of_line (hl b)

theorem linksLawful_of_steady {s t : State} (h : s.steady t) (hs : s.linksLawful) : t.linksLawful := by
  intro b
  obtain ⟨running, sent⟩ := hs b
  obtain ⟨run, line⟩ := h.lines b
  have on : t.enabled b = s.enabled b := congrFun (enabled_congr h.straps) b
  rw [run, h.phase, on]
  exact ⟨running, fun hoff => (line hoff).trans (sent hoff)⟩

/-- The interlock set, from what it looks at. -/
theorem interlocks_of {s t : State} (hm : t.monitor = s.monitor) (hr : t.rowMap = s.rowMap) : t.interlocks = s.interlocks := by
  simp only [State.interlocks, hm, hr]

/-! ### An act that moves only grants -/

/-- An act that leaves the row and the interlocks, in which each boom keeps its entry and follows its grant. -/
structure State.Regranted (s t : State) : Prop where
  steady : s.steady t
  row : t.rowMap = s.rowMap
  locks : t.interlocks = s.interlocks
  views : ∀ b, (t.boom b).view = (s.boom b).view.handed s.arbiter.demands t.arbiter.demands b
  keys : ∀ b : Boom, keysOf t.arbiter.demands b.port = keysOf s.arbiter.demands b.port
  machine : ∀ x ∈ keysOf t.arbiter.demands .machine, x ∈ keysOf s.arbiter.demands .machine ∨
    (x.2 = (flowOf s.params.plan x.1).floor ∧ s.phase = .operating ∧ (x.1 = .tram → s.rowMap.tramPermitted = true))

theorem no_demands {ds : List Demand} (h : ∀ p, keysOf ds p = []) : ds = [] := by
  cases ds with
  | nil => rfl
  | cons d ds =>
    have := mem_keysOf (List.mem_cons_self .. : d ∈ d :: ds)
    rw [h] at this
    simp at this

theorem no_keys {ds : List Demand} (hb : ∀ b : Boom, keysOf ds b.port = []) (hm : keysOf ds .machine = []) (p : Port) :
    keysOf ds p = [] := by
  cases p
  · exact hb .left
  · exact hb .right
  · exact hm

theorem view_state (u : BoomUnit) : u.view.state = u.ctl.state := rfl

theorem State.Regranted.kept {s t : State} (h : s.Regranted t) (hl : s.lawful) : s.Kept t := by
  obtain ⟨framed, staged⟩ := (lawful_iff s).1 hl
  have state (b : Boom) : (t.boom b).ctl.state = (s.boom b).ctl.state := by
    rw [← view_state, h.views]; exact (handed_keeps _ _ _ b).1
  refine ⟨⟨fun b => ?_, h.row ▸ framed.row, fun x hx hk => ?_, fun hp => ?_, linksLawful_of_steady h.steady framed.links⟩, fun b => ?_,
    fun _ => ⟨fun b => .continues (s.boom b).view (h.views b) rfl rfl rfl (h.keys b), fun x hx => ?_, fun hf => ?_⟩⟩
  · rw [h.views, h.row]; exact based_handed (framed.based b) _ _ b
  · rw [h.row]
    rcases h.machine x hx with old | ⟨-, -, permitted⟩
    · exact framed.tram x old hk
    · exact permitted hk
  · rw [h.steady.phase] at hp
    obtain ⟨empty, ports, idle⟩ := framed.quiet hp
    refine ⟨no_demands (no_keys (fun b => ?_) ?_), fun p => h.steady.ports p (ports p), fun b => (state b).trans (idle b)⟩
    · rw [h.keys, empty]; rfl
    · refine List.eq_nil_iff_forall_not_mem.2 fun x hx => ?_
      rcases h.machine x hx with old | ⟨-, operating, -⟩
      · simp [empty] at old
      · exact hp operating
  · rw [h.views, h.locks]; exact staged_handed (staged b) _ _ b
  · exact (h.machine x hx).imp_right And.left
  · rw [h.steady.plan]; exact hf

/-- An act that leaves all that the laws look at. -/
structure State.Still (s t : State) : Prop where
  steady : s.steady t
  demands : t.arbiter.demands = s.arbiter.demands
  row : t.rowMap = s.rowMap
  locks : t.interlocks = s.interlocks
  views : ∀ b, (t.boom b).view = (s.boom b).view

theorem State.Still.regranted {s t : State} (h : s.Still t) : s.Regranted t :=
  ⟨h.steady, h.row, h.locks, fun b => by rw [h.views, h.demands, handed_self], fun b => by rw [h.demands],
    fun x hx => .inl (by rwa [h.demands] at hx)⟩

theorem State.Still.refl (s : State) : s.Still s := ⟨.refl s, rfl, rfl, rfl, fun _ => rfl⟩

theorem State.Still.trans {s t u : State} (h : s.Still t) (k : t.Still u) : s.Still u :=
  ⟨h.steady.trans k.steady, k.demands.trans h.demands, k.row.trans h.row, k.locks.trans h.locks, fun b => (k.views b).trans (h.views b)⟩

theorem kept_refl {s : State} (hl : s.lawful) : s.Kept s := (State.Still.refl s).regranted.kept hl

/-! ### Acts in front of and behind another -/

/-- An act that leaves the list and every boom's stage, run condition and first-run mark. -/
structure State.Near (s u : State) : Prop where
  steady : s.steady u
  demands : u.arbiter.demands = s.arbiter.demands
  row : u.rowMap = s.rowMap
  locks : u.interlocks = s.interlocks
  states : ∀ b, (u.boom b).ctl.state = (s.boom b).ctl.state
  runs : ∀ b, (u.boom b).ctl.run = (s.boom b).ctl.run
  marks : ∀ b, (u.boom b).ctl.firstRun = (s.boom b).ctl.firstRun
  based : ∀ b c, (s.boom b).view.based c → (u.boom b).view.based c

theorem State.Still.near {s u : State} (h : s.Still u) : s.Near u :=
  ⟨h.steady, h.demands, h.row, h.locks, fun b => (congrArg BoomView.state (h.views b) :), fun b => (congrArg BoomView.run (h.views b) :),
    fun b => (congrArg BoomView.firstRun (h.views b) :), fun b c hb => by rw [h.views]; exact hb⟩

theorem State.Near.trans {s t u : State} (h : s.Near t) (k : t.Near u) : s.Near u :=
  ⟨h.steady.trans k.steady, k.demands.trans h.demands, k.row.trans h.row, k.locks.trans h.locks, fun b => (k.states b).trans (h.states b),
    fun b => (k.runs b).trans (h.runs b), fun b => (k.marks b).trans (h.marks b), fun b c hb => k.based b c (h.based b c hb)⟩

theorem State.Near.framed {s u : State} (h : s.Near u) (hs : s.framed) : u.framed := by
  refine ⟨fun b => ?_, h.row ▸ hs.row, fun x hx => ?_, fun hp => ?_, linksLawful_of_steady h.steady hs.links⟩
  · rw [h.row]; exact h.based b _ (hs.based b)
  · rw [h.demands] at hx
    rw [h.row]
    exact hs.tram x hx
  · rw [h.steady.phase] at hp
    obtain ⟨empty, ports, idle⟩ := hs.quiet hp
    exact ⟨h.demands.trans empty, fun p => h.steady.ports p (ports p), fun b => (h.states b).trans (idle b)⟩

theorem State.Near.demandsSound {s u : State} (h : s.Near u) (hs : s.demandsSound) : u.demandsSound :=
  demandsSound_congr h.demands (fun b => by simp only [Controller.wanted, h.states, h.runs]) hs

theorem course_near {s u t : State} (h : s.Near u) {b : Boom} (k : u.course t b) : s.course t b := by
  cases k with
  | continues v view state run firstRun keys =>
    exact .continues v (h.demands ▸ view) (state.trans (h.states b)) (run.trans (h.runs b)) (firstRun.trans (h.marks b)) (h.demands ▸ keys)
  | begins v view stage run fresh again keys =>
    refine .begins v (h.demands ▸ view) stage run (h.demands ▸ fresh) (fun hs => ?_) (h.steady.plan ▸ keys)
    have := again (hs.trans (h.states b).symm)
    exact ⟨(h.runs b).symm.trans this.1, this.2.trans (h.marks b)⟩
  | rests keys wanted => exact .rests keys wanted

theorem follows_near {s u t : State} (h : s.Near u) (k : u.follows t) : s.follows t :=
  ⟨fun b => course_near h (k.course b), fun x hx => by
    have := k.machine x hx
    rwa [h.demands, h.steady.plan] at this, fun hf => k.plan (by rw [h.steady.plan]; exact hf)⟩

/-- Of an act with a smaller one in front of it. -/
theorem State.Kept.after {s u t : State} (h : s.Near u) (k : u.Kept t) : s.Kept t :=
  ⟨k.framed, k.staged, fun hs => follows_near h (k.follows (h.demandsSound hs))⟩

theorem follows_still {s u t : State} (k : s.follows u) (h : u.Still t) : s.follows t := by
  refine ⟨fun b => ?_, fun x hx => k.machine x (by rwa [h.demands] at hx), fun hf => by rw [h.steady.plan]; exact k.plan hf⟩
  cases k.course b with
  | continues v view state run firstRun keys =>
    exact .continues v (by rw [h.views, h.demands]; exact view) state run firstRun (by rw [h.demands]; exact keys)
  | begins v view stage run fresh again keys =>
    exact .begins v (by rw [h.views, h.demands]; exact view) stage run fresh again (by rw [h.demands]; exact keys)
  | rests keys wanted => exact .rests (by rw [h.demands]; exact keys) (by rw [wanted_view, h.views]; exact wanted)

theorem staged_still {s t : State} (h : s.Still t) (hs : s.stagesLawful) : t.stagesLawful := fun b => by
  rw [h.views, h.locks]; exact hs b

/-- Of an act with one behind it that moves nothing. -/
theorem State.Kept.before {s u t : State} (k : s.Kept u) (h : u.Still t) : s.Kept t :=
  ⟨h.near.framed k.framed, staged_still h k.staged, fun hs => follows_still (k.follows hs) h⟩

end Sys2Proof.Machine

/-! ## Closes and ends (O8) -/
namespace Sys2Proof.Machine

/-! ### What leaves every view alone -/

theorem boom_modBoom (s : State) (b c : Boom) (f : BoomUnit → BoomUnit) :
    (s.modBoom b f).boom c = if c = b then f (s.boom b) else s.boom c := by
  cases b <;> cases c <;> rfl

theorem view_modBoom {s : State} {b : Boom} {f : BoomUnit → BoomUnit} (h : (f (s.boom b)).view = (s.boom b).view) (c : Boom) :
    ((s.modBoom b f).boom c).view = (s.boom c).view := by
  rw [boom_modBoom]
  split
  · rename_i hc; rw [hc]; exact h
  · rfl

@[simp] theorem view_modTracker (s : State) (b c : Boom) (f : DepthTracker → DepthTracker) :
    ((s.modTracker b f).boom c).view = (s.boom c).view := view_modBoom rfl c

theorem view_modHole {f : HoleRecord → HoleRecord} (hf : ∀ h, (f h).peak = h.peak) (s : State) (b c : Boom) :
    ((s.modHole b f).boom c).view = (s.boom c).view := by
  refine view_modBoom ?_ c
  simp only [BoomUnit.view, Option.map_map]
  cases (s.boom b).ctl.hole with
  | none => rfl
  | some h => simp [hf]

@[simp] theorem view_markFault (s : State) (b c : Boom) (f : FaultCode) : ((s.markFault b f).boom c).view = (s.boom c).view :=
  view_modHole (fun h => by rfl) s b c

@[simp] theorem view_modWear (s : State) (b c : Boom) (f : WearTable → WearTable) : ((s.modWear b f).boom c).view = (s.boom c).view := by
  by_cases h : c = b
  · subst h; rw [boom_modWear_same]; rfl
  · rw [boom_modWear_other _ h]

@[simp] theorem view_handSlice (s : State) (b c : Boom) (x : ClosedSlice) : ((s.handSlice b x).boom c).view = (s.boom c).view := by
  unfold State.handSlice
  simp only []
  rw [view_modWear]
  have layered (r : Bool) (t : State) : ((if r then t.raise b .layer else t).boom c).view = (t.boom c).view := by
    split <;> simp
  split
  · rw [view_modHole (fun h => by rfl), layered]; exact view_modBoom (by rfl) c
  · rw [layered]; exact view_modBoom (by rfl) c

@[simp] theorem view_settleSlice (s : State) (b c : Boom) : ((s.settleSlice b).boom c).view = (s.boom c).view := by
  unfold State.settleSlice
  simp only [view_modTracker]
  split
  · split <;> simp
  · rfl

@[simp] theorem view_evaluatePlan (s : State) (b c : Boom) (r : EndReason) : ((s.evaluatePlan b r).boom c).view = (s.boom c).view :=
  view_modBoom rfl c

@[simp] theorem view_settleStage (s : State) (b c : Boom) (st : BoomState) (e : StageEnd) :
    ((s.settleStage b st e).boom c).view = (s.boom c).view := by
  unfold State.settleStage
  repeat' split
  all_goals simp

/-! ### The row at a close (R125, R126) -/

/-- The row behind the close of a boom's hole: its claims gone, the other boom's as they were. -/
structure RowMap.Released (m n : RowMap) (b : Boom) : Prop where
  claims : ∀ c, n.claims c ↔ c ≠ b ∧ m.claims c
  lawful : m.lawful → n.lawful
  permitted : n.tramPermitted = m.tramPermitted
  support : n.supportSet = m.supportSet

theorem map_number {f : Slot → Slot} (hf : ∀ x, (f x).number = x.number) (l : List Slot) :
    (l.map f).map Slot.number = l.map Slot.number := by
  rw [List.map_map]
  exact List.map_congr_left fun x _ => hf x

/-- A row with its slots' states changed. -/
theorem lawful_mapSlots {m : RowMap} {f : Slot → Slot} (h : m.lawful) (hf : ∀ x, (f x).number = x.number)
    (ht : m.tramPermitted = true → ∀ b, ¬ (m.mapSlots f).claims b) : (m.mapSlots f).lawful :=
  ⟨by simpa only [RowMap.mapSlots, map_number hf, List.length_map] using h.planned, by simpa [RowMap.mapSlots] using h.most,
    by simpa only [RowMap.mapSlots, map_number hf, List.length_map] using h.supplementary, h.pending, ht⟩

theorem claims_mapSlots (m : RowMap) (f : Slot → Slot) (b : Boom) :
    (m.mapSlots f).claims b ↔ ∃ sl ∈ m.slots, (f sl).state = .claimed b := by
  simp only [RowMap.claims, RowMap.mapSlots, RowMap.slots, ← List.map_append, List.mem_map]
  constructor
  · rintro ⟨_, ⟨sl, hsl, rfl⟩, h⟩; exact ⟨sl, hsl, h⟩
  · rintro ⟨sl, hsl, h⟩; exact ⟨_, ⟨sl, hsl, rfl⟩, h⟩

theorem released_release (m : RowMap) (b : Boom) (g : Grade) : m.Released (m.release b g) b := by
  have claims (c : Boom) : (m.release b g).claims c ↔ c ≠ b ∧ m.claims c := by
    rw [RowMap.release, claims_mapSlots]
    constructor
    · rintro ⟨sl, hsl, h⟩
      split at h
      · unfold gradedState at h
        split at h <;> simp at h
      · rename_i hn
        exact ⟨fun hc => hn (hc ▸ h), sl, hsl, h⟩
    · rintro ⟨hc, sl, hsl, h⟩
      refine ⟨sl, hsl, ?_⟩
      rw [if_neg (by rw [h]; simpa using hc)]
      exact h
  refine ⟨claims, fun h => lawful_mapSlots h (fun x => by split <;> rfl) fun ht c hc => ?_, rfl, rfl⟩
  exact h.tram ht c ((claims c).1 hc).2

theorem released_owe (m : RowMap) (parent : Slot) (longBolt : Nat) (c : Boom) :
    ((m.owe parent longBolt).claims c ↔ m.claims c) ∧ (m.lawful → (m.owe parent longBolt).lawful) ∧
      (m.owe parent longBolt).tramPermitted = m.tramPermitted ∧ (m.owe parent longBolt).supportSet = m.supportSet := by
  have claims (b : Boom) : (m.owe parent longBolt).claims b ↔ m.claims b := by
    unfold RowMap.owe
    split
    · simp [RowMap.claims, RowMap.slots, or_and_right, exists_or]
    · rfl
  refine ⟨claims c, fun h => ?_, ?_, ?_⟩
  · refine ⟨?_, ?_, ?_, ?_, fun ht b hb => ?_⟩
    · unfold RowMap.owe; split <;> exact h.planned
    · unfold RowMap.owe; split <;> exact h.most
    · unfold RowMap.owe
      split
      · simp [h.supplementary, List.range_succ]
      · exact h.supplementary
    · unfold RowMap.owe; split <;> exact h.pending
    · refine h.tram ?_ b ((claims b).1 hb)
      rw [← ht]
      unfold RowMap.owe; split <;> rfl
  all_goals unfold RowMap.owe; split <;> rfl

theorem released_closeSlot (s : State) (b : Boom) (g : Grade) : s.rowMap.Released (s.closeSlot b g).rowMap b := by
  unfold State.closeSlot
  cases hc : s.rowMap.claimOf b with
  | none =>
    have unclaimed : ¬ s.rowMap.claims b := by
      rintro ⟨sl, hsl, h⟩
      exact List.find?_eq_none.1 hc sl hsl (by simp [h])
    exact ⟨fun c => ⟨fun h => ⟨fun e => unclaimed (e ▸ h), h⟩, And.right⟩, id, rfl, rfl⟩
  | some sl =>
    have r := released_release s.rowMap b g
    simp only []
    split
    · have o := released_owe (s.rowMap.release b g) sl s.params.plan.longBolt
      simp only [rowMap_raiseReady, rowMap_raiseMachine]
      exact ⟨fun c => (o c).1.trans (r.claims c), fun h => (o b).2.1 (r.lawful h), (o b).2.2.1.trans r.permitted,
          (o b).2.2.2.trans r.support⟩
    · simpa only [rowMap_raiseReady] using r

/-! ### A boom that comes to rest -/

/-- An act that ends a boom's stage or closes its hole: the boom stands in a wait state of the same hole, or IDLE with its claim gone. -/
structure State.Rested (s t : State) (b : Boom) : Prop where
  steady : s.steady t
  monitor : t.monitor = s.monitor
  others : ∀ c, c ≠ b → (t.boom c).view = (s.boom c).view.handed s.arbiter.demands t.arbiter.demands c
  keys : ∀ p, p ≠ b.port → keysOf t.arbiter.demands p = keysOf s.arbiter.demands p
  subset : keysOf t.arbiter.demands b.port ⊆ keysOf s.arbiter.demands b.port
  run : (t.boom b).ctl.run = none
  stage : (t.boom b).ctl.state.isStage = false
  away : (s.boom b).ctl.state ≠ .idle
  hole : ((t.boom b).ctl.state ≠ .idle ∧ (t.boom b).view.hole = (s.boom b).view.hole ∧ (t.boom b).view.peak = (s.boom b).view.peak ∧
      t.rowMap = s.rowMap) ∨
    ((t.boom b).ctl.state = .idle ∧ (t.boom b).view.hole = none ∧ s.rowMap.Released t.rowMap b)

theorem State.Rested.permitted {s t : State} {b : Boom} (h : s.Rested t b) :
    t.rowMap.tramPermitted = s.rowMap.tramPermitted ∧ t.rowMap.supportSet = s.rowMap.supportSet := by
  rcases h.hole with ⟨-, -, -, row⟩ | ⟨-, -, row⟩
  · rw [row]; exact ⟨rfl, rfl⟩
  · exact ⟨row.permitted, row.support⟩

theorem State.Rested.locks {s t : State} {b : Boom} (h : s.Rested t b) : t.interlocks = s.interlocks := by
  simp only [State.interlocks, h.monitor, h.permitted]

theorem State.Rested.framed {s t : State} {b : Boom} (h : s.Rested t b) (hs : s.framed) : t.framed := by
  have operating : t.phase = .operating := h.steady.phase.trans (hs.operating h.away)
  have based := hs.based b
  refine ⟨fun c => ?_, ?_, fun x hx hk => ?_, fun hp => absurd operating hp, linksLawful_of_steady h.steady hs.links⟩
  · by_cases hc : c = b
    · subst hc
      have run : (t.boom c).view.run.isSome = (t.boom c).view.state.isStage := by
        rw [show (t.boom c).view.run = none from h.run, show (t.boom c).view.state.isStage = false from h.stage]; rfl
      rcases h.hole with ⟨away, hole, peak, row⟩ | ⟨idle, hole, row⟩
      · refine ⟨run, ?_, ?_, ?_⟩
        · rw [hole, based.hole]; exact ⟨fun e => absurd e h.away, fun e => absurd e away⟩
        · rw [hole, peak]; exact based.peak
        · rw [row, based.claim]; exact ⟨fun e => absurd e h.away, fun e => absurd e away⟩
      · refine ⟨run, by rw [hole]; exact ⟨fun _ => idle, fun _ => rfl⟩, by rw [hole]; exact .inl rfl, ⟨fun _ => idle, fun _ hcl => ?_⟩⟩
        exact ((row.claims c).1 hcl).1 rfl
    · rw [h.others c hc]
      refine based_handed ?_ _ _ c
      rcases h.hole with ⟨-, -, -, row⟩ | ⟨-, -, row⟩
      · rw [row]; exact hs.based c
      · have same : t.rowMap.claims c ↔ s.rowMap.claims c := (row.claims c).trans ⟨And.right, fun k => ⟨hc, k⟩⟩
        have := hs.based c
        exact ⟨this.run, this.hole, this.peak, by rw [same]; exact this.claim⟩
  · rcases h.hole with ⟨-, -, -, row⟩ | ⟨-, -, row⟩
    · rw [row]; exact hs.row
    · exact row.lawful hs.row
  · rw [h.keys _ (boom_port_ne_machine b).symm] at hx
    rw [h.permitted.1]
    exact hs.tram x hx hk

theorem State.Rested.staged {s t : State} {b : Boom} (h : s.Rested t b) (hs : ∀ c, c ≠ b → (s.boom c).view.staged s.interlocks) :
    t.stagesLawful := fun c => by
  by_cases hc : c = b
  · subst hc
    exact staged_of_rest h.stage (by rw [show (t.boom c).view.run = none from h.run]; simp) _
  · rw [h.others c hc, h.locks]
    exact staged_handed (hs c hc) _ _ c

theorem State.Rested.follows {s t : State} {b : Boom} (h : s.Rested t b) (none' : keysOf t.arbiter.demands b.port = []) : s.follows t := by
  refine ⟨fun c => ?_, fun x hx => .inl (by rwa [h.keys _ (boom_port_ne_machine b).symm] at hx), fun hf => by rw [h.steady.plan]; exact hf⟩
  by_cases hc : c = b
  · subst hc
    exact .rests none' (by simp [Controller.wanted, h.stage])
  · exact .continues (s.boom c).view (h.others c hc) rfl rfl rfl (h.keys _ (port_ne hc))

/-- A boom without a stage in progress has no entry. -/
theorem keys_of_wait {s : State} {b : Boom} (hs : s.demandsSound) (h : (s.boom b).ctl.state.isStage = false) :
    keysOf s.arbiter.demands b.port = [] := by
  have kinds := (demandsSound_iff s).1 hs b
  rw [kindsOf_keys, Controller.wanted, if_neg (by simp [h])] at kinds
  exact List.map_eq_nil_iff.1 kinds

/-! ### The close of a hole -/

theorem line_of_link {u v : BoomUnit} (h : u.link = v.link) : u.line = v.line := by unfold BoomUnit.line; rw [h]

theorem rested_closeHole {s u : State} {b : Boom} (hb : u.backdrop = s.backdrop) (hm : u.monitor = s.monitor) (hr : u.rowMap = s.rowMap)
    (ho : ∀ c, c ≠ b → (u.boom c).view = (s.boom c).view.handed s.arbiter.demands u.arbiter.demands c)
    (hl : ∀ c, (s.boom c).LineKept (u.boom c)) (hk : ∀ p, p ≠ b.port → keysOf u.arbiter.demands p = keysOf s.arbiter.demands p)
    (hown : keysOf u.arbiter.demands b.port ⊆ keysOf s.arbiter.demands b.port) (away : (s.boom b).ctl.state ≠ .idle)
    (hole : (u.boom b).ctl.hole ≠ none) (how : CloseKind) (st : BoomState) (f : Option FaultCode) :
    s.Rested (u.closeHole b how st f) b := by
  obtain ⟨ctl, link, -⟩ := boom_closeHole_same u b how st f
  refine ⟨steady_of_kept (by simp [hb]) fun c => ?_, by simp [hm], fun c hc => ?_, fun p hp => ?_, ?_, ?_, ?_, away, .inr ⟨?_, ?_, ?_⟩⟩
  · by_cases hc : c = b
    · subst hc; exact (hl c).trans (.of_line (line_of_link link))
    · rw [boom_closeHole_other _ hc]; exact hl c
  · rw [boom_closeHole_other _ hc, arbiter_closeHole]; exact ho c hc
  · rw [arbiter_closeHole]; exact hk p hp
  · rw [arbiter_closeHole]; exact hown
  · rw [ctl]; rfl
  · rw [ctl]; rfl
  · rw [ctl]; rfl
  · simp only [BoomUnit.view, ctl]; rfl
  · rw [← hr]
    unfold State.closeHole
    cases hh : u.liveRecord b with
    | none =>
      unfold State.liveRecord at hh
      exact absurd (Option.map_eq_none_iff.1 hh) hole
    | some h =>
      simp only [rowMap_modCtl, rowMap_modWear]
      generalize hw : ({ u with holeLog := _ } : State) = w
      have row : u.rowMap = w.rowMap := by rw [← hw]
      rw [row]
      exact released_closeSlot w b _

end Sys2Proof.Machine

/-! ## Stages that end and begin (O8) -/
namespace Sys2Proof.Machine

/-! ### Arrivals and departures -/

theorem view_depart (s : State) (sel : Demand → Bool) (b : Boom) :
    ((s.depart sel).boom b).view = (s.boom b).view.handed s.arbiter.demands (s.depart sel).arbiter.demands b := by
  unfold State.depart
  simp only []
  split
  · rw [view_reallocate, boom_arbiter]
  · rw [handed_self]

theorem view_arrive (s : State) (p : Port) (k : DemandKind) (b : Boom) :
    ((s.arrive p k).boom b).view = (s.boom b).view.handed s.arbiter.demands (s.arrive p k).arbiter.demands b := by
  unfold State.arrive
  simp only []
  rw [view_reallocate, boom_arbiter]

theorem keysOf_depart (s : State) (sel : Demand → Bool) (p : Port) :
    keysOf (s.depart sel).arbiter.demands p = keysOf (s.arbiter.demands.filter fun d => !sel d) p := by
  unfold State.depart
  simp only []
  split
  · simp
  · rename_i h
    rw [List.filter_eq_self.2]
    intro d hd
    simp only [Bool.not_eq_true, List.any_eq_false] at h
    simpa using h d hd

theorem keysOf_withdraw_own (s : State) (b : Boom) : keysOf (s.withdraw b).arbiter.demands b.port = [] := by
  rw [State.withdraw, keysOf_depart]
  exact keysOf_filter_own fun d _ ho => by simp [ho]

theorem keysOf_withdraw_other (s : State) {b : Boom} {p : Port} (h : p ≠ b.port) :
    keysOf (s.withdraw b).arbiter.demands p = keysOf s.arbiter.demands p := by
  rw [State.withdraw, keysOf_depart]
  exact keysOf_filter_other fun d _ ho => by simp [ho, h]

theorem keysOf_arrive (s : State) (p q : Port) (k : DemandKind) :
    keysOf (s.arrive p k).arbiter.demands q =
      keysOf s.arbiter.demands q ++ if p = q then [(k, (flowOf s.params.plan k).floor)] else [] := by
  rw [arbiter_arrive]
  simp only [keysOf_allocate, keysOf_append, keysOf_newDemand]

/-! ### The end of a stage (R83) -/

/-- A state behind the withdrawal of a boom's entry, before its stage is left. -/
structure State.Cut (s u : State) (b : Boom) : Prop where
  backdrop : u.backdrop = s.backdrop
  monitor : u.monitor = s.monitor
  row : u.rowMap = s.rowMap
  others : ∀ c, c ≠ b → (u.boom c).view = (s.boom c).view.handed s.arbiter.demands u.arbiter.demands c
  lines : ∀ c, (u.boom c).line = (s.boom c).line
  keys : ∀ p, p ≠ b.port → keysOf u.arbiter.demands p = keysOf s.arbiter.demands p
  own : keysOf u.arbiter.demands b.port = []
  hole : (u.boom b).view.hole = (s.boom b).view.hole
  peak : (u.boom b).view.peak = (s.boom b).view.peak

theorem State.Cut.holeStands {s u : State} {b : Boom} (h : s.Cut u b) (hs : s.framed) (away : (s.boom b).ctl.state ≠ .idle) :
    (u.boom b).ctl.hole ≠ none := by
  intro hn
  refine away ((hs.based b).hole.1 ?_)
  rw [← h.hole]
  simp only [BoomUnit.view, hn]
  rfl

theorem cut_stageCut (s : State) (b : Boom) (e : StageEnd) : s.Cut (s.stageCut b e) b := by
  obtain ⟨back, row, -, -, monitor⟩ := stageCut_keeps s b e
  obtain ⟨m, hm, withdrawn⟩ : ∃ m : State, (∀ c, (m.boom c).view = (s.boom c).view ∧ (m.boom c).line = (s.boom c).line) ∧
      m.arbiter = s.arbiter ∧ s.stageCut b e =
        if e = .success then m.withdraw b else (m.withdraw b).modLink b fun l => { l with stopLatch := true } := by
    unfold State.stageCut
    cases e.code with
    | none => exact ⟨s, fun c => ⟨rfl, rfl⟩, rfl, rfl⟩
    | some f =>
      refine ⟨s.markFault b f, fun c => ⟨view_markFault s b c f, ?_⟩, arbiter_markFault _ _ _, rfl⟩
      by_cases hc : c = b
      · subst hc; rw [boom_markFault_same]; rfl
      · rw [boom_markFault_other _ hc]
  obtain ⟨arb, eq⟩ := withdrawn
  have arbiter : (s.stageCut b e).arbiter = (m.withdraw b).arbiter := by rw [eq]; split <;> simp
  have others (c : Boom) (hc : c ≠ b) : (s.stageCut b e).boom c = (m.withdraw b).boom c := by
    rw [eq]; split
    · rfl
    · rw [boom_modLink_other _ hc]
  have own := boom_stageCut s b e
  refine ⟨back, monitor, row, fun c hc => ?_, fun c => ?_, fun p hp => ?_, ?_, ?_, ?_⟩
  · rw [others c hc, arbiter, State.withdraw, view_depart, (hm c).1, arb]
  · by_cases hc : c = b
    · subst hc; rw [own]; unfold BoomUnit.line; split <;> rfl
    · rw [others c hc, ← (hm c).2]
      exact line_of_ungranted (ungranted_withdraw m b c)
  · rw [arbiter, keysOf_withdraw_other m hp, arb]
  · rw [arbiter, keysOf_withdraw_own]
  · rw [own]
    simp only [BoomUnit.view, StageEnd.marks]
    split
    · rw [Option.map_map]; rfl
    · rfl
  · rw [own]; rfl

theorem cut_settleStage {s u : State} {b : Boom} (h : s.Cut u b) (st : BoomState) (e : StageEnd) : s.Cut (u.settleStage b st e) b := by
  refine ⟨by simp [h.backdrop], by simp [h.monitor], by simp [h.row], fun c hc => ?_, fun c => ?_, fun p hp => ?_, ?_, ?_, ?_⟩
  · rw [view_settleStage, arbiter_settleStage]; exact h.others c hc
  · rw [← h.lines c]
    by_cases hc : c = b
    · subst hc; exact line_of_link (settleStage_same u c st e).1
    · rw [boom_settleStage_other _ hc]
  · rw [arbiter_settleStage]; exact h.keys p hp
  · rw [arbiter_settleStage]; exact h.own
  · rw [view_settleStage]; exact h.hole
  · rw [view_settleStage]; exact h.peak

theorem cut_modHole {s u : State} {b : Boom} (h : s.Cut u b) {f : HoleRecord → HoleRecord} (hf : ∀ r, (f r).peak = r.peak) :
    s.Cut (u.modHole b f) b := by
  refine ⟨by simp [h.backdrop], by simp [h.monitor], by simp [h.row], fun c hc => ?_, fun c => ?_, fun p hp => ?_, ?_, ?_, ?_⟩
  · rw [view_modHole hf, arbiter_modHole]; exact h.others c hc
  · rw [← h.lines c]
    by_cases hc : c = b
    · subst hc; rw [boom_modHole_same]; rfl
    · rw [boom_modHole_other _ hc]
  · rw [arbiter_modHole]; exact h.keys p hp
  · rw [arbiter_modHole]; exact h.own
  · rw [view_modHole hf]; exact h.hole
  · rw [view_modHole hf]; exact h.peak

theorem State.Cut.closed {s u : State} {b : Boom} (h : s.Cut u b) (hs : s.framed) (away : (s.boom b).ctl.state ≠ .idle) (how : CloseKind)
    (st : BoomState) (f : Option FaultCode) : s.Rested (u.closeHole b how st f) b :=
  rested_closeHole h.backdrop h.monitor h.row h.others (fun c => .of_line (h.lines c)) h.keys (by rw [h.own]; exact List.nil_subset _) away
    (h.holeStands hs away) how st f

theorem destination_notIdle {st : BoomState} {contact : Bool} {e : StageEnd} {w : BoomState}
    (h : destination st contact e = .wait w) : w ≠ .idle := by
  cases st <;> cases e <;> cases contact <;> simp [destination, earlyDestination, lateDestination, torqueDestination] at h <;>
    first
    | (subst h; simp)
    | (split at h <;> simp at h)

theorem rested_afterStage {s u : State} {b : Boom} (h : s.Cut u b) (hs : s.framed) (away : (s.boom b).ctl.state ≠ .idle) {st : BoomState}
    {e : StageEnd} (hsp : ¬(st = .spinning ∧ e = .success)) : s.Rested (u.afterStage b st e) b := by
  unfold State.afterStage
  split
  · rename_i w hw
    refine ⟨steady_of_backdrop (by simp [h.backdrop]) fun c => ?_, by simp [h.monitor], fun c hc => ?_, fun p hp => ?_, ?_, ?_, ?_, away,
      .inl ⟨?_, ?_, ?_, by simp [h.row]⟩⟩
    · rw [← h.lines c]
      by_cases hc : c = b
      · subst hc; rw [boom_modCtl_same]; rfl
      · rw [boom_modCtl_other _ hc]
    · rw [boom_modCtl_other _ hc, arbiter_modCtl]; exact h.others c hc
    · rw [arbiter_modCtl]; exact h.keys p hp
    · rw [arbiter_modCtl, h.own]; exact List.nil_subset _
    · rw [boom_modCtl_same]; rfl
    · rw [boom_modCtl_same]; exact destination_notStage hsp hw
    · rw [boom_modCtl_same]; exact destination_notIdle hw
    · rw [boom_modCtl_same]; exact h.hole
    · rw [boom_modCtl_same]; exact h.peak
  · simp only []
    split
    · split
      · exact (cut_modHole h fun r => by rfl).closed hs away _ _ _
      · exact h.closed hs away _ _ _
    · exact h.closed hs away _ _ _

/-- What is raised and recorded behind an act leaves a rested boom as it is. -/
theorem State.Rested.before {s t w : State} {b : Boom} (h : s.Rested t b) (hb : w.backdrop = t.backdrop) (hm : w.monitor = t.monitor)
    (ha : w.arbiter = t.arbiter) (hr : w.rowMap = t.rowMap) (hu : ∀ c, w.boom c = t.boom c) : s.Rested w b :=
  ⟨h.steady.trans (steady_of_backdrop hb fun c => by rw [hu]), hm.trans h.monitor, fun c hc => by rw [hu, ha]; exact h.others c hc,
    fun p hp => by rw [ha]; exact h.keys p hp, by rw [ha]; exact h.subset, by rw [hu]; exact h.run, by rw [hu]; exact h.stage, h.away,
    by rw [hu, hr]; exact h.hole⟩

theorem rested_endStage {s : State} (hs : s.framed) {b : Boom} (hst : (s.boom b).ctl.state.isStage = true) {e : StageEnd}
    (hsp : ¬((s.boom b).ctl.state = .spinning ∧ e = .success)) (x : Option Nat) (st : BoomState × Option RunCondition) :
    s.Rested (s.endStage b e x st) b := by
  have away : (s.boom b).ctl.state ≠ .idle := fun h => by simp [h, BoomState.isStage] at hst
  have r := rested_afterStage (cut_settleStage (cut_stageCut s b e) (s.boom b).ctl.state e) hs away hsp
  rw [endStage_eq]
  refine r.before ?_ ?_ ?_ ?_ fun c => boom_stageReported _ b e x st c
  all_goals cases e <;> simp [State.stageReported]

theorem keys_endStage (s : State) (b : Boom) (e : StageEnd) (x : Option Nat) (st : BoomState × Option RunCondition) :
    keysOf (s.endStage b e x st).arbiter.demands b.port = [] := by
  rw [arbiter_endStage]
  exact keysOf_withdraw_own _ b

/-- The end of a stage keeps the laws, whatever its own link and interlocks have become. -/
theorem kept_endStage {s : State} (hs : s.framed) {b : Boom} (hst : (s.boom b).ctl.state.isStage = true) {e : StageEnd}
    (hsp : ¬((s.boom b).ctl.state = .spinning ∧ e = .success)) (ho : ∀ c, c ≠ b → (s.boom c).view.staged s.interlocks) (x : Option Nat)
    (st : BoomState × Option RunCondition) : s.Kept (s.endStage b e x st) :=
  have r := rested_endStage hs hst hsp x st
  ⟨r.framed hs, r.staged ho, fun _ => r.follows (keys_endStage s b e x st)⟩

/-- A fault in a wait state, or the close of a waiting hole (R92, R93, R95). -/
theorem kept_of_rested {s t : State} {b : Boom} (r : s.Rested t b) (hl : s.lawful) (wait : (s.boom b).ctl.state.isStage = false) :
    s.Kept t := by
  obtain ⟨framed, staged⟩ := (lawful_iff s).1 hl
  refine ⟨r.framed framed, r.staged fun c _ => staged c, fun hd => r.follows (List.eq_nil_iff_forall_not_mem.2 fun x hx => ?_)⟩
  have := r.subset hx
  rw [keys_of_wait hd wait] at this
  simp at this

theorem rested_closeWait {s u : State} {b : Boom} (hs : s.framed) (h : s.Still u) (hb : u.backdrop = s.backdrop)
    (hm : u.monitor = s.monitor)
    (away : (s.boom b).ctl.state ≠ .idle) (how : CloseKind) (st : BoomState) (f : Option FaultCode) :
    s.Rested (u.closeHole b how st f) b := by
  refine rested_closeHole hb hm h.row (fun c _ => by rw [h.views, h.demands, handed_self]) h.steady.lines (fun p _ => by rw [h.demands])
    (by rw [h.demands]; exact List.Subset.refl _) away ?_ how st f
  intro hn
  refine away ((hs.based b).hole.1 ?_)
  rw [← h.views b]
  simp only [BoomUnit.view, hn]
  rfl

theorem still_modHole {s : State} {b : Boom} {f : HoleRecord → HoleRecord} (hf : ∀ r, (f r).peak = r.peak) : s.Still (s.modHole b f) :=
  ⟨steady_of_backdrop (by simp) fun c => by
      by_cases hc : c = b
      · subst hc; rw [boom_modHole_same]; rfl
      · rw [boom_modHole_other _ hc], by simp, by simp, interlocks_of (by simp) (by simp), view_modHole hf s b⟩

theorem kept_abandonWait {s : State} (hl : s.lawful) {b : Boom} (away : (s.boom b).ctl.state ≠ .idle)
    (wait : (s.boom b).ctl.state.isStage = false) (how : CloseKind) (st : BoomState) (f : Option FaultCode) :
    s.Kept (s.closeHole b how st f) :=
  kept_of_rested (rested_closeWait ((lawful_iff s).1 hl).1 (.refl s) rfl rfl away how st f) hl wait

theorem kept_faultInWait {s : State} (hl : s.lawful) {b : Boom} (away : (s.boom b).ctl.state ≠ .idle)
    (wait : (s.boom b).ctl.state.isStage = false) (f : FaultCode) (how : CloseKind) : s.Kept (s.faultInWait b f how) := by
  have marked : s.Still (s.markFault b f) := still_modHole fun r => by rfl
  have closed (u : State) (hu : s.Still u) (hb : u.backdrop = s.backdrop) (hm : u.monitor = s.monitor) :
      s.Rested (((u.closeHole b how (s.stance b).1 (some f)).raise b .stageFault).logBoomFault b f none (s.stance b)) b :=
    (rested_closeWait ((lawful_iff s).1 hl).1 hu hb hm away how (s.stance b).1 (some f)).before
      (by simp) (by simp) (by simp) (by simp) fun c => by simp
  refine kept_of_rested (b := b) ?_ hl wait
  unfold State.faultInWait
  simp only []
  split
  · exact closed _ (marked.trans (still_modHole fun r => by rfl)) (by simp) (by simp)
  · exact closed _ marked (by simp) (by simp)

end Sys2Proof.Machine

/-! ## Stages that begin, takes and polls (O8) -/
namespace Sys2Proof.Machine

/-! ### A stage begins (R75, R79 to R82, R87, R100) -/

/-- An act by which a boom's entry arrives, every other entry staying where it is. -/
structure State.Begun (s t : State) (b : Boom) (v : BoomView) : Prop where
  steady : s.steady t
  row : t.rowMap = s.rowMap
  locks : t.interlocks = s.interlocks
  away : (s.boom b).ctl.state ≠ .idle
  others : ∀ c, c ≠ b → (t.boom c).view = (s.boom c).view.handed s.arbiter.demands t.arbiter.demands c
  keys : ∀ p, p ≠ b.port → keysOf t.arbiter.demands p = keysOf s.arbiter.demands p
  view : (t.boom b).view = v.handed s.arbiter.demands t.arbiter.demands b
  based : v.based (s.rowMap.claims b)
  staged : v.staged s.interlocks
  stage : v.state.isStage = true
  run : v.run = some .waitFlow
  again : v.state = (s.boom b).ctl.state → (s.boom b).ctl.run = some .suspended ∧ v.firstRun = (s.boom b).ctl.firstRun
  fresh : s.demandsSound → v.state.demandKind ∉ (keysOf s.arbiter.demands b.port).map Prod.fst
  own : s.demandsSound → keysOf t.arbiter.demands b.port = [(v.state.demandKind, (flowOf s.params.plan v.state.demandKind).floor)]

theorem State.Begun.kept {s t : State} {b : Boom} {v : BoomView} (h : s.Begun t b v) (hl : s.lawful) : s.Kept t := by
  obtain ⟨framed, staged⟩ := (lawful_iff s).1 hl
  have operating : t.phase = .operating := h.steady.phase.trans (framed.operating h.away)
  refine ⟨⟨fun c => ?_, h.row ▸ framed.row, fun x hx hk => ?_, fun hp => absurd operating hp, linksLawful_of_steady h.steady framed.links⟩,
    fun c => ?_, fun hs => ⟨fun c => ?_, fun x hx => .inl (by rwa [h.keys _ (boom_port_ne_machine b).symm] at hx),
      fun hf => by rw [h.steady.plan]; exact hf⟩⟩
  · rw [h.row]
    by_cases hc : c = b
    · subst hc; rw [h.view]; exact based_handed h.based _ _ c
    · rw [h.others c hc]; exact based_handed (framed.based c) _ _ c
  · rw [h.keys _ (boom_port_ne_machine b).symm] at hx
    rw [h.row]
    exact framed.tram x hx hk
  · rw [h.locks]
    by_cases hc : c = b
    · subst hc; rw [h.view]; exact staged_handed h.staged _ _ c
    · rw [h.others c hc]; exact staged_handed (staged c) _ _ c
  · by_cases hc : c = b
    · subst hc; exact .begins v h.view h.stage h.run (grantOf_of_no_keys (h.fresh hs)) h.again (h.own hs)
    · exact .continues (s.boom c).view (h.others c hc) rfl rfl rfl (h.keys _ (port_ne hc))

theorem based_begun {v w : BoomView} {c : Prop} (h : v.based c) (away : v.state ≠ .idle) (stage : w.state.isStage = true)
    (run : w.run = some .waitFlow) (hole : w.hole = v.hole) (peak : w.peak = v.peak) : w.based c := by
  have notIdle : w.state ≠ .idle := fun e => by simp [e, BoomState.isStage] at stage
  refine ⟨by rw [run, stage]; rfl, ?_, by rw [hole, peak]; exact h.peak, ?_⟩
  · rw [hole, h.hole]; exact ⟨fun e => absurd e away, fun e => absurd e notIdle⟩
  · rw [h.claim]; exact ⟨fun e => absurd e away, fun e => absurd e notIdle⟩

theorem inter_empty_of_union {i a b : Interlocks} (h : i.inter (a.union b) = Interlocks.empty) : i.inter a = Interlocks.empty := by
  simp only [Interlocks.inter, Interlocks.union, Interlocks.empty, Interlocks.mk.injEq, Bool.and_eq_false_iff, Bool.or_eq_false_iff] at h ⊢
  obtain ⟨gas, pump, oil, support, dust, supply, fault, warmup, tram⟩ := h
  exact ⟨gas.imp_right And.left, pump.imp_right And.left, oil.imp_right And.left, support.imp_right And.left, dust.imp_right And.left,
    supply.imp_right And.left, fault.imp_right And.left, warmup.imp_right And.left, tram.imp_right And.left⟩

theorem staged_begun {s : State} {b : Boom} {st : BoomState} (fit : s.fitFor b st) {w : BoomView} (state : w.state = st)
    (run : w.run = some .waitFlow) (link : w.link = (s.boom b).link.state) (fault : w.headFault = (s.boom b).link.headFault) :
    w.staged s.interlocks := by
  obtain ⟨ready, clear⟩ := fit
  obtain ⟨up, none'⟩ := (HeadLink.fit_iff _).1 ready
  exact ⟨fun _ => ⟨link.trans up, fault.trans none'⟩, fun _ _ => by rw [state]; exact inter_empty_of_union clear,
      fun h => by simp [run] at h⟩

theorem keys_of_rest {s : State} {b : Boom} (hs : s.demandsSound) (h : (s.boom b).ctl.wanted = []) :
    keysOf s.arbiter.demands b.port = [] := by
  have kinds := (demandsSound_iff s).1 hs b
  rw [kindsOf_keys, h] at kinds
  exact List.map_eq_nil_iff.1 kinds

/-- A stage, its settings made, that arrives with its demand. -/
theorem begun_arrive {s : State} (hl : s.lawful) {b : Boom} (away : (s.boom b).ctl.state ≠ .idle) (rest : (s.boom b).ctl.wanted = [])
    {f : Controller → Controller} {st : BoomState} (fit : s.fitFor b st) (stage : st.isStage = true)
    (state : (f (s.boom b).ctl).state = st) (run : (f (s.boom b).ctl).run = some .waitFlow)
    (hole : (f (s.boom b).ctl).hole = (s.boom b).ctl.hole) (peak : (f (s.boom b).ctl).peak = (s.boom b).ctl.peak)
    (again : st = (s.boom b).ctl.state → (s.boom b).ctl.run = some .suspended ∧ (f (s.boom b).ctl).firstRun = (s.boom b).ctl.firstRun) :
    s.Begun ((s.modCtl b f).arrive b.port st.demandKind) b { s.boom b with ctl := f (s.boom b).ctl }.view where
  steady := steady_of_backdrop (by simp) fun c => by
    rw [line_of_ungranted (ungranted_arrive _ _ _ c)]
    by_cases hc : c = b
    · subst hc; rw [boom_modCtl_same]; rfl
    · rw [boom_modCtl_other _ hc]
  row := by simp
  locks := interlocks_of (by simp) (by simp)
  away := away
  others c hc := by rw [view_arrive, boom_modCtl_other _ hc, arbiter_modCtl]
  keys p hp := by rw [keysOf_arrive, if_neg hp.symm, List.append_nil, arbiter_modCtl]
  view := by rw [view_arrive, boom_modCtl_same, arbiter_modCtl]
  based := based_begun (((lawful_iff s).1 hl).1.based b) away (by rw [view_state, state]; exact stage) run
    (by simp only [BoomUnit.view, hole]) peak
  staged := staged_begun fit state run rfl rfl
  stage := by rw [view_state, state]; exact stage
  run := run
  again := by rw [view_state, state]; exact again
  fresh hs := by rw [keys_of_rest hs rest]; simp
  own hs := by
    rw [keysOf_arrive, if_pos rfl, arbiter_modCtl, keys_of_rest hs rest, view_state, state]
    simp

/-- A stage that begins from a wait state. -/
theorem kept_startStage {s : State} (hl : s.lawful) {b : Boom} {st : BoomState} (away : (s.boom b).ctl.state ≠ .idle)
    (wait : (s.boom b).ctl.state.isStage = false) (fit : s.fitFor b st) (stage : st.isStage = true) : s.Kept (s.startStage b st) :=
  (begun_arrive hl away (by simp [Controller.wanted, wait]) (f := fun c => c.enterStage st) fit stage rfl rfl rfl rfl
    fun e => by simp [e, wait] at stage).kept hl

theorem kept_takeResume {s : State} (hl : s.lawful) {b : Boom} (stage : (s.boom b).ctl.state.isStage = true)
    (held : (s.boom b).ctl.run = some .suspended) (fit : s.fitFor b (s.boom b).ctl.state) : s.Kept (s.takeResume b) :=
  (begun_arrive hl (fun e => by simp [e, BoomState.isStage] at stage) (by simp [Controller.wanted, held])
    (f := fun c => { c with run := some .waitFlow, suspending := Interlocks.empty }) fit stage rfl rfl rfl rfl fun _ => ⟨held, rfl⟩).kept hl

/-- SPINNING's success (R87, R107). -/
theorem kept_spinToHold {s : State} (hl : s.lawful) {b : Boom} (spinning : (s.boom b).ctl.state = .spinning)
    (running : (s.boom b).ctl.run = some .running) : s.Kept (s.spinToHold b) := by
  obtain ⟨framed, staged⟩ := (lawful_iff s).1 hl
  have away : (s.boom b).ctl.state ≠ .idle := by simp [spinning]
  have stage : (s.boom b).ctl.state.isStage = true := by rw [spinning]; rfl
  have demands : (s.spinToHold b).arbiter.demands = allocate s.arbiter.qAvail
      ((s.arbiter.demands.filter fun d => !(d.owner == b.port)) ++ [newDemand s.params.plan b.port .hold]) := by
    simp [State.spinToHold]
  have views (c : Boom) : ((s.spinToHold b).boom c).view =
      ((s.modCtl b fun c => { c.enterStage .holding with holdTimer := some 0, gelDeadline := none }).boom c).view.handed
        s.arbiter.demands (s.spinToHold b).arbiter.demands c := by
    unfold State.spinToHold
    simp only [boom_raise, arbiter_raise]
    rw [view_reallocate, boom_arbiter, arbiter_modCtl]
  have begun : s.Begun (s.spinToHold b) b
      { s.boom b with ctl := { (s.boom b).ctl.enterStage .holding with holdTimer := some 0, gelDeadline := none } }.view :=
    { steady := steady_of_backdrop (by simp) fun c => by
        by_cases hc : c = b
        · subst hc
          simp only [State.spinToHold]
          rw [boom_raise, line_of_ungranted (ungranted_reallocate _ _ _), boom_arbiter, boom_modCtl_same]; rfl
        · exact line_of_ungranted (ungranted_spinToHold s hc)
      row := by simp
      locks := interlocks_of (by simp) (by simp)
      away := away
      others := fun c hc => by rw [views, boom_modCtl_other _ hc]
      keys := fun p hp => by
        rw [demands, keysOf_allocate, keysOf_append, keysOf_newDemand, if_neg hp.symm, List.append_nil]
        exact keysOf_filter_other fun d _ ho => by simp [ho, hp]
      view := by rw [views, boom_modCtl_same]
      based := based_begun (framed.based b) away rfl rfl rfl rfl
      staged := by
        have h := staged b
        refine ⟨fun _ => h.link stage, fun _ _ => ?_, fun k => by cases k⟩
        have free := h.free stage (by rw [show (s.boom b).view.run = some .running from running]; simp)
        rw [show (s.boom b).view.state = .spinning from spinning] at free
        exact free
      stage := rfl
      run := rfl
      again := fun e => by simp [spinning, BoomUnit.view, Controller.enterStage] at e
      fresh := fun hs => by
        have kinds := (demandsSound_iff s).1 hs b
        rw [kindsOf_keys, Controller.wanted, spinning, running] at kinds
        rw [kinds]
        simp [BoomUnit.view, Controller.enterStage, BoomState.isStage, BoomState.demandKind]
      own := fun hs => by
        rw [demands, keysOf_allocate, keysOf_append, keysOf_newDemand, if_pos rfl,
          keysOf_filter_own fun d _ ho => by simp [ho]]
        rfl }
  exact begun.kept hl

/-! ### What stands around an act -/

theorem still_of {s t : State} (hb : t.backdrop = s.backdrop) (ha : t.arbiter = s.arbiter) (hr : t.rowMap = s.rowMap)
    (hm : t.monitor = s.monitor) (hv : ∀ c, (t.boom c).view = (s.boom c).view) (hl : ∀ c, (t.boom c).line = (s.boom c).line) : s.Still t :=
  ⟨steady_of_backdrop hb hl, by rw [ha], hr, interlocks_of hm hr, hv⟩

theorem still_of_booms {s t : State} (hb : t.backdrop = s.backdrop) (ha : t.arbiter = s.arbiter) (hr : t.rowMap = s.rowMap)
    (hm : t.monitor = s.monitor) (hu : ∀ c, t.boom c = s.boom c) : s.Still t :=
  still_of hb ha hr hm (fun c => by rw [hu]) fun c => by rw [hu]

theorem still_modBoom {s : State} {b : Boom} {f : BoomUnit → BoomUnit} (hv : (f (s.boom b)).view = (s.boom b).view)
    (hl : (f (s.boom b)).line = (s.boom b).line) : s.Still (s.modBoom b f) := by
  refine still_of (by simp) (by simp) (by simp) (by simp) (view_modBoom hv) fun c => ?_
  rw [boom_modBoom]
  split
  · rename_i hc; rw [hc]; exact hl
  · rfl

theorem still_modTracker (s : State) (b : Boom) (f : DepthTracker → DepthTracker) : s.Still (s.modTracker b f) := still_modBoom rfl rfl

theorem still_modCtl {s : State} {b : Boom} {f : Controller → Controller}
    (h : ({ s.boom b with ctl := f (s.boom b).ctl } : BoomUnit).view = (s.boom b).view) : s.Still (s.modCtl b f) := still_modBoom h rfl

theorem still_modLink {s : State} {b : Boom} {f : HeadLink → HeadLink}
    (h : ({ s.boom b with link := f (s.boom b).link } : BoomUnit).view = (s.boom b).view)
    (hl : ({ s.boom b with link := f (s.boom b).link } : BoomUnit).line = (s.boom b).line) : s.Still (s.modLink b f) := still_modBoom h hl

theorem still_modWear (s : State) (b : Boom) (f : WearTable → WearTable) : s.Still (s.modWear b f) :=
  still_of (by simp) (by simp) (by simp) (by simp) (fun c => view_modWear s b c f) fun c => by
    by_cases hc : c = b
    · subst hc; rw [boom_modWear_same]; rfl
    · rw [boom_modWear_other _ hc]

theorem State.Still.lawful {s t : State} (h : s.Still t) (hl : s.lawful) : t.lawful := by
  obtain ⟨framed, staged⟩ := (lawful_iff s).1 hl
  exact (lawful_iff t).2 ⟨h.near.framed framed, staged_still h staged⟩

theorem State.Still.fitFor {s t : State} (h : s.Still t) {b : Boom} {st : BoomState} (fit : s.fitFor b st) : t.fitFor b st := by
  obtain ⟨ready, clear⟩ := fit
  obtain ⟨up, none'⟩ := (HeadLink.fit_iff _).1 ready
  exact ⟨(HeadLink.fit_iff _).2 ⟨(congrArg BoomView.link (h.views b)).trans up, (congrArg BoomView.headFault (h.views b)).trans none'⟩,
    by rw [h.locks]; exact clear⟩

/-- Settings made, and then a stage that begins. -/
theorem kept_startAfter {s u : State} (h : s.Still u) (hl : s.lawful) {b : Boom} {st : BoomState} (away : (s.boom b).ctl.state ≠ .idle)
    (wait : (s.boom b).ctl.state.isStage = false) (fit : s.fitFor b st) (stage : st.isStage = true) : s.Kept (u.startStage b st) := by
  have state : (u.boom b).ctl.state = (s.boom b).ctl.state := h.near.states b
  exact (kept_startStage (h.lawful hl) (by rw [state]; exact away) (by rw [state]; exact wait) (h.fitFor fit) stage).after h.near

/-- An act that changes what no stage in progress depends on. -/
theorem State.Near.kept {s t : State} (h : s.Near t) (hs : s.framed) (staged : t.stagesLawful) : s.Kept t := by
  refine ⟨h.framed hs, staged, fun _ => ⟨fun b => .continues (t.boom b).view ?_ (h.states b) (h.runs b) (h.marks b) (by rw [h.demands]),
    fun x hx => .inl (by rwa [h.demands] at hx), fun hf => by rw [h.steady.plan]; exact hf⟩⟩
  rw [h.demands, handed_self]

/-- A change of one boom's link, its line aside. -/
theorem near_modLink {s : State} {b : Boom} {f : HeadLink → HeadLink}
    (hl : ({ s.boom b with link := f (s.boom b).link } : BoomUnit).line = (s.boom b).line) : s.Near (s.modLink b f) := by
  have keeps {α : Type} (g : BoomUnit → α) (hg : ∀ u : BoomUnit, ∀ l, g { u with link := l } = g u) (c : Boom) :
      g ((s.modLink b f).boom c) = g (s.boom c) := by
    by_cases hc : c = b
    · subst hc; rw [boom_modLink_same]; exact hg _ _
    · rw [boom_modLink_other _ hc]
  refine ⟨steady_of_backdrop (by simp) fun c => ?_, by simp, by simp, interlocks_of (by simp) (by simp),
    keeps (fun u => u.ctl.state) fun _ _ => rfl, keeps (fun u => u.ctl.run) fun _ _ => rfl, keeps (fun u => u.ctl.firstRun) fun _ _ => rfl,
    fun c p hb => ?_⟩
  · by_cases hc : c = b
    · subst hc; rw [boom_modLink_same]; exact hl
    · rw [boom_modLink_other _ hc]
  · by_cases hc : c = b
    · subst hc
      rw [boom_modLink_same]
      exact ⟨hb.run, hb.hole, hb.peak, hb.claim⟩
    · rw [boom_modLink_other _ hc]; exact hb

/-- A boom in no stage keeps every law of a stage. -/
theorem staged_of_wait {s : State} (hs : s.framed) {b : Boom} (wait : (s.boom b).ctl.state.isStage = false) (i : Interlocks) :
    (s.boom b).view.staged i := by
  have none' := (hs.based b).run
  rw [view_state, wait] at none'
  exact staged_of_rest wait (by rw [Option.isSome_eq_false_iff.1 none' |> Option.isNone_iff_eq_none.1]; simp) i

theorem staged_modLink_other {s : State} {b : Boom} (hs : s.stagesLawful) (f : HeadLink → HeadLink) (c : Boom) (hc : c ≠ b) :
    ((s.modLink b f).boom c).view.staged (s.modLink b f).interlocks := by
  rw [boom_modLink_other _ hc, interlocks_of (s := s) (by simp) (by simp)]; exact hs c

/-- A fault of the link or the head (R12, R14). -/
theorem kept_linkFault {s : State} (hs : s.framed) {b : Boom} (ho : ∀ c, c ≠ b → (s.boom c).view.staged s.interlocks) (f : FaultCode)
    (x : Option Nat) : s.Kept (s.linkFault b f x) := by
  unfold State.linkFault
  simp only []
  cases hst : (s.boom b).ctl.state.isStage with
  | true => exact (if_pos (c := (s.stance b).1.isStage = true) hst) ▸ kept_endStage hs hst (by simp) ho _ _
  | false =>
    have lawful : s.lawful := (lawful_iff s).2 ⟨hs, fun c => by
      by_cases hc : c = b
      · subst hc; exact staged_of_wait hs hst _
      · exact ho c hc⟩
    rw [if_neg (by simp [State.stance, hst])]
    have marked : s.Still (s.markFault b f) := still_modHole fun r => by rfl
    exact (marked.trans (still_of_booms (by simp) (by simp) (by simp) (by simp) fun c => by simp)).regranted.kept lawful

end Sys2Proof.Machine

/-! ## Takes, polls and the receiver (O8) -/
namespace Sys2Proof.Machine

/-! ### Acts of a tracker that no law looks at -/

theorem still_handSlice (s : State) (b : Boom) (x : ClosedSlice) : s.Still (s.handSlice b x) :=
  still_of (by simp) (by simp) (by simp) (by simp) (fun c => view_handSlice s b c x) fun c => by
    by_cases hc : c = b
    · subst hc; exact line_of_link (boom_handSlice_same s c x).1
    · rw [boom_handSlice_other _ hc]

theorem still_closeAtBoundaries (s : State) (b : Boom) : s.Still (s.closeAtBoundaries b) := by
  have handed (cs : List ClosedSlice) : ∀ s : State, s.Still (cs.foldl (fun s c => s.handSlice b c) s) := by
    induction cs with
    | nil => exact .refl
    | cons c cs ih => exact fun s => (still_handSlice s b c).trans (ih _)
  unfold State.closeAtBoundaries
  simp only []
  repeat' split
  · exact .refl s
  · exact .refl s
  · exact (handed _ s).trans (still_modTracker _ b _)

theorem still_missingPoll (s : State) (b : Boom) : s.Still (s.missingPoll b) := by
  rw [missingPoll_eq]; exact still_modTracker s b _

theorem still_workedOn (s : State) (b : Boom) (x : Sample) : s.Still (s.workedOn b x) := by
  unfold State.workedOn
  simp only []
  have untimed (t : State) : t.Still (t.modCtl b fun c => { c with collarTimer := none }) := still_modCtl rfl
  repeat' split
  · exact ((still_modTracker s b _).trans (untimed _)).trans (still_closeAtBoundaries _ b)
  · exact (still_modTracker s b _).trans (still_closeAtBoundaries _ b)
  · exact (still_modTracker s b _).trans (untimed _)
  · exact still_modTracker s b _

theorem still_track (s : State) (b : Boom) (x : Sample) : s.Still (s.track b x).state := by
  cases hg : isGlitch (encoderDelta (s.boom b).tracker.encoderRef x.count) with
  | true =>
    rw [(track_of_glitch hg).1]
    have counted : s.Still (s.modLink b fun l => { l with stats := { l.stats with glitch := count16 l.stats.glitch } }) :=
        still_modLink rfl rfl
    exact (counted.trans (still_missingPoll _ b)).trans (still_modTracker _ b _)
  | false =>
    rw [track_of_accepted hg]
    obtain ⟨f, h, -⟩ := state_trackRuns (s.workedOn b x) b x
      (((s.boom b).tracker.placed (s.boom b).ctl.state (s.calib b).scale x).atFace (s.boom b).ctl.state)
      (((s.boom b).tracker.placed (s.boom b).ctl.state (s.calib b).scale x).extends (s.boom b).ctl.state) (s.boom b).tracker.maxDepth
    rw [h]
    exact (still_workedOn s b x).trans (still_modTracker _ b f)

/-! ### The torque counts (R76, R88) -/

/-- A change of a controller that leaves its stage and keeps its peak in step with its record. -/
theorem near_modCtl {s : State} {b : Boom} {f : Controller → Controller} (hs : (f (s.boom b).ctl).state = (s.boom b).ctl.state)
    (hr : (f (s.boom b).ctl).run = (s.boom b).ctl.run) (hf : (f (s.boom b).ctl).firstRun = (s.boom b).ctl.firstRun)
    (hh : (f (s.boom b).ctl).hole = none ↔ (s.boom b).ctl.hole = none)
    (hp : ((f (s.boom b).ctl).hole.map HoleRecord.peak).join = none ∨
      ((f (s.boom b).ctl).hole.map HoleRecord.peak).join = some (f (s.boom b).ctl).peak) :
    s.Near (s.modCtl b f) ∧ ∀ c i, (s.boom c).view.staged i → ((s.modCtl b f).boom c).view.staged i := by
  have own : (s.modCtl b f).boom b = { s.boom b with ctl := f (s.boom b).ctl } := boom_modCtl_same s b f
  have keeps {α : Type} (g : BoomUnit → α) (hg : g { s.boom b with ctl := f (s.boom b).ctl } = g (s.boom b)) (c : Boom) :
      g ((s.modCtl b f).boom c) = g (s.boom c) := by
    by_cases hc : c = b
    · subst hc; rw [own]; exact hg
    · rw [boom_modCtl_other _ hc]
  refine ⟨⟨steady_of_backdrop (by simp) (keeps BoomUnit.line rfl), by simp, by simp, interlocks_of (by simp) (by simp),
    keeps (fun u => u.ctl.state) hs, keeps (fun u => u.ctl.run) hr, keeps (fun u => u.ctl.firstRun) hf, fun c p hb => ?_⟩, fun c i h => ?_⟩
  · by_cases hc : c = b
    · subst hc
      rw [own]
      refine ⟨?_, ?_, hp, ?_⟩
      · exact (congrArg Option.isSome hr).trans (hb.run.trans (congrArg BoomState.isStage hs.symm))
      · exact (Option.map_eq_none_iff.trans hh).trans ((Option.map_eq_none_iff.symm.trans hb.hole).trans (by rw [view_state, ← hs]; rfl))
      · exact hb.claim.trans (by rw [view_state, ← hs]; rfl)
    · rw [boom_modCtl_other _ hc]; exact hb
  · by_cases hc : c = b
    · subst hc
      rw [own]
      refine ⟨fun hst => h.link ?_, fun hst hrun => ?_, fun hrun => ?_⟩
      · exact (congrArg BoomState.isStage hs).symm.trans hst
      · have free := h.free ((congrArg BoomState.isStage hs).symm.trans hst)
          (by rw [Ne, show (s.boom c).view.run = _ from hr.symm]; exact hrun)
        rw [show (s.boom c).view.state = _ from hs.symm] at free
        exact free
      · obtain ⟨latch, first⟩ := h.runs (hr.symm.trans hrun)
        exact ⟨latch, hf.trans first⟩
    · rw [boom_modCtl_other _ hc]; exact h

theorem near_countSample (s : State) (b : Boom) (x : Sample) (hs : s.framed) :
    s.Near (s.countSample b x) ∧ ∀ c i, (s.boom c).view.staged i → ((s.countSample b x).boom c).view.staged i := by
  have kept : s.Near s ∧ ∀ c i, (s.boom c).view.staged i → (s.boom c).view.staged i := ⟨(State.Still.refl s).near, fun _ _ h => h⟩
  unfold State.countSample
  simp only []
  repeat' split
  · exact kept
  · exact near_modCtl rfl rfl rfl .rfl (hs.based b).peak
  · refine near_modCtl rfl rfl rfl (by simp [Controller.torqueSample]) ?_
    simp only [Controller.torqueSample, Option.map_map]
    cases (s.boom b).ctl.hole with
    | none => exact .inl rfl
    | some h => exact .inr rfl
  · exact kept

/-! ### A take (R6, R14, R83) -/

theorem kept_endOnSample {s : State} (hl : s.lawful) {b : Boom} {t : Tracked} {e : SampleEnd} (h : sampleEnd s b t = some e) :
    s.Kept (s.endOnSample b e) := by
  obtain ⟨framed, staged⟩ := (lawful_iff s).1 hl
  obtain ⟨stage, -, mixed, running⟩ := sampleEnd_stage h
  have ends (u : State) (hu : s.Still u) (e' : StageEnd) (he : e ≠ .mixed) (st : BoomState × Option RunCondition) :
      s.Kept (u.endStage b e' none st) := by
    have state := hu.near.states b
    refine (kept_endStage (hu.near.framed framed) (by rw [state]; exact stage) ?_ (fun c _ => staged_still hu staged c) _ _).after hu.near
    rintro ⟨hsp, -⟩
    exact he (mixed.2 (state.symm.trans hsp))
  cases e with
  | collarDepth | depthReached | inPlace | achieved | depthLimit | stalled | blockedByRun | blockedEarly | slippedByPressure
    | slippedByTurns => simpa only [State.endOnSample] using ends s (.refl s) _ (by simp) _
  | mixed => exact kept_spinToHold hl (mixed.1 rfl) (running rfl)
  | clear => simpa only [State.endOnSample] using ends _ (still_modTracker s b _) _ (by simp) _

theorem kept_headStatus {s : State} (hl : s.lawful) (b : Boom) (code : Nat) : s.Kept (s.headStatus b code) := by
  obtain ⟨framed, staged⟩ := (lawful_iff s).1 hl
  unfold State.headStatus
  simp only []
  split
  · have noted : s.Near (s.modLink b fun l => { l with headFault := code, stopLatch := true }) := near_modLink rfl
    exact (kept_linkFault (noted.framed framed) (fun c hc => staged_modLink_other staged _ c hc) _ _).after noted
  · rename_i hn
    have noted : s.Near (s.modLink b fun l => { l with headFault := code }) := near_modLink rfl
    refine noted.kept framed fun c => ?_
    by_cases hc : c = b
    · subst hc
      cases hst : (s.boom c).ctl.state.isStage with
      | false => exact staged_of_wait (noted.framed framed) (by rw [noted.states]; exact hst) _
      | true =>
        have fault : (s.boom c).link.headFault = 0 := ((staged c).link hst).2
        have same : code = 0 := by
          by_contra hne
          exact hn ⟨fault, hne⟩
        have still : s.Still (s.modLink c fun l => { l with headFault := code }) :=
          still_modLink (by simp [BoomUnit.view, same, fault]) rfl
        exact staged_still still staged c
    · exact staged_modLink_other staged _ c hc

theorem kept_take {s : State} (hl : s.lawful) (b : Boom) : s.Kept (s.take b).state := by
  have taken : s.Still (s.modLink b HeadLink.takeOldest) := still_modLink rfl rfl
  unfold State.take
  split
  · exact kept_refl hl
  · simp only []
    split
    · exact taken.regranted.kept hl
    · exact (kept_headStatus (taken.lawful hl) b _).after taken.near
    · rename_i x _
      have tracked := taken.trans (still_track (s.modLink b HeadLink.takeOldest) b x)
      split
      · obtain ⟨framed, staged⟩ := (lawful_iff _).1 (tracked.lawful hl)
        obtain ⟨near, stages⟩ := near_countSample ((s.modLink b HeadLink.takeOldest).track b x).state b x framed
        have counted : (((s.modLink b HeadLink.takeOldest).track b x).state.countSample b x).lawful :=
          (lawful_iff _).2 ⟨near.framed framed, fun c => by rw [near.locks]; exact stages c _ (staged c)⟩
        split
        · exact (kept_endOnSample counted (by assumption)).after (tracked.near.trans near)
        · exact (kept_refl counted).after (tracked.near.trans near)
      · exact tracked.regranted.kept hl

/-! ### A poll (R8, R11, R12) -/

theorem kept_judgePoll {s : State} (hl : s.lawful) (b : Boom) : s.Kept (s.judgePoll b) := by
  cases ho : (s.boom b).link.outstanding.isSome with
  | false => rw [State.judgePoll, if_neg (by simp [ho])]; exact kept_refl hl
  | true =>
    have judged : s.Still (s.modBoom b fun _ => s.judgedBoom b) := still_modBoom rfl rfl
    rw [judgePoll_eq s b ho]
    have lawful := judged.lawful hl
    generalize s.modBoom b (fun _ => s.judgedBoom b) = u at judged lawful ⊢
    refine State.Kept.after judged.near ?_
    obtain ⟨framed, staged⟩ := (lawful_iff u).1 lawful
    unfold State.linkChange State.loseLink
    simp only []
    repeat' split
    · have lost : u.Near (u.modLink b fun l => { l with state := .lost, stopLatch := true }) := near_modLink rfl
      have still := still_modTracker (u.modLink b fun l => { l with state := .lost, stopLatch := true }) b
          fun t => { t with encoderRef := none }
      refine (kept_linkFault ((lost.trans still.near).framed framed) (fun c hc => ?_) _ _).after (lost.trans still.near)
      rw [still.views, still.locks]
      exact staged_modLink_other staged _ c hc
    · exact kept_refl lawful
    · rename_i notUp _
      have up : u.Near (u.modLink b fun l => { l with state := .up }) := near_modLink rfl
      refine up.kept framed fun c => ?_
      by_cases hc : c = b
      · subst hc
        refine staged_of_wait (up.framed framed) ?_ _
        rw [up.states]
        by_contra hst
        exact notUp ((staged c).link (Bool.not_eq_false _ ▸ hst)).1
      · exact staged_modLink_other staged _ c hc
    · exact kept_refl lawful

theorem still_closePoll {s : State} {b : Boom} (running : (s.boom b).link.running = true) : s.Still (s.closePoll b) := by
  obtain ⟨back, monitor, row, arbiter, -⟩ := closePoll_keeps s b
  have own := boom_closePoll s b
  refine ⟨steady_of_kept back fun c => ?_, by rw [arbiter], row, interlocks_of monitor row, fun c => ?_⟩
  · by_cases hc : c = b
    · subst hc
      rw [own]
      exact ⟨rfl, fun hoff => by simp [running] at hoff⟩
    · rw [boom_closePoll_other hc]; exact .of_line rfl
  · by_cases hc : c = b
    · subst hc; rw [own]; rfl
    · rw [boom_closePoll_other hc]

theorem running_judgePoll (s : State) (b : Boom) : ((s.judgePoll b).boom b).link.running = (s.boom b).link.running := by
  have faulted (t : State) (f : FaultCode) (x : Option Nat) : ((t.linkFault b f x).boom b).link.running = (t.boom b).link.running := by
    unfold State.linkFault
    simp only []
    split
    · rw [link_endStage]; split <;> rfl
    · simp
  cases ho : (s.boom b).link.outstanding.isSome with
  | false => rw [State.judgePoll, if_neg (by simp [ho])]
  | true =>
    rw [judgePoll_eq s b ho]
    unfold State.linkChange State.loseLink
    simp only []
    repeat' split
    · rw [faulted, boom_modTracker_same, boom_modLink_same, boom_modBoom_same]; rfl
    · rw [boom_modBoom_same]; rfl
    · rw [boom_modLink_same, boom_modBoom_same]; rfl
    · rw [boom_modBoom_same]; rfl

theorem kept_expirePoll {s : State} (hl : s.lawful) {b : Boom} (due : (s.boom b).link.pollDue = true) : s.Kept (s.expirePoll b) := by
  rw [expirePoll_eq]
  refine (kept_judgePoll hl b).before (still_closePoll ?_)
  rw [running_judgePoll]
  exact ((HeadLink.pollDue_iff _).1 due).1

/-! ### The receiver (R3 to R5) -/

/-- What the laws look at in a link. -/
def HeadLink.telling (l : HeadLink) : LinkState × Nat × Bool × Bool × Option (List Byte) :=
  (l.state, l.headFault, l.stopLatch, l.running, l.sent)

theorem telling_dispose (l : HeadLink) (address : Nat) (data : List Bool) : (l.dispose address data).telling = l.telling := by
  unfold HeadLink.dispose HeadLink.enter
  repeat' split
  · rfl
  · rfl
  · cases (frameEntry data).status <;> rfl

theorem telling_nextEvent {l : HeadLink} {address : Nat} {run : List Bool} {e : HeadLink × List Bool}
    (h : l.nextEvent address run = some e) : e.1.telling = l.telling := by
  unfold HeadLink.nextEvent at h
  split at h
  · obtain ⟨_, -, rfl⟩ := Option.map_eq_some_iff.1 h; rfl
  · split at h <;> cases h <;> rfl
  · split at h <;> cases h
    · exact telling_dispose l address _
    · rfl

theorem telling_takeBits (address : Nat) : ∀ (n : Nat) (l : HeadLink) (bits : List Bool),
    (HeadLink.takeBits address n l bits).telling = l.telling
  | 0, _, _ => rfl
  | n + 1, l, bits => by
    unfold HeadLink.takeBits
    split
    · rename_i e he
      exact (telling_takeBits address n e.1 e.2).trans (telling_nextEvent he)
    · rfl

theorem still_receive (s : State) (b : Boom) (bits : List Bool) : s.Still (s.receive b bits) := by
  have same (l : HeadLink) : (if l.running then
      HeadLink.takeBits (s.calib b).headAddress (2 * (l.line.length + bits.length) + 2) l bits else l).telling = l.telling := by
    split
    · exact telling_takeBits _ _ _ _
    · rfl
  have h := same (s.boom b).link
  refine still_modLink ?_ ?_
  · simp only [BoomUnit.view]
    rw [show HeadLink.state _ = _ from congrArg Prod.fst h, show HeadLink.headFault _ = _ from congrArg (fun x => x.2.1) h,
      show HeadLink.stopLatch _ = _ from congrArg (fun x => x.2.2.1) h]
    rfl
  · exact congrArg (fun x => x.2.2.2) h

end Sys2Proof.Machine

/-! ## The stage requests and the row's requests (O8) -/
namespace Sys2Proof.Machine

/-! ### The stage requests (R79 to R82) -/

theorem still_collarSettings (s : State) (b : Boom) :
    s.Still (((s.captureZ b).recordCollar b).modCtl b fun c => { c with collarTimer := some 0 }) := by
  have captured : s.Still (s.captureZ b) := by
    unfold State.captureZ
    simp only []
    split
    · exact still_modTracker s b _
    · exact (still_modTracker s b _).trans (still_modWear _ b _)
  have recorded : (s.captureZ b).Still ((s.captureZ b).recordCollar b) := still_modHole fun r => by rfl
  exact (captured.trans recorded).trans (still_modCtl rfl)

theorem kept_takeCollar {s : State} (hl : s.lawful) {b : Boom} (at' : (s.boom b).ctl.state = .holeOpen) (fit : s.fitFor b .collaring) :
    s.Kept (s.takeCollar b) :=
  kept_startAfter (still_collarSettings s b) hl (by simp [at']) (by simp [at', BoomState.isStage]) fit rfl

theorem kept_takeDrill {s : State} (hl : s.lawful) {b : Boom} (at' : (s.boom b).ctl.state = .collared ∨ (s.boom b).ctl.state = .drilled)
    (fit : s.fitFor b .drilling) : s.Kept (s.takeDrill b) := by
  refine kept_startAfter (still_modTracker s b _) hl ?_ ?_ fit rfl <;>
    rcases at' with h | h <;> simp [h, BoomState.isStage]

theorem kept_takeRetract {s : State} (hl : s.lawful) {b : Boom} (at' : (s.boom b).ctl.state = .collared ∨ (s.boom b).ctl.state = .drilled)
    (fit : s.fitFor b .retracting) : s.Kept (s.takeRetract b) := by
  refine kept_startStage hl ?_ ?_ fit rfl <;>
    rcases at' with h | h <;> simp [h, BoomState.isStage]

theorem kept_takeInsert {s : State} (hl : s.lawful) {b : Boom} (at' : (s.boom b).ctl.state = .retracted) (fit : s.fitFor b .inserting) :
    s.Kept (s.takeInsert b) :=
  kept_startAfter ((still_modTracker s b _).trans (still_modHole fun r => by rfl)) hl (by simp [at'])
    (by simp [at', BoomState.isStage]) fit rfl

theorem kept_takeSpin {s : State} (hl : s.lawful) {b : Boom} (at' : (s.boom b).ctl.state = .inserted) (fit : s.fitFor b .spinning) :
    s.Kept (s.takeSpin b) :=
  kept_startAfter (still_modCtl rfl) hl (by simp [at']) (by simp [at', BoomState.isStage]) fit rfl

/-- The torque counts at the start of TORQUING. -/
def Controller.clearTorque (c : Controller) : Controller :=
  { c with
    peak := 0, torqueAcc := 0, holdRun := 0, slipRun := 0, reachMark := false, torqueTime := some 0
    hole := c.hole.map fun h => { h with peak := some 0 } }

/-- TORQUE sets the controller's peak and its record's together (R76). -/
theorem near_clearTorque (s : State) (b : Boom) : s.Near (s.modCtl b Controller.clearTorque) ∧
    ∀ c i, (s.boom c).view.staged i → ((s.modCtl b Controller.clearTorque).boom c).view.staged i := by
  refine near_modCtl rfl rfl rfl (by simp [Controller.clearTorque]) ?_
  unfold Controller.clearTorque
  cases (s.boom b).ctl.hole with
  | none => exact .inl rfl
  | some h => exact .inr rfl

theorem takeTorque_eq (s : State) (b : Boom) : s.takeTorque b = (s.modCtl b Controller.clearTorque).startStage b .torquing := rfl

theorem kept_takeTorque {s : State} (hl : s.lawful) {b : Boom} (at' : (s.boom b).ctl.state = .set) (fit : s.fitFor b .torquing) :
    s.Kept (s.takeTorque b) := by
  obtain ⟨framed, staged⟩ := (lawful_iff s).1 hl
  obtain ⟨near, stages⟩ := near_clearTorque s b
  obtain ⟨ready, clear⟩ := fit
  rw [takeTorque_eq]
  refine (kept_startStage ((lawful_iff _).2 ⟨near.framed framed, fun c => by rw [near.locks]; exact stages c _ (staged c)⟩)
    ?_ ?_ ⟨by rw [boom_modCtl_same]; exact ready, by rw [near.locks]; exact clear⟩ rfl).after near
  · rw [near.states]; simp [at']
  · rw [near.states]; simp [at', BoomState.isStage]

/-! ### A claim (R119, R124) -/

theorem nodup_range_split (n m : Nat) (hn : n ≤ 8) : (List.range n ++ (List.range m).map (8 + ·)).Nodup := by
  refine List.nodup_append.2 ⟨List.nodup_range, (List.nodup_map_iff fun a b h => Nat.add_left_cancel h).2 List.nodup_range, ?_⟩
  intro a ha b hb hab
  obtain ⟨k, -, rfl⟩ := List.mem_map.1 hb
  have := List.mem_range.1 ha
  omega

/-- No two slots of the row have one number. -/
theorem RowMap.lawful.nodup {m : RowMap} (h : m.lawful) : (m.slots.map Slot.number).Nodup := by
  rw [RowMap.slots, List.map_append, h.planned, h.supplementary]
  exact nodup_range_split _ _ h.most

theorem slot_unique {m : RowMap} (h : m.lawful) {x y : Slot} (hx : x ∈ m.slots) (hy : y ∈ m.slots) (hn : x.number = y.number) : x = y :=
  List.inj_on_of_nodup_map h.nodup hx hy hn

theorem slot_found {m : RowMap} {n : Nat} {sl : Slot} (h : m.slot n = some sl) : sl ∈ m.slots ∧ sl.number = n := by
  unfold RowMap.slot at h
  exact ⟨List.mem_of_find?_eq_some h, by simpa using List.find?_some h⟩

/-- The claims behind a change of one OPEN slot. -/
theorem claims_put {m : RowMap} (h : m.lawful) {sl : Slot} (hsl : sl ∈ m.slots) (isOpen : sl.state = .isOpen) (st : SlotState) (b : Boom) :
    (m.mapSlots fun x => if x.number = sl.number then { x with state := st } else x).claims b ↔ st = .claimed b ∨ m.claims b := by
  rw [claims_mapSlots]
  constructor
  · rintro ⟨x, hx, k⟩
    split at k
    · exact .inl k
    · exact .inr ⟨x, hx, k⟩
  · rintro (k | ⟨x, hx, k⟩)
    · exact ⟨sl, hsl, by simpa using k⟩
    · refine ⟨x, hx, ?_⟩
      rw [if_neg]
      · exact k
      · intro e
        rw [slot_unique h hx hsl e, isOpen] at k
        simp at k

/-- A boom that stands apart from the demand list and from the suspending set, before and after an act. -/
structure State.Admitted (s t : State) (b : Boom) : Prop where
  steady : s.steady t
  demands : t.arbiter.demands = s.arbiter.demands
  locks : t.interlocks = s.interlocks
  operating : s.phase = .operating
  wait : (s.boom b).ctl.state.isStage = false
  run : (t.boom b).view.run = none
  stage : (t.boom b).view.state.isStage = false
  based : (t.boom b).view.based (t.rowMap.claims b)
  others : ∀ c, c ≠ b → (t.boom c).view = (s.boom c).view ∧ (t.rowMap.claims c ↔ s.rowMap.claims c)
  row : s.rowMap.lawful → t.rowMap.lawful
  permitted : t.rowMap.tramPermitted = s.rowMap.tramPermitted

theorem State.Admitted.kept {s t : State} {b : Boom} (h : s.Admitted t b) (hl : s.lawful) : s.Kept t := by
  obtain ⟨framed, staged⟩ := (lawful_iff s).1 hl
  refine ⟨⟨fun c => ?_, h.row framed.row, fun x hx hk => ?_, fun hp => absurd (h.steady.phase.trans h.operating) hp,
    linksLawful_of_steady h.steady framed.links⟩, fun c => ?_, fun hd => ⟨fun c => ?_, fun x hx => .inl (by rwa [h.demands] at hx),
      fun hf => by rw [h.steady.plan]; exact hf⟩⟩
  · by_cases hc : c = b
    · subst hc; exact h.based
    · obtain ⟨view, claims⟩ := h.others c hc
      have := framed.based c
      rw [view]
      exact ⟨this.run, this.hole, this.peak, by rw [claims]; exact this.claim⟩
  · rw [h.demands] at hx
    rw [h.permitted]
    exact framed.tram x hx hk
  · rw [h.locks]
    by_cases hc : c = b
    · subst hc; exact staged_of_rest h.stage (by rw [h.run]; simp) _
    · rw [(h.others c hc).1]; exact staged c
  · by_cases hc : c = b
    · subst hc
      exact .rests (by rw [h.demands]; exact keys_of_wait hd h.wait) (by rw [wanted_view, BoomView.wanted, h.stage]; simp)
    · exact .continues (s.boom c).view (by rw [(h.others c hc).1, h.demands, handed_self]) rfl rfl rfl (by rw [h.demands])

theorem kept_grantClaim {s : State} (hl : s.lawful) (operating : s.phase = .operating) {b : Boom} {n : Nat} {sl : Slot}
    (idle : (s.boom b).ctl.state = .idle) (found : s.rowMap.slot n = some sl) (isOpen : sl.state = .isOpen)
    (clear : s.interlocks.inter claimBlockers = Interlocks.empty) : s.Kept (s.grantClaim b sl) := by
  obtain ⟨framed, -⟩ := (lawful_iff s).1 hl
  obtain ⟨mem, -⟩ := slot_found found
  have noTram : s.rowMap.tramPermitted = false := congrArg Interlocks.tramming clear |> fun h => by
    simpa [Interlocks.inter, claimBlockers, State.interlocks, Interlocks.empty] using h
  have claims := claims_put framed.row mem isOpen (.claimed b)
  have own : (s.grantClaim b sl).boom b = _ := (boom_modBoom _ b b _).trans (if_pos rfl)
  have other (c : Boom) (hc : c ≠ b) : (s.grantClaim b sl).boom c = s.boom c := (boom_modBoom _ b c _).trans (if_neg hc)
  have row : (s.grantClaim b sl).rowMap = s.rowMap.mapSlots fun x => if x.number = sl.number then { x with state := .claimed b } else x :=
    rowMap_modBoom ..
  have monitor : (s.grantClaim b sl).monitor = s.monitor := monitor_modBoom ..
  refine State.Admitted.kept (b := b) ⟨steady_of_backdrop (backdrop_modBoom ..) fun c => ?_, congrArg Arbiter.demands (arbiter_modBoom ..),
    ?_, operating, by simp [idle, BoomState.isStage], by rw [own]; rfl, by rw [own]; rfl, ?_, fun c hc => ⟨by rw [other c hc], ?_⟩,
    fun h => ?_, by rw [row]; rfl⟩ hl
  · by_cases hc : c = b
    · subst hc; rw [own]; cases c <;> rfl
    · rw [other c hc]
  · simp only [State.interlocks, monitor, row]; rfl
  · rw [own, row]
    refine ⟨rfl, ?_, .inl rfl, ?_⟩
    · simp [BoomUnit.view, Controller.enterWait]
    · refine ⟨fun h => absurd ((claims b).2 (.inl rfl)) h, fun h => ?_⟩
      simp [BoomUnit.view, Controller.enterWait] at h
  · rw [row]
    exact (claims c).trans ⟨fun h => h.resolve_left (by simpa using Ne.symm hc), .inr⟩
  · rw [row]
    exact lawful_mapSlots h (fun x => by split <;> rfl) fun ht => by rw [noTram] at ht; cases ht

/-! ### What rearranges the row (R122, R127, R128) -/

/-- An act that changes the row alone, and no claim. -/
structure State.Rerowed (s t : State) : Prop where
  steady : s.steady t
  demands : t.arbiter.demands = s.arbiter.demands
  locks : t.interlocks = s.interlocks
  views : ∀ b, (t.boom b).view = (s.boom b).view
  claims : ∀ b, t.rowMap.claims b ↔ s.rowMap.claims b
  permitted : t.rowMap.tramPermitted = s.rowMap.tramPermitted
  row : s.rowMap.lawful → t.rowMap.lawful

theorem State.Rerowed.kept {s t : State} (h : s.Rerowed t) (hl : s.lawful) : s.Kept t := by
  obtain ⟨framed, staged⟩ := (lawful_iff s).1 hl
  refine ⟨⟨fun c => ?_, h.row framed.row, fun x hx hk => ?_, fun hp => ?_, linksLawful_of_steady h.steady framed.links⟩, fun c => ?_,
    fun hd => ⟨fun c => .continues (s.boom c).view ?_ rfl rfl rfl (by rw [h.demands]), fun x hx => .inl (by rwa [h.demands] at hx),
      fun hf => by rw [h.steady.plan]; exact hf⟩⟩
  · have := framed.based c
    rw [h.views]
    exact ⟨this.run, this.hole, this.peak, by rw [h.claims]; exact this.claim⟩
  · rw [h.demands] at hx
    rw [h.permitted]
    exact framed.tram x hx hk
  · rw [h.steady.phase] at hp
    obtain ⟨empty, ports, idle⟩ := framed.quiet hp
    exact ⟨h.demands.trans empty, fun p => h.steady.ports p (ports p), fun b => by
      rw [← view_state, h.views]; exact idle b⟩
  · rw [h.views, h.locks]; exact staged c
  · rw [h.views, h.demands, handed_self]

/-- A row put in the place of another, and what is raised for it. -/
theorem rerowed_of {s t : State} (hb : t.backdrop = s.backdrop) (ha : t.arbiter = s.arbiter) (hm : t.monitor = s.monitor)
    (hu : ∀ b, t.boom b = s.boom b) (claims : ∀ b, t.rowMap.claims b ↔ s.rowMap.claims b)
    (permitted : t.rowMap.tramPermitted = s.rowMap.tramPermitted) (support : t.rowMap.supportSet = s.rowMap.supportSet)
    (row : s.rowMap.lawful → t.rowMap.lawful) : s.Rerowed t where
  steady := steady_of_backdrop hb fun c => by rw [hu]
  demands := by rw [ha]
  locks := by simp only [State.interlocks, hm, permitted, support]
  views c := by rw [hu]
  claims := claims
  permitted := permitted
  row := row

theorem kept_waive {s : State} (hl : s.lawful) {n : Nat} {sl : Slot} (found : s.rowMap.slot n = some sl) (isOpen : sl.state = .isOpen) :
    s.Kept ({ s with rowMap := s.rowMap.mapSlots fun x => if x.number = n then { x with state := .waived } else x } :
      State).raiseReady := by
  obtain ⟨framed, -⟩ := (lawful_iff s).1 hl
  obtain ⟨mem, rfl⟩ := slot_found found
  have claims (b : Boom) := (claims_put framed.row mem isOpen .waived b).trans (or_iff_right (by simp))
  refine State.Rerowed.kept (rerowed_of (by rw [backdrop_raiseReady]; rfl) (by simp) (by simp) (fun b => by simp)
    (fun b => by rw [rowMap_raiseReady]; exact claims b) (by simp [RowMap.mapSlots]) (by simp [RowMap.mapSlots]) fun h => ?_) hl
  rw [rowMap_raiseReady]
  exact lawful_mapSlots h (fun x => by split <;> rfl) fun ht b hb => h.tram ht b ((claims b).1 hb)

theorem kept_clearOverflow {s : State} (hl : s.lawful) :
    s.Kept ({ s with rowMap := { s.rowMap with overflow := false } } : State).raiseReady := by
  refine State.Rerowed.kept (rerowed_of (by rw [backdrop_raiseReady]; rfl) (by simp) (by simp) (fun b => by simp)
    (fun b => by rw [rowMap_raiseReady]; exact Iff.rfl) (by simp) (by simp) fun h => ?_) hl
  rw [rowMap_raiseReady]
  exact ⟨h.planned, h.most, h.supplementary, h.pending, h.tram⟩

/-! ### A plan (R121, R122) -/

theorem length_openSlots (k : Nat) (plan : List PlanSlot) : (openSlots k plan).length = plan.length := by
  induction plan generalizing k with
  | nil => rfl
  | cons p ps ih => simp [openSlots, ih]

theorem number_openSlots (k : Nat) (plan : List PlanSlot) : (openSlots k plan).map Slot.number = (List.range plan.length).map (k + ·) := by
  induction plan generalizing k with
  | nil => rfl
  | cons p ps ih =>
    rw [openSlots, List.map_cons, ih, List.length_cons, List.range_succ_eq_map, List.map_cons, List.map_map]
    simp [Function.comp_def, Nat.add_comm, Nat.add_left_comm]

theorem state_openSlots {k : Nat} {plan : List PlanSlot} {sl : Slot} (h : sl ∈ openSlots k plan) : sl.state = .isOpen := by
  induction plan generalizing k with
  | nil => simp [openSlots] at h
  | cons p ps ih =>
    rw [openSlots, List.mem_cons] at h
    rcases h with rfl | h
    · rfl
    · exact ih h

theorem length_clampPlan (plan : List PlanSlot) : (clampPlan plan).length = plan.length := List.length_map _

/-- A plan in order holds at most eight slots, one for each place across the row (R121). -/
theorem length_of_planUsable {count : Nat} {plan : List PlanSlot} (h : planUsable count plan = true) : plan.length ≤ 8 := by
  simp only [planUsable, Bool.and_eq_true, decide_eq_true_eq, List.all_eq_true] at h
  obtain ⟨⟨-, places⟩, nodup⟩ := h
  have sub : plan.map PlanSlot.position ⊆ List.range 8 := fun x hx => by
    obtain ⟨p, hp, rfl⟩ := List.mem_map.1 hx
    exact List.mem_range.2 (Nat.lt_succ_of_le (places p hp))
  simpa using (nodup.subperm sub).length_le

/-- A row of OPEN planned slots alone meets the laws of the row. -/
theorem lawful_opened {m : RowMap} {plan : List PlanSlot} (planned : m.planned = openSlots 0 plan) (few : plan.length ≤ 8)
    (none' : m.supplementary = []) (pending : ∀ plan, m.pendingPlan = some plan → plan.length ≤ 8) :
    m.lawful ∧ ∀ b, ¬ m.claims b := by
  have claims (b : Boom) : ¬ m.claims b := by
    rintro ⟨sl, hsl, h⟩
    rw [RowMap.slots, planned, none', List.append_nil] at hsl
    rw [state_openSlots hsl] at h
    cases h
  refine ⟨⟨?_, ?_, by simp [none'], pending, fun _ => claims⟩, claims⟩
  · rw [planned, number_openSlots, length_openSlots]; simp
  · rw [planned, length_openSlots]; exact few

theorem kept_placePlan {s : State} (hl : s.lawful) {plan : List PlanSlot} (few : plan.length ≤ 8) : s.Kept (s.placePlan plan) := by
  unfold State.placePlan
  split
  · rename_i ht
    simp only [RowMap.untouched, Bool.and_eq_true, List.all_eq_true, beq_iff_eq, List.isEmpty_iff] at ht
    have before (b : Boom) : ¬ s.rowMap.claims b := by
      rintro ⟨sl, hsl, h⟩
      rw [RowMap.slots, ht.2, List.append_nil] at hsl
      rw [ht.1 sl hsl] at h
      cases h
    obtain ⟨lawful, claims⟩ := lawful_opened (m := { s.rowMap with planned := openSlots 0 plan, pendingPlan := none }) rfl few ht.2
      (fun _ h => by cases h)
    refine State.Rerowed.kept (rerowed_of (by rw [backdrop_raiseBoth]; rfl) (by simp) (by simp) (fun b => by simp)
      (fun b => by rw [rowMap_raiseBoth]; exact iff_of_false (claims b) (before b)) (by simp) (by simp) fun _ => ?_) hl
    rw [rowMap_raiseBoth]
    exact lawful
  · refine State.Rerowed.kept (rerowed_of rfl rfl rfl (fun b => by cases b <;> rfl) (fun b => .rfl) rfl rfl fun h => ?_) hl
    exact ⟨h.planned, h.most, h.supplementary, fun p hp => by cases hp; exact few, h.tram⟩

/-! ### The machine's demands (R108, R109) -/

theorem kept_askFlow {s : State} (hl : s.lawful) (operating : s.phase = .operating) {k : DemandKind}
    (permitted : k = .tram → s.rowMap.tramPermitted = true) : s.Kept (s.arrive .machine k) := by
  refine State.Regranted.kept ⟨steady_of_backdrop (by simp) fun c => line_of_ungranted (ungranted_arrive _ _ _ c), by simp,
    interlocks_of (by simp) (by simp), view_arrive s .machine k, fun b => ?_, fun x hx => ?_⟩ hl
  · rw [keysOf_arrive, if_neg (boom_port_ne_machine b).symm, List.append_nil]
  · rw [keysOf_arrive, if_pos rfl, List.mem_append, List.mem_singleton] at hx
    rcases hx with hx | rfl
    · exact .inl hx
    · exact .inr ⟨rfl, operating, permitted⟩

theorem regranted_departMachine (s : State) (k : DemandKind) : s.Regranted (s.depart fun d => d.owner == .machine && d.kind == k) := by
  refine ⟨steady_of_backdrop (by simp) fun c => line_of_ungranted (ungranted_depart _ _ c), by simp, interlocks_of (by simp) (by simp),
    view_depart s _, fun b => ?_, fun x hx => ?_⟩
  · rw [keysOf_depart]
    exact keysOf_filter_other fun d _ ho => by simp [ho, boom_port_ne_machine b]
  · rw [keysOf_depart] at hx
    exact .inl (keysOf_filter_subset _ _ hx)

end Sys2Proof.Machine

/-! ## A changed interlock set (O8) -/
namespace Sys2Proof.Machine

/-! ### What a change of the set asks of a boom -/

/-- The courses of a boom whose act begins no stage. -/
inductive State.eases (s t : State) (b : Boom) : Prop
  | continues (view : (t.boom b).view = (s.boom b).view.handed s.arbiter.demands t.arbiter.demands b)
      (keys : keysOf t.arbiter.demands b.port = keysOf s.arbiter.demands b.port)
  | rests (keys : keysOf t.arbiter.demands b.port = []) (wanted : (t.boom b).ctl.wanted = [])

/-- An act that keeps the laws and begins no stage. -/
structure State.Eased (s t : State) : Prop where
  framed : t.framed
  staged : t.stagesLawful
  eases : ∀ b, s.eases t b
  machine : keysOf t.arbiter.demands .machine = keysOf s.arbiter.demands .machine
  plan : t.params.plan = s.params.plan

/-- What goes before an act that begins no stage: the list and what the courses look at stay, whatever the plan becomes. -/
structure State.Aligned (s u : State) : Prop where
  demands : u.arbiter.demands = s.arbiter.demands
  states : ∀ b, (u.boom b).ctl.state = (s.boom b).ctl.state
  runs : ∀ b, (u.boom b).ctl.run = (s.boom b).ctl.run
  marks : ∀ b, (u.boom b).ctl.firstRun = (s.boom b).ctl.firstRun
  plan : (∀ k, 0 < (flowOf s.params.plan k).floor) → ∀ k, 0 < (flowOf u.params.plan k).floor

theorem State.Eased.after {s u t : State} (h : s.Aligned u) (k : u.Eased t) : s.Kept t := by
  refine ⟨k.framed, k.staged, fun _ => ⟨fun b => ?_, fun x hx => .inl (by rwa [k.machine, h.demands] at hx), fun hf => by
    rw [k.plan]; exact h.plan hf⟩⟩
  cases k.eases b with
  | continues view keys =>
    exact .continues _ (by rw [← h.demands]; exact view) (h.states b) (h.runs b) (h.marks b)
      (keys.trans (by rw [h.demands]))
  | rests keys wanted => exact .rests keys wanted

theorem aligned_of_views {s u : State} (ha : u.arbiter.demands = s.arbiter.demands) (hv : ∀ b, (u.boom b).view = (s.boom b).view)
    (hp : (∀ k, 0 < (flowOf s.params.plan k).floor) → ∀ k, 0 < (flowOf u.params.plan k).floor) : s.Aligned u :=
  ⟨ha, fun b => (congrArg BoomView.state (hv b) :), fun b => (congrArg BoomView.run (hv b) :),
    fun b => (congrArg BoomView.firstRun (hv b) :), hp⟩

theorem State.Aligned.refl (s : State) : s.Aligned s := aligned_of_views rfl (fun _ => rfl) id

/-! ### Suspension (R97, R98) -/

/-- A boom under an onset of interlocks. -/
def BoomView.suspended (v : BoomView) (i : Interlocks) : BoomView :=
  if i.inter (suspenders v.state) = Interlocks.empty then v
  else { v with run := some .suspended, stopLatch := if v.run = some .running then true else v.stopLatch }

theorem view_suspendStage_same (s : State) (b : Boom) (i : Interlocks) :
    ((s.suspendStage b i).boom b).view = (s.boom b).view.suspended i := by
  have state : (s.boom b).view.state = (s.boom b).ctl.state := rfl
  unfold State.suspendStage BoomView.suspended
  simp only [state]
  by_cases hi : i.inter (suspenders (s.boom b).ctl.state) = Interlocks.empty
  · simp [hi]
  · by_cases hr : (s.boom b).ctl.run = some .running <;> simp [hi, hr, BoomUnit.view]

/-- Both booms under an onset. -/
theorem view_suspend (s : State) (i : Interlocks) (c : Boom) :
    (((s.suspendStage .left i).suspendStage .right i).boom c).view = (s.boom c).view.suspended i := by
  cases c
  · rw [boom_suspendStage_other _ (by decide : Boom.left ≠ .right), view_suspendStage_same]
  · rw [view_suspendStage_same, boom_suspendStage_other s (by decide : Boom.right ≠ .left)]

theorem line_suspendStage (s : State) (b c : Boom) (i : Interlocks) : ((s.suspendStage b i).boom c).line = (s.boom c).line := by
  by_cases h : c = b
  · subst h
    unfold State.suspendStage
    simp only []
    (repeat' split) <;> simp [BoomUnit.line]
  · rw [boom_suspendStage_other s h]

/-- Only a stage in progress has interlocks that suspend it. -/
theorem stage_of_suspenders {i : Interlocks} {st : BoomState} (h : i.inter (suspenders st) ≠ Interlocks.empty) : st.isStage = true := by
  by_contra hn
  refine h ?_
  have wait : suspenders st = Interlocks.empty := by
    cases st <;> first | rfl | exact absurd rfl hn
  simp [wait, Interlocks.inter, Interlocks.empty]

theorem suspended_of_wait {v : BoomView} (h : v.state.isStage = false) (i : Interlocks) : v.suspended i = v := by
  unfold BoomView.suspended
  split
  · rfl
  · rename_i hi
    rw [stage_of_suspenders hi] at h
    cases h

theorem state_suspended (v : BoomView) (i : Interlocks) : (v.suspended i).state = v.state := by
  unfold BoomView.suspended; split <;> rfl

theorem based_suspended {v : BoomView} {c : Prop} (h : v.based c) (i : Interlocks) : (v.suspended i).based c := by
  unfold BoomView.suspended
  split
  · exact h
  · rename_i hi
    exact ⟨(stage_of_suspenders hi).symm, h.hole, h.peak, h.claim⟩

theorem inter_empty_of_onset {old new x : Interlocks} (before : old.inter x = Interlocks.empty)
    (onset : (new.minus old).inter x = Interlocks.empty) : new.inter x = Interlocks.empty := by
  have each {a b y : Bool} (h : (b && y) = false) (k : (a && !b && y) = false) : (a && y) = false := by
    revert h k; cases a <;> cases b <;> simp
  simp only [Interlocks.inter, Interlocks.minus, Interlocks.empty, Interlocks.mk.injEq] at before onset ⊢
  obtain ⟨g, p, o, s, d, l, f, w, t⟩ := before
  obtain ⟨g', p', o', s', d', l', f', w', t'⟩ := onset
  exact ⟨each g g', each p p', each o o', each s s', each d d', each l l', each f f', each w w', each t t'⟩

/-- A boom that meets the laws of the old set meets those of the new one behind the suspension. -/
theorem staged_suspended {v : BoomView} {old new : Interlocks} (h : v.staged old) : (v.suspended (new.minus old)).staged new := by
  unfold BoomView.suspended
  split
  · rename_i hi
    exact ⟨h.link, fun hst hr => inter_empty_of_onset (h.free hst hr) hi, h.runs⟩
  · exact ⟨h.link, fun _ hr => absurd rfl hr, fun hr => by cases hr⟩

/-! ### The arbiter's part (R105, R107) -/

theorem view_refreshFlow (s : State) (b : Boom) :
    (s.refreshFlow.boom b).view = (s.boom b).view.handed s.arbiter.demands s.refreshFlow.arbiter.demands b := by
  unfold State.refreshFlow
  simp only []
  split
  · rw [handed_self]
  · rw [view_reallocate, boom_arbiter]

theorem keysOf_refreshFlow (s : State) (p : Port) :
    keysOf s.refreshFlow.arbiter.demands p = keysOf (s.arbiter.demands.filter fun d => !s.suspendedOwner d) p := by
  unfold State.refreshFlow
  simp only []
  split
  · rename_i h; rw [h.1]
  · simp

theorem suspendedOwner_boom (s : State) {d : Demand} {b : Boom} (h : d.owner = b.port) :
    s.suspendedOwner d = ((s.boom b).ctl.run == some .suspended) := by
  cases b <;> simp [State.suspendedOwner, h, Boom.port, State.boom]

theorem keysOf_refreshFlow_suspended {s : State} {b : Boom} (h : (s.boom b).ctl.run = some .suspended) :
    keysOf s.refreshFlow.arbiter.demands b.port = [] := by
  rw [keysOf_refreshFlow]
  exact keysOf_filter_own fun d _ ho => by simp [suspendedOwner_boom s ho, h]

theorem keysOf_refreshFlow_kept {s : State} {b : Boom} (h : (s.boom b).ctl.run ≠ some .suspended) :
    keysOf s.refreshFlow.arbiter.demands b.port = keysOf s.arbiter.demands b.port := by
  rw [keysOf_refreshFlow]
  exact keysOf_filter_other fun d _ ho => by simp [suspendedOwner_boom s ho, beq_false_of_ne h]

theorem keysOf_refreshFlow_machine (s : State) : keysOf s.refreshFlow.arbiter.demands .machine = keysOf s.arbiter.demands .machine := by
  rw [keysOf_refreshFlow]
  exact keysOf_filter_other fun d _ ho => by simp [State.suspendedOwner, ho]

/-- An arbiter brought up to date, the booms suspended or not before it. -/
theorem eased_refresh {s u : State} (steady : s.steady u) (demands : u.arbiter.demands = s.arbiter.demands) (row : u.rowMap = s.rowMap)
    (framed : s.framed) (i : Interlocks) (views : ∀ b, (u.boom b).view = (s.boom b).view.suspended i)
    (staged : ∀ b, (u.boom b).view.staged u.interlocks) : s.Eased u.refreshFlow := by
  have steady' : u.steady u.refreshFlow := steady_of_backdrop (by simp) fun c => line_of_ungranted (ungranted_refreshFlow u c)
  have locks : u.refreshFlow.interlocks = u.interlocks := interlocks_of (by simp) (by simp)
  have view (b : Boom) := view_refreshFlow u b
  have machine : keysOf u.refreshFlow.arbiter.demands .machine = keysOf s.arbiter.demands .machine := by
    rw [keysOf_refreshFlow_machine, demands]
  have state (b : Boom) : (u.refreshFlow.boom b).ctl.state = (s.boom b).ctl.state := by
    rw [← view_state, view, (handed_keeps _ _ _ b).1, views, state_suspended, view_state]
  refine ⟨⟨fun b => ?_, ?_, fun x hx => ?_, fun hp => ?_, linksLawful_of_steady (steady.trans steady') framed.links⟩, fun b => ?_,
      fun b => ?_,
    machine, (steady.trans steady').plan⟩
  · rw [view, views, rowMap_refreshFlow, row]
    exact based_handed (based_suspended (framed.based b) i) _ _ b
  · rw [rowMap_refreshFlow, row]; exact framed.row
  · rw [machine] at hx
    rw [rowMap_refreshFlow, row]
    exact framed.tram x hx
  · rw [(steady.trans steady').phase] at hp
    obtain ⟨empty, ports, idle⟩ := framed.quiet hp
    refine ⟨no_demands (no_keys (fun b => ?_) ?_), fun p => (steady.trans steady').ports p (ports p), fun b => (state b).trans (idle b)⟩
    · rw [keysOf_refreshFlow]
      refine List.eq_nil_iff_forall_not_mem.2 fun x hx => ?_
      have := keysOf_filter_subset _ _ hx
      rw [demands, empty] at this
      cases this
    · rw [machine, empty]; rfl
  · rw [view, locks]; exact staged_handed (staged b) _ _ b
  · by_cases hr : (u.boom b).ctl.run = some .suspended
    · refine .rests (keysOf_refreshFlow_suspended hr) ?_
      rw [wanted_view, view, wanted_handed, BoomView.wanted, if_neg]
      exact fun h => h.2 hr
    · refine .continues ?_ (by rw [keysOf_refreshFlow_kept hr, demands])
      have same : (u.boom b).view = (s.boom b).view := by
        have := views b
        rw [this]
        unfold BoomView.suspended at this ⊢
        split at this
        · rename_i hi; rw [if_pos hi]
        · exact absurd (congrArg BoomView.run this) hr
      rw [view, same, demands]

/-! ### The supply lost (R98) -/

theorem handed_of_rest {v : BoomView} (h : v.run = none) (old new : List Demand) (b : Boom) : v.handed old new b = v := by
  unfold BoomView.handed
  split
  · cases boomDemand new b with
    | none => rfl
    | some d => simp [BoomView.applied, h]
  · rfl

/-- A boom in a wait state has no run condition. -/
theorem run_of_wait {v : BoomView} {c : Prop} (h : v.based c) (wait : v.state.isStage = false) : v.run = none := by
  rw [← Option.isNone_iff_eq_none, ← Option.isSome_eq_false_iff, h.run, wait]

/-- What an act of another boom leaves of a boom: its stage and its entry, and all of it in a wait state. -/
structure State.LeavesStanding (s t : State) (b : Boom) : Prop where
  state : (t.boom b).view.state = (s.boom b).view.state
  keys : keysOf t.arbiter.demands b.port = keysOf s.arbiter.demands b.port
  wait : (s.boom b).view.state.isStage = false → (t.boom b).view = (s.boom b).view

theorem State.LeavesStanding.of_handed {s t : State} {b : Boom} (framed : s.framed)
    (view : (t.boom b).view = (s.boom b).view.handed s.arbiter.demands t.arbiter.demands b)
    (keys : keysOf t.arbiter.demands b.port = keysOf s.arbiter.demands b.port) : s.LeavesStanding t b :=
  ⟨by rw [view, (handed_keeps _ _ _ b).1], keys, fun wait => by rw [view, handed_of_rest (run_of_wait (framed.based b) wait)]⟩

/-- One boom's stage ended by a lost supply, the other left standing. -/
structure State.SupplyEnded (s t : State) (b : Boom) : Prop where
  steady : s.steady t
  framed : t.framed
  staged : t.stagesLawful
  locks : t.interlocks = s.interlocks
  others : ∀ c, c ≠ b → s.LeavesStanding t c
  machine : keysOf t.arbiter.demands .machine = keysOf s.arbiter.demands .machine
  ended : (s.boom b).view.state.isStage = true → (t.boom b).view.state.isStage = false ∧ keysOf t.arbiter.demands b.port = []
  stood : (s.boom b).view.state.isStage = false → s.LeavesStanding t b

theorem supplyEnded {s : State} (framed : s.framed) (staged : s.stagesLawful) (b : Boom) (st : BoomState × Option RunCondition) :
    s.SupplyEnded (s.supplyEnd b st) b := by
  unfold State.supplyEnd
  split
  · rename_i hst
    have rested := rested_endStage framed hst (e := .fault .supply) (by simp) none st
    exact ⟨rested.steady, rested.framed framed, rested.staged fun c _ => staged c, rested.locks,
      fun c hc => .of_handed framed (rested.others c hc) (rested.keys _ (port_ne hc)), rested.keys _ (boom_port_ne_machine b).symm,
      fun _ => ⟨rested.stage, keys_endStage ..⟩, fun wait => absurd hst (by rw [← view_state, wait]; simp)⟩
  · rename_i hst
    have stands (c : Boom) : s.LeavesStanding s c := ⟨rfl, rfl, fun _ => rfl⟩
    exact ⟨.refl s, framed, staged, rfl, fun c _ => stands c, rfl, fun h => absurd h hst, fun _ => stands b⟩

theorem State.LeavesStanding.trans {s t u : State} {b : Boom} (h : s.LeavesStanding t b) (k : t.LeavesStanding u b) :
    s.LeavesStanding u b :=
  ⟨k.state.trans h.state, k.keys.trans h.keys, fun wait => (k.wait (by rw [h.state]; exact wait)).trans (h.wait wait)⟩

theorem rests_of_wait {s t : State} {b : Boom} (stage : (t.boom b).view.state.isStage = false)
    (keys : keysOf t.arbiter.demands b.port = []) :
    s.eases t b := .rests keys (by rw [wanted_view, BoomView.wanted, stage]; simp)

/-- Every stage in progress ended by the lost supply. -/
theorem eased_supplyEnds {s u : State} (h : s.Eased u) (stands : ∀ b, (s.boom b).view.state.isStage = false → s.LeavesStanding u b)
    (states : ∀ b, (u.boom b).view.state = (s.boom b).view.state) (x y : BoomState × Option RunCondition) :
    s.Eased ((u.supplyEnd .left x).supplyEnd .right y) := by
  have first := supplyEnded h.framed h.staged .left x
  have second := supplyEnded first.framed first.staged .right y
  generalize (u.supplyEnd .left x).supplyEnd .right y = w at second ⊢
  generalize u.supplyEnd .left x = v at first second
  have right := first.others .right (by decide)
  have left := second.others .left (by decide)
  refine ⟨second.framed, second.staged, fun b => ?_, (second.machine.trans first.machine).trans h.machine,
    (second.steady.plan.trans first.steady.plan).trans h.plan⟩
  cases hst : (s.boom b).view.state.isStage with
  | true =>
    have hu : (u.boom b).view.state.isStage = true := by rw [states]; exact hst
    cases b with
    | left =>
      obtain ⟨stage, keys⟩ := first.ended hu
      exact rests_of_wait (by rw [left.state]; exact stage) (left.keys.trans keys)
    | right =>
      obtain ⟨stage, keys⟩ := second.ended (by rw [right.state]; exact hu)
      exact rests_of_wait stage keys
  | false =>
    have hu : (u.boom b).view.state.isStage = false := by rw [states]; exact hst
    have all : s.LeavesStanding w b := by
      cases b with
      | left => exact ((stands _ hst).trans (first.stood hu)).trans left
      | right => exact ((stands _ hst).trans right).trans (second.stood (by rw [right.state]; exact hu))
    exact .continues (by
      rw [all.wait hst, handed_of_rest]
      rw [← all.wait hst]
      exact run_of_wait (second.framed.based b) (by rw [all.state]; exact hst)) all.keys

/-! ### The announcement (R149) -/

theorem eased_self {s : State} (framed : s.framed) (staged : s.stagesLawful) : s.Eased s :=
  ⟨framed, staged, fun _ => .continues (handed_self _ _ _).symm rfl, rfl, rfl⟩

theorem State.Eased.before {s t u : State} (h : s.Eased t) (k : t.Still u) : s.Eased u := by
  refine ⟨k.near.framed h.framed, staged_still k h.staged, fun b => ?_, by rw [k.demands]; exact h.machine, k.steady.plan.trans h.plan⟩
  cases h.eases b with
  | continues view keys => exact .continues (by rw [k.views, k.demands]; exact view) (by rw [k.demands]; exact keys)
  | rests keys wanted => exact .rests (by rw [k.demands]; exact keys) (by rw [wanted_view, k.views]; exact wanted)

theorem still_raiseInterlock (s : State) (old new : Interlocks) : s.Still (s.raiseInterlock old new) :=
  still_of_booms (by simp) (by simp) (by simp) (by simp) fun c => by simp

/-- The suspensions and the arbiter's part of an announcement. -/
theorem eased_suspends {s : State} {old : Interlocks} (framed : s.framed) (staged : ∀ b, (s.boom b).view.staged old) :
    s.Eased (((s.suspendStage .left (s.interlocks.minus old)).suspendStage .right (s.interlocks.minus old)).refreshFlow) := by
  refine eased_refresh (i := s.interlocks.minus old) (steady_of_backdrop (by simp) fun c => by simp [line_suspendStage]) (by simp)
      (by simp) framed
    (view_suspend s _) fun b => ?_
  have locks : ((s.suspendStage .left (s.interlocks.minus old)).suspendStage .right (s.interlocks.minus old)).interlocks = s.interlocks :=
    interlocks_of (by simp) (by simp)
  rw [view_suspend, locks]
  exact staged_suspended (staged b)

theorem eased_announce {s : State} {old : Interlocks} (framed : s.framed) (staged : ∀ b, (s.boom b).view.staged old) :
    s.Eased (s.announce old) := by
  unfold State.announce
  simp only []
  split
  · rename_i h
    exact eased_self framed fun b => h ▸ staged b
  · have suspends := eased_suspends framed staged
    have states (b : Boom) : ((((s.suspendStage .left (s.interlocks.minus old)).suspendStage .right
        (s.interlocks.minus old)).refreshFlow).boom b).view.state = (s.boom b).view.state := by
      rw [view_refreshFlow, (handed_keeps _ _ _ b).1, view_suspend, state_suspended]
    split
    · refine (eased_supplyEnds suspends (fun b wait => ?_) states _ _).before (still_raiseInterlock _ _ _)
      have same := suspended_of_wait wait (s.interlocks.minus old)
      have notSuspended : (((s.suspendStage .left (s.interlocks.minus old)).suspendStage .right
          (s.interlocks.minus old)).boom b).ctl.run ≠ some .suspended := fun hr => by
        have := congrArg BoomView.run (view_suspend s (s.interlocks.minus old) b)
        rw [same, run_of_wait (framed.based b) wait] at this
        exact absurd (hr.symm.trans this) (by simp)
      refine ⟨states b, by rw [keysOf_refreshFlow_kept notSuspended]; simp, fun _ => ?_⟩
      rw [view_refreshFlow, view_suspend, same, handed_of_rest (run_of_wait (framed.based b) wait)]
    · exact suspends.before (still_raiseInterlock _ _ _)

end Sys2Proof.Machine

/-! ## The acts that change the interlock set (O8) -/
namespace Sys2Proof.Machine

/-! ### What changes the set -/

/-- An act that changes the interlock set or the parameters, and no boom, no entry and no claim. -/
structure State.Beside (s u : State) : Prop where
  phase : u.phase = s.phase
  straps : u.straps = s.straps
  ports : ∀ p, (s.port p).sealed → (u.port p).sealed
  lines : ∀ b, (s.boom b).LineKept (u.boom b)
  demands : u.arbiter.demands = s.arbiter.demands
  claims : ∀ b, u.rowMap.claims b ↔ s.rowMap.claims b
  permitted : u.rowMap.tramPermitted = s.rowMap.tramPermitted
  row : s.rowMap.lawful → u.rowMap.lawful
  views : ∀ b, (u.boom b).view = (s.boom b).view

theorem linksLawful_of_lines {s u : State} (phase : u.phase = s.phase) (straps : u.straps = s.straps)
    (lines : ∀ b, (s.boom b).LineKept (u.boom b)) (hs : s.linksLawful) : u.linksLawful := by
  intro b
  obtain ⟨running, sent⟩ := hs b
  obtain ⟨run, line⟩ := lines b
  have on : u.enabled b = s.enabled b := congrFun (enabled_congr straps) b
  rw [run, phase, on]
  exact ⟨running, fun hoff => (line hoff).trans (sent hoff)⟩

theorem State.Beside.framed {s u : State} (h : s.Beside u) (hs : s.framed) : u.framed := by
  refine ⟨fun b => ?_, h.row hs.row, fun x hx hk => ?_, fun hp => ?_, linksLawful_of_lines h.phase h.straps h.lines hs.links⟩
  · have := hs.based b
    rw [h.views]
    exact ⟨this.run, this.hole, this.peak, by rw [h.claims]; exact this.claim⟩
  · rw [h.demands] at hx
    rw [h.permitted]
    exact hs.tram x hx hk
  · rw [h.phase] at hp
    obtain ⟨empty, ports, idle⟩ := hs.quiet hp
    exact ⟨h.demands.trans empty, fun p => h.ports p (ports p), fun b => by rw [← view_state, h.views]; exact idle b⟩

theorem State.Still.beside {s u : State} (h : s.Still u) : s.Beside u :=
  ⟨h.steady.phase, h.steady.straps, h.steady.ports, h.steady.lines, h.demands, fun b => by rw [h.row], by rw [h.row],
    fun k => by rw [h.row]; exact k, h.views⟩

theorem State.Beside.trans {s t u : State} (h : s.Beside t) (k : t.Beside u) : s.Beside u :=
  ⟨k.phase.trans h.phase, k.straps.trans h.straps, fun p hp => k.ports p (h.ports p hp), fun b => (h.lines b).trans (k.lines b),
    k.demands.trans h.demands, fun b => (k.claims b).trans (h.claims b), k.permitted.trans h.permitted, fun r => k.row (h.row r),
    fun b => (k.views b).trans (h.views b)⟩

/-- The set announced behind such an act keeps the laws. -/
theorem State.Beside.announced {s u : State} (h : s.Beside u) (hl : s.lawful)
    (plan : (∀ k, 0 < (flowOf s.params.plan k).floor) → ∀ k, 0 < (flowOf u.params.plan k).floor) : s.Kept (u.announce s.interlocks) := by
  obtain ⟨framed, staged⟩ := (lawful_iff s).1 hl
  exact (eased_announce (h.framed framed) fun b => by rw [h.views]; exact staged b).after (aligned_of_views h.demands h.views plan)

theorem beside_of {s u : State} (hb : u.backdrop = s.backdrop) (ha : u.arbiter = s.arbiter) (hu : ∀ b, u.boom b = s.boom b)
    (hr : u.rowMap = s.rowMap) : s.Beside u :=
  have steady := steady_of_backdrop hb fun c => by rw [hu]
  ⟨steady.phase, steady.straps, steady.ports, steady.lines, by rw [ha], fun b => by rw [hr], by rw [hr], fun h => by rw [hr]; exact h,
    fun b => by rw [hu]⟩

theorem kept_declare {s : State} (hl : s.lawful) (isSet : Bool) : s.Kept (s.declare isSet) :=
  State.Beside.announced (u := { s with rowMap := { s.rowMap with supportSet := isSet } })
    ⟨rfl, rfl, fun p h => by cases p <;> exact h, fun b => .of_line (by cases b <;> rfl), rfl, fun b => .rfl, rfl,
      fun h => ⟨h.planned, h.most, h.supplementary, h.pending, h.tram⟩, fun b => by cases b <;> rfl⟩ hl id

theorem kept_convertChannel {s : State} (hl : s.lawful) (k code : Nat) : s.Kept (s.convertChannel k code) :=
  (beside_of (by simp) (by simp) (fun b => by simp) (by simp)).announced hl id

/-- A change of the check unit, of the memory controller or of the logs alone. -/
theorem still_of_core {s t : State} (phase : t.phase = s.phase) (straps : t.straps = s.straps) (params : t.params = s.params)
    (ports : ∀ p, (s.port p).sealed → (t.port p).sealed) (ha : t.arbiter = s.arbiter) (hr : t.rowMap = s.rowMap)
      (hm : t.monitor = s.monitor)
    (hu : ∀ c, t.boom c = s.boom c) : s.Still t :=
  ⟨⟨phase, straps, by rw [params], ports, fun c => .of_line (by rw [hu])⟩, by rw [ha], hr, interlocks_of hm hr, fun c => by rw [hu]⟩

theorem still_check (s : State) (c : SelfCheck) : s.Still { s with check := c } :=
  still_of_core rfl rfl rfl (fun p h => by cases p <;> exact h) rfl rfl rfl fun b => by cases b <;> rfl

theorem kept_stopCheck {s : State} (hl : s.lawful) (result : Nat) (detail : Option Nat) : s.Kept (s.stopCheck result detail) := by
  unfold State.stopCheck
  simp only []
  have stopped := still_check s { s.check with running := false, last := some { result, detail } }
  generalize ({ s with check := { s.check with running := false, last := some { result, detail } } } : State) = v at stopped ⊢
  have reported : v.Still (if result = 3 ∨ result = 4 then (v.raiseMachine .checkDone).logPartFault .machine .checkFail detail
      else v.raiseMachine .checkDone) := by
    split
    · exact still_of_booms (by simp) (by simp) (by simp) (by simp) fun c => by simp
    · exact still_of_booms (by simp) (by simp) (by simp) (by simp) fun c => by simp
  generalize (if result = 3 ∨ result = 4 then _ else _ : State) = w at reported ⊢
  have still := stopped.trans reported
  refine State.Kept.after still.near (State.Beside.announced ?_ (still.lawful hl) id)
  exact beside_of (by simp) (by simp) (fun b => by simp) (by simp)

theorem kept_passStep {s : State} (hl : s.lawful) (code : Nat) : s.Kept (s.passStep code) := by
  unfold State.passStep
  simp only []
  have counted := still_check s
    { s.check with remaining := s.check.remaining - 1, c1 := if s.check.step = 1 then code else s.check.c1, stepTimer := 0 }
  split
  · exact (kept_stopCheck (counted.lawful hl) 0 none).after counted.near
  · exact counted.regranted.kept hl

/-! ### An arbiter that is up to date -/

theorem flowCurrent_iff (s : State) : s.flowCurrent ↔ s.arbiter.qAvail = availableFlow s.params.plan.qPump s.interlocks ∧
    ∀ b, (s.boom b).ctl.run = some .suspended → keysOf s.arbiter.demands b.port = [] := by
  refine and_congr_right fun _ => ⟨fun h b hr => ?_, fun h d hd => ?_⟩
  · rw [keysOf, List.map_eq_nil_iff, List.filter_eq_nil_iff]
    intro d hd ho
    have := h d hd
    rw [suspendedOwner_boom s (by simpa using ho), hr] at this
    simp at this
  · have ofBoom (b : Boom) (ho : d.owner = b.port) : s.suspendedOwner d = false := by
      rw [suspendedOwner_boom s ho]
      by_contra hne
      have empty := h b (by simpa using hne)
      have := mem_keysOf hd
      rw [ho, empty] at this
      cases this
    cases ho : d.owner with
    | left => exact ofBoom .left ho
    | right => exact ofBoom .right ho
    | machine => simp [State.suspendedOwner, ho]

theorem suspended_refreshFlow (s : State) (b : Boom) :
    (s.refreshFlow.boom b).ctl.run = some .suspended ↔ (s.boom b).ctl.run = some .suspended := by
  obtain ⟨-, -, -, -, -, -, suspended⟩ := handed_keeps (s.boom b).view s.arbiter.demands s.refreshFlow.arbiter.demands b
  rw [← view_refreshFlow] at suspended
  exact suspended

theorem flowCurrent_refreshFlow (s : State) : s.refreshFlow.flowCurrent := by
  have locks : s.refreshFlow.interlocks = s.interlocks := interlocks_of (by simp) (by simp)
  have plan : s.refreshFlow.params = s.params := congrArg Backdrop.params (backdrop_refreshFlow s)
  refine (flowCurrent_iff _).2 ⟨by rw [qAvail_refreshFlow, locks, plan], fun b hr => ?_⟩
  exact keysOf_refreshFlow_suspended ((suspended_refreshFlow s b).1 hr)

theorem qAvail_depart (s : State) (sel : Demand → Bool) : (s.depart sel).arbiter.qAvail = s.arbiter.qAvail := by
  unfold State.depart
  simp only []
  split
  · rw [arbiter_reallocate]
  · rfl

theorem flowCurrent_supplyEnd {s : State} (framed : s.framed) (h : s.flowCurrent) (b : Boom) (st : BoomState × Option RunCondition) :
    (s.supplyEnd b st).flowCurrent := by
  unfold State.supplyEnd
  split
  · rename_i hst
    have rested := rested_endStage framed hst (e := .fault .supply) (by simp) none st
    obtain ⟨q, none'⟩ := (flowCurrent_iff s).1 h
    refine (flowCurrent_iff _).2 ⟨?_, fun c hr => ?_⟩
    · rw [arbiter_endStage, rested.locks, rested.steady.plan, State.withdraw, qAvail_depart]
      exact (congrArg Arbiter.qAvail (arbiter_markFault s b .supply)).trans q
    · by_cases hc : c = b
      · subst hc; rw [rested.run] at hr; cases hr
      · rw [rested.keys _ (port_ne hc)]
        refine none' c ?_
        obtain ⟨-, -, -, -, -, -, suspended⟩ :=
          handed_keeps (s.boom c).view s.arbiter.demands (s.endStage b (.fault .supply) none st).arbiter.demands c
        rw [← rested.others c hc] at suspended
        exact suspended.1 hr
  · exact h

/-- The arbiter stands up to date behind an announcement that had something to announce. -/
theorem flowCurrent_announce {s : State} {old : Interlocks} (framed : s.framed) (staged : ∀ b, (s.boom b).view.staged old)
    (changed : old ≠ s.interlocks) : (s.announce old).flowCurrent := by
  have raised (t : State) (ht : t.flowCurrent) : (t.raiseInterlock old s.interlocks).flowCurrent := by
    have still := still_raiseInterlock t old s.interlocks
    obtain ⟨q, none'⟩ := (flowCurrent_iff t).1 ht
    refine (flowCurrent_iff _).2 ⟨?_, fun b hr => ?_⟩
    · rw [arbiter_raiseInterlock, still.locks, still.steady.plan]; exact q
    · rw [still.demands]; exact none' b (by rwa [← still.near.runs b])
  unfold State.announce
  simp only []
  rw [if_neg changed]
  refine raised _ ?_
  have suspends := eased_suspends framed staged
  have current := flowCurrent_refreshFlow ((s.suspendStage .left (s.interlocks.minus old)).suspendStage .right (s.interlocks.minus old))
  split
  · have first := supplyEnded suspends.framed suspends.staged .left (s.stance .left)
    exact flowCurrent_supplyEnd first.framed (flowCurrent_supplyEnd suspends.framed current _ _) _ _
  · exact current

/-- An announcement of a set in which nothing became active, by an arbiter that is up to date. -/
theorem announce_cleared {s : State} {old : Interlocks} (current : s.flowCurrent) (cleared : s.interlocks.minus old = Interlocks.empty) :
    s.announce old = if old = s.interlocks then s else s.raiseInterlock old s.interlocks := by
  have idle (t : State) (b : Boom) : t.suspendStage b Interlocks.empty = t := by
    unfold State.suspendStage
    simp [Interlocks.inter, Interlocks.empty]
  have off : Interlocks.empty.supplyLow = false := rfl
  unfold State.announce
  simp only [cleared, idle, refreshFlow_current s current, off, Bool.false_eq_true, if_false]

end Sys2Proof.Machine

/-! ## Conversions, loads and the row's steps (O8) -/
namespace Sys2Proof.Machine

/-! ### The end of a reference conversion (R143, R144) -/

/-- What the round's count changes of the set. -/
theorem interlocks_countRound (s : State) :
    (s.modMonitor fun m => m.countRound.goToSleep).interlocks = { s.interlocks with monitorWarmup := s.monitor.countRound.warming } := by
  have kept : s.monitor.countRound.goToSleep.channels = s.monitor.channels ∧ s.monitor.countRound.goToSleep.fault = s.monitor.fault := by
    unfold Monitor.countRound Monitor.goToSleep
    split <;> exact ⟨rfl, rfl⟩
  have breach (k : Nat) : s.monitor.countRound.goToSleep.breach k = s.monitor.breach k := by simp only [Monitor.breach, kept.1]
  simp only [State.interlocks, monitor_modMonitor, rowMap_modMonitor, breach, kept.2]
  rfl

theorem cleared_countRound (s : State) :
    (s.modMonitor fun m => m.countRound.goToSleep).interlocks.minus s.interlocks = Interlocks.empty := by
  have warmup : (s.monitor.countRound.warming && !s.monitor.warming) = false := by
    unfold Monitor.countRound
    by_cases h : s.monitor.warming = true <;> simp [h]
  have self (a : Bool) : (a && !a) = false := by cases a <;> rfl
  rw [interlocks_countRound]
  simp only [Interlocks.minus, Interlocks.empty, self]
  rw [show (s.monitor.countRound.warming && !s.interlocks.monitorWarmup) = false from warmup]

/-- Under a set with nothing new a boom keeps its laws. -/
theorem staged_cleared {v : BoomView} {old new : Interlocks} (cleared : new.minus old = Interlocks.empty) (h : v.staged old) :
    v.staged new :=
  ⟨h.link, fun hst hr => inter_empty_of_onset (h.free hst hr) (by rw [cleared]; simp [Interlocks.inter, Interlocks.empty]), h.runs⟩

/-- Behind an act that begins no stage, one that clears interlocks. -/
theorem State.Eased.cleared {s t u : State} (h : s.Eased t) (k : t.Beside u) (plan : u.params.plan = t.params.plan)
    (cleared : u.interlocks.minus t.interlocks = Interlocks.empty) : s.Eased u := by
  refine ⟨k.framed h.framed, fun b => ?_, fun b => ?_, by rw [k.demands]; exact h.machine, plan.trans h.plan⟩
  · rw [k.views]; exact staged_cleared cleared (h.staged b)
  · cases h.eases b with
    | continues view keys => exact .continues (by rw [k.views, k.demands]; exact view) (by rw [k.demands]; exact keys)
    | rests keys wanted => exact .rests (by rw [k.demands]; exact keys) (by rw [wanted_view, k.views]; exact wanted)

theorem flowCurrent_countRound {s : State} (h : s.flowCurrent) : (s.modMonitor fun m => m.countRound.goToSleep).flowCurrent := by
  obtain ⟨q, none'⟩ := (flowCurrent_iff s).1 h
  refine (flowCurrent_iff _).2 ⟨?_, fun b hr => none' b (by simpa using hr)⟩
  rw [interlocks_countRound]
  exact q

theorem kept_convertReference {s : State} (hl : s.lawful) (code : Nat) : s.Kept (s.convertReference code) := by
  obtain ⟨framed, staged⟩ := (lawful_iff s).1 hl
  unfold State.convertReference
  simp only []
  have judged : s.Beside (if (s.modMonitor fun m => m.judgeReference code).monitor.fault && !s.monitor.fault then
      (s.modMonitor fun m => m.judgeReference code).logPartFault .device .monitorFault (some code)
      else s.modMonitor fun m => m.judgeReference code) := by
    split <;> exact beside_of (by simp) (by simp) (fun b => by simp) (by simp)
  have params : (if (s.modMonitor fun m => m.judgeReference code).monitor.fault && !s.monitor.fault then
      (s.modMonitor fun m => m.judgeReference code).logPartFault .device .monitorFault (some code)
      else s.modMonitor fun m => m.judgeReference code).params = s.params := by
    split <;> simp
  generalize (if (s.modMonitor fun m => m.judgeReference code).monitor.fault && !s.monitor.fault then _ else _ : State) = u
    at judged params ⊢
  have plan : (∀ k, 0 < (flowOf s.params.plan k).floor) → ∀ k, 0 < (flowOf u.params.plan k).floor := by rw [params]; exact id
  have stagedU (b : Boom) : (u.boom b).view.staged s.interlocks := by rw [judged.views]; exact staged b
  have counted (w : State) : w.Beside (w.modMonitor fun m => m.countRound.goToSleep) :=
    beside_of (by simp) (by simp) (fun b => by simp) (by simp)
  by_cases same : s.interlocks = u.interlocks
  · have unmoved : u.announce s.interlocks = u := by rw [State.announce, if_pos same]
    rw [unmoved]
    have both := judged.trans (counted u)
    refine State.Eased.after (aligned_of_views both.demands both.views plan) (eased_announce (both.framed framed) fun b => ?_)
    rw [(counted u).views, ← same]
    exact stagedU b
  · have announced := eased_announce (judged.framed framed) stagedU
    have current := flowCurrent_announce (judged.framed framed) stagedU same
    generalize u.announce s.interlocks = w at announced current ⊢
    refine State.Eased.after (aligned_of_views judged.demands judged.views plan) ?_
    have cleared := announced.cleared (counted w) rfl (cleared_countRound w)
    rw [announce_cleared (flowCurrent_countRound current) (cleared_countRound w)]
    split
    · exact cleared
    · exact cleared.before (still_raiseInterlock _ _ _)

theorem kept_convert {s : State} (hl : s.lawful) (code : Nat) : s.Kept (s.convert code) := by
  unfold State.convert
  repeat' split
  · exact kept_convertChannel hl _ _
  · exact kept_convertReference hl _
  · exact kept_refl hl

/-! ### A load (R104, R145, R184) -/

theorem floor_settled (f : Flow) : 0 < f.settled.floor := by
  unfold Flow.settled clamp
  simp only []
  omega

/-- Every floor of a settled table is positive (R104, R184). -/
theorem floors_settled (z : Zone5) (k : DemandKind) : 0 < (flowOf z.settled k).floor := by
  cases k
  case spin | hold | torque | support => simp only [flowOf, Zone5.settled, clamp]; omega
  all_goals exact floor_settled _

theorem beside_params (s : State) (p : Params) : s.Beside { s with params := p } :=
  ⟨rfl, rfl, fun p h => by cases p <;> exact h, fun b => .of_line (by cases b <;> rfl), rfl, fun b => .rfl, rfl, id,
    fun b => by cases b <;> rfl⟩

theorem params_modWear (s : State) (b : Boom) (f : WearTable → WearTable) : (s.modWear b f).params = s.params :=
  congrArg Backdrop.params (backdrop_modWear s b f)

theorem beside_takeZone1 (s : State) (z : Zone1) : s.Beside (s.takeZone1 z) ∧ (s.takeZone1 z).params.plan = s.params.plan := by
  unfold State.takeZone1
  have h := beside_params s { s.params with classifier := z.consts }
  have plan : ({ s with params := { s.params with classifier := z.consts } } : State).params.plan = s.params.plan := rfl
  generalize ({ s with params := { s.params with classifier := z.consts } } : State) = u at h plan ⊢
  rw [params_modWear, params_modWear]
  exact ⟨(h.trans (still_modWear _ _ _).beside).trans (still_modWear _ _ _).beside, plan⟩

theorem beside_takeCalib (s : State) (b : Boom) (c : Calib) :
    s.Beside (s.takeCalib b c) ∧ (s.takeCalib b c).params.plan = s.params.plan := by
  obtain ⟨p, plan, taken⟩ : ∃ p : Params, p.plan = s.params.plan ∧ s.takeCalib b c =
      ({ s with params := p } : State).modBoom b fun u => { u with classifier := { u.classifier with cr := crOf c.kt } } := by
    cases b
    · exact ⟨{ s.params with calibLeft := c }, rfl, rfl⟩
    · exact ⟨{ s.params with calibRight := c }, rfl, rfl⟩
  have h := beside_params s p
  rw [taken]
  refine ⟨h.trans (still_modBoom rfl rfl).beside, ?_⟩
  rw [params_modBoom]
  exact plan

/-- A zone's values taken: at most the plan's floors move, and then to positive ones. -/
theorem beside_takeZone (s : State) (z : Nat) : s.Beside (s.takeZone z) ∧
    ((∀ k, 0 < (flowOf s.params.plan k).floor) → ∀ k, 0 < (flowOf (s.takeZone z).params.plan k).floor) := by
  have kept {u : State} (h : s.Beside u ∧ u.params.plan = s.params.plan) : s.Beside u ∧
      ((∀ k, 0 < (flowOf s.params.plan k).floor) → ∀ k, 0 < (flowOf u.params.plan k).floor) := ⟨h.1, by rw [h.2]; exact id⟩
  unfold State.takeZone
  simp only []
  split
  · exact ⟨beside_params s _, id⟩
  · exact kept (beside_takeZone1 s _)
  · exact kept (beside_takeCalib s _ _)
  · exact kept (beside_takeCalib s _ _)
  · exact ⟨beside_of (by simp) (by simp) (fun b => by simp) (by simp), id⟩
  · exact ⟨beside_params s _, fun _ => floors_settled _⟩
  · exact ⟨(State.Still.refl s).beside, id⟩

theorem kept_applyLoad {s : State} (hl : s.lawful) (z : Nat) : s.Kept (s.applyLoad z) := by
  obtain ⟨framed, staged⟩ := (lawful_iff s).1 hl
  obtain ⟨taken, plan⟩ := beside_takeZone s z
  unfold State.applyLoad
  simp only []
  generalize s.takeZone z = u at taken plan ⊢
  have framedU := taken.framed framed
  have stagedU (b : Boom) : (u.boom b).view.staged s.interlocks := by rw [taken.views]; exact staged b
  refine State.Eased.after (aligned_of_views taken.demands taken.views plan) ?_
  by_cases same : s.interlocks = u.interlocks
  · rw [State.announce, if_pos same]
    refine eased_refresh (i := Interlocks.empty) (.refl u) rfl rfl framedU (fun b => ?_) fun b => same ▸ stagedU b
    rw [BoomView.suspended, if_pos]
    simp [Interlocks.inter, Interlocks.empty]
  · rw [refreshFlow_current _ (flowCurrent_announce framedU stagedU same)]
    exact eased_announce framedU stagedU

/-! ### The row's steps (R130, R132) -/

/-- A row with every slot resolved has no claim. -/
theorem unclaimed_of_ready {m : RowMap} (h : m.ready = true) (b : Boom) : ¬ m.claims b := by
  rintro ⟨sl, hsl, k⟩
  simp only [RowMap.ready, Bool.and_eq_true, List.all_eq_true] at h
  have := h.1 sl hsl
  rw [k] at this
  cases this

/-- Another row in the place of one with the same claims. -/
theorem framed_row {s : State} (framed : s.framed) {m : RowMap} (lawful : m.lawful) (claims : ∀ b, m.claims b ↔ s.rowMap.claims b)
    (tram : ∀ x ∈ keysOf s.arbiter.demands .machine, x.1 = .tram → m.tramPermitted = true) : ({ s with rowMap := m } : State).framed := by
  have boom (b : Boom) : ({ s with rowMap := m } : State).boom b = s.boom b := by cases b <;> rfl
  have port (p : Port) : ({ s with rowMap := m } : State).port p = s.port p := by cases p <;> rfl
  refine ⟨fun b => ?_, lawful, tram, fun hp => ?_, linksLawful_of_lines rfl rfl (fun b => .of_line (by rw [boom])) framed.links⟩
  · have := framed.based b
    rw [boom]
    exact ⟨this.run, this.hole, this.peak, by rw [claims]; exact this.claim⟩
  · obtain ⟨empty, ports, idle⟩ := framed.quiet hp
    exact ⟨empty, fun p => by rw [port]; exact ports p, fun b => by rw [boom]; exact idle b⟩

theorem still_raiseBoth (s : State) (c : BoomCause) : s.Still (s.raiseBoth c) :=
  still_of_booms (by simp) (by simp) (by simp) (by simp) fun b => by simp

theorem kept_rowAdvance {s : State} (hl : s.lawful) (ready : s.rowMap.ready = true) : s.Kept ((s.setTram true).raiseBoth .row) := by
  obtain ⟨framed, staged⟩ := (lawful_iff s).1 hl
  have row := framed.row
  have opened := framed_row framed (m := { s.rowMap with tramPermitted := true })
    ⟨row.planned, row.most, row.supplementary, row.pending, fun _ b => unclaimed_of_ready ready b⟩ (fun b => .rfl) fun _ _ _ => rfl
  have views (b : Boom) : (({ s with rowMap := { s.rowMap with tramPermitted := true } } : State).boom b).view = (s.boom b).view := by
    cases b <;> rfl
  have announced := eased_announce (old := s.interlocks) opened fun b => by rw [views]; exact staged b
  have aligned : s.Aligned { s with rowMap := { s.rowMap with tramPermitted := true } } := aligned_of_views rfl views id
  exact (announced.before (still_raiseBoth _ _)).after aligned

/-- The row that TRAM_DONE opens meets the laws of the row, and holds no claim. -/
theorem lawful_nextRow {m : RowMap} (h : m.lawful) : m.nextRow.lawful ∧ ∀ b, ¬ m.nextRow.claims b := by
  cases hp : m.pendingPlan with
  | some plan =>
    exact lawful_opened (by simp only [RowMap.nextRow, hp]) (h.pending plan hp) rfl (fun _ k => by cases k)
  | none =>
    have planned : m.nextRow.planned = m.planned.map fun sl => { sl with state := .isOpen } := by simp only [RowMap.nextRow, hp]
    have unclaimed (b : Boom) : ¬ m.nextRow.claims b := by
      rintro ⟨sl, hsl, k⟩
      rw [RowMap.slots, planned, show m.nextRow.supplementary = [] from rfl, List.append_nil] at hsl
      obtain ⟨x, -, rfl⟩ := List.mem_map.1 hsl
      cases k
    refine ⟨⟨?_, ?_, rfl, ?_, fun _ => unclaimed⟩, unclaimed⟩
    · rw [planned, List.length_map, map_number fun x => by rfl]; exact h.planned
    · rw [planned, List.length_map]; exact h.most
    · intro p k; cases k

theorem kept_tramDone {s : State} (hl : s.lawful) (permitted : s.rowMap.tramPermitted = true) : s.Kept s.tramDone.state := by
  obtain ⟨framed, -⟩ := (lawful_iff s).1 hl
  unfold State.tramDone
  rw [if_neg (by simp [permitted])]
  split
  · exact kept_refl hl
  · simp only []
    have left := regranted_departMachine s .tram
    have noTram : ∀ x ∈ keysOf (s.depart fun d => d.owner == .machine && d.kind == .tram).arbiter.demands .machine, x.1 ≠ .tram := by
      intro x hx hk
      rw [keysOf_depart] at hx
      obtain ⟨d, hd, ho, kind, -⟩ := exists_of_mem_keysOf hx
      have := (List.mem_filter.1 hd).2
      simp [ho, kind, hk] at this
    generalize (s.depart fun d => d.owner == .machine && d.kind == .tram) = w at left noTram ⊢
    have kept := left.kept hl
    have idle (b : Boom) : (s.boom b).view.state = .idle := framed.idle_of_tram permitted b
    have none' (b : Boom) : (s.boom b).view.run = none := run_of_wait (framed.based b) (by rw [idle]; rfl)
    have views (b : Boom) : (w.boom b).view = (s.boom b).view := by rw [left.views, handed_of_rest (none' b)]
    obtain ⟨row, unclaimed⟩ := lawful_nextRow kept.framed.row
    have opened := framed_row kept.framed (m := { w.rowMap.nextRow with tramPermitted := false })
      ⟨row.planned, row.most, row.supplementary, row.pending, fun h => by cases h⟩
      (fun b => iff_of_false (unclaimed b) (by rw [left.row]; exact framed.row.tram permitted b)) fun x hx hk => absurd hk (noTram x hx)
    have same (b : Boom) : (({ w with rowMap := { w.rowMap.nextRow with tramPermitted := false } } : State).boom b).view =
        (s.boom b).view :=
      (show _ = (w.boom b).view by cases b <;> rfl).trans (views b)
    have announced := eased_announce (old := ({ w with rowMap := w.rowMap.nextRow } : State).interlocks) opened fun b =>
      staged_of_rest (by rw [same, idle]; rfl) (by rw [same, none']; simp) _
    have all := announced.before (still_raiseBoth _ .row)
    refine ⟨all.framed, all.staged, fun _ => ⟨fun b => ?_, fun x hx => ?_, fun hf => ?_⟩⟩
    · cases all.eases b with
      | continues view keys =>
        refine .continues (s.boom b).view ?_ rfl rfl rfl (keys.trans (left.keys b))
        rw [handed_of_rest (none' b)]
        refine view.trans ?_
        rw [same, handed_of_rest (none' b)]
      | rests keys wanted => exact .rests keys wanted
    · exact (left.machine x (all.machine ▸ hx)).imp_right And.left
    · intro k
      refine Nat.lt_of_lt_of_eq (hf k) ?_
      rw [← left.steady.plan, ← all.plan]
      rfl

end Sys2Proof.Machine

/-! ## Resets, the start-up and the opening (O8) -/
namespace Sys2Proof.Machine

/-! ### A part at rest -/

/-- A boom that holds no hole. -/
structure BoomUnit.isIdle (u : BoomUnit) : Prop where
  state : u.view.state = .idle
  run : u.view.run = none
  hole : u.view.hole = none

/-- No demand stands, both booms are IDLE, and the row is in order without a claim. -/
structure State.atRest (s : State) : Prop where
  demands : s.arbiter.demands = []
  idle : ∀ b, (s.boom b).isIdle
  row : s.rowMap.lawful
  unclaimed : ∀ b, ¬ s.rowMap.claims b

/-- A part at rest whose ports are closed and whose links are stopped. -/
structure State.shut (s : State) : Prop where
  rest : s.atRest
  ports : ∀ p, (s.port p).sealed
  links : ∀ b, (s.boom b).line = (false, none)

/-- Every law holds of a part at rest, where its ports and its links stand as its phase asks. -/
theorem State.atRest.kept {s t : State} (h : t.atRest) (ports : t.phase ≠ .operating → ∀ p, (t.port p).sealed) (links : t.linksLawful)
    (plan : (∀ k, 0 < (flowOf s.params.plan k).floor) → ∀ k, 0 < (flowOf t.params.plan k).floor) : s.Kept t := by
  have noKeys {p : Port} {x : DemandKind × Nat} (hx : x ∈ keysOf t.arbiter.demands p) : False := by simp [h.demands] at hx
  refine ⟨⟨fun b => ?_, h.row, fun x hx => (noKeys hx).elim, fun hp => ⟨h.demands, ports hp, fun b => (h.idle b).state⟩, links⟩,
      fun b => ?_,
    fun _ => ⟨fun b => .rests (by rw [h.demands]; rfl) (by rw [wanted_view, BoomView.wanted, (h.idle b).state]; rfl),
      fun x hx => (noKeys hx).elim, plan⟩⟩
  · obtain ⟨state, run, hole⟩ := h.idle b
    exact ⟨by rw [run, state]; rfl, by rw [hole]; exact ⟨fun _ => state, fun _ => rfl⟩, by rw [hole]; exact .inl rfl,
      ⟨fun _ => state, fun _ => h.unclaimed b⟩⟩
  · obtain ⟨state, run, -⟩ := h.idle b
    exact staged_of_rest (by rw [state]; rfl) (by rw [run]; simp) _

theorem State.shut.linksLawful {s : State} (h : s.shut) (hp : s.phase ≠ .operating) : s.linksLawful := fun b => by
  have running : (s.boom b).link.running = false := congrArg Prod.fst (h.links b)
  have sent : (s.boom b).link.sent = none := congrArg Prod.snd (h.links b)
  exact ⟨by rw [running, beq_false_of_ne hp]; rfl, fun _ => sent⟩

theorem State.shut.kept {s t : State} (h : t.shut) (hp : t.phase ≠ .operating)
    (plan : (∀ k, 0 < (flowOf s.params.plan k).floor) → ∀ k, 0 < (flowOf t.params.plan k).floor) : s.Kept t :=
  h.rest.kept (fun _ => h.ports) (h.linksLawful hp) plan

/-- A lawful part outside operation is at rest and shut. -/
theorem State.framed.shut {s : State} (h : s.framed) (hp : s.phase ≠ .operating) : s.shut := by
  obtain ⟨empty, ports, idle⟩ := h.quiet hp
  refine ⟨⟨empty, fun b => ⟨idle b, run_of_wait (h.based b) (by rw [view_state, idle]; rfl), (h.based b).hole.2 (idle b)⟩, h.row,
    fun b => (h.based b).claim.2 (idle b)⟩, ports, fun b => ?_⟩
  obtain ⟨running, sent⟩ := h.links b
  rw [beq_false_of_ne hp, Bool.false_and] at running
  rw [BoomUnit.line, running, sent running]

theorem isIdle_of_view {u v : BoomUnit} (h : v.view = u.view) (hu : u.isIdle) : v.isIdle := ⟨h ▸ hu.state, h ▸ hu.run, h ▸ hu.hole⟩

theorem State.Beside.shut {s u : State} (h : s.Beside u) (hs : s.shut) : u.shut :=
  ⟨⟨h.demands.trans hs.rest.demands, fun b => isIdle_of_view (h.views b) (hs.rest.idle b), h.row hs.rest.row,
      fun b => by rw [h.claims]; exact hs.rest.unclaimed b⟩,
    fun p => h.ports p (hs.ports p), fun b => by
      have off := hs.links b
      obtain ⟨run, line⟩ := h.lines b
      rw [BoomUnit.line, run, line (congrArg Prod.fst off)]
      exact off⟩

/-- What is shut stays so where the straps, the phase and the counters change. -/
theorem State.shut.congr {s t : State} (hs : s.shut) (ha : t.arbiter = s.arbiter) (hr : t.rowMap = s.rowMap)
    (hu : ∀ b, t.boom b = s.boom b) (hp : ∀ p, t.port p = s.port p) : t.shut :=
  ⟨⟨by rw [ha]; exact hs.rest.demands, fun b => by rw [hu]; exact hs.rest.idle b, by rw [hr]; exact hs.rest.row,
    by rw [hr]; exact hs.rest.unclaimed⟩, fun p => by rw [hp]; exact hs.ports p, fun b => by rw [hu]; exact hs.links b⟩

/-! ### The reset columns (section 11.5) -/

theorem sealed_cut (m : MasterPort) : m.cut.sealed := by
  refine ⟨rfl, ⟨_, rfl⟩, ?_⟩
  cases h : m.transfer <;> simp [MasterPort.cut, h]

theorem isIdle_reset {u : BoomUnit} (h : u.ctl = Controller.reset) : u.isIdle := by
  constructor <;> simp only [BoomUnit.view, h] <;> rfl

theorem lawful_rowZero {plan : List PlanSlot} (few : plan.length ≤ 8) :
    (RowMap.rowZero plan).lawful ∧ ∀ b, ¬ (RowMap.rowZero plan).claims b :=
  lawful_opened rfl few rfl fun _ k => by cases k

theorem length_builtInPlan : builtInPlan.length ≤ 8 := by decide

/-- What every reset sets alike shuts the part, where its row has no claim. -/
theorem shut_resetCommon {s : State} (row : s.rowMap.lawful) (unclaimed : ∀ b, ¬ s.rowMap.claims b) : s.resetCommon.shut :=
  ⟨⟨rfl, fun b => by cases b <;> exact isIdle_reset rfl, row, unclaimed⟩, fun p => by cases p <;> exact sealed_cut _,
    fun b => by cases b <;> rfl⟩

theorem shut_powerCycle (s : State) (ph : Phase) : (s.powerCycle ph).shut := by
  obtain ⟨row, unclaimed⟩ := lawful_rowZero length_builtInPlan
  exact ⟨⟨rfl, fun b => by cases b <;> exact isIdle_reset rfl, row, unclaimed⟩,
    fun p => by cases p <;> exact ⟨rfl, ⟨_, rfl⟩, by simp [State.powerCycle, State.reset, State.port, MasterPort.reset]⟩,
    fun b => by cases b <;> rfl⟩

theorem floors_builtIn (k : DemandKind) : 0 < (flowOf Zone5.builtIn k).floor := by cases k <;> decide

theorem kept_powerCycle (s : State) {ph : Phase} (h : ph ≠ .operating) : s.Kept (s.powerCycle ph) :=
  (shut_powerCycle s ph).kept h fun _ => floors_builtIn

theorem shut_resetN (s : State) : s.resetN.shut := by
  obtain ⟨row, unclaimed⟩ := lawful_rowZero length_builtInPlan
  exact ⟨⟨rfl, fun b => by cases b <;> exact isIdle_reset rfl, row, unclaimed⟩, fun p => by cases p <;> exact sealed_cut _,
    fun b => by cases b <;> rfl⟩

theorem kept_resetN (s : State) : s.Kept { s.resetN with resetNLow := true } :=
  State.shut.kept (State.shut.congr (shut_resetN s) rfl rfl (fun b => by cases b <;> rfl) fun p => by cases p <;> rfl)
    (by simp [State.resetN]) id

theorem kept_pinLow {s : State} (hl : s.lawful) : s.Kept { s with resetNLow := true } := by
  refine State.Regranted.kept (State.Still.regranted ?_) hl
  exact still_of_core rfl rfl rfl (fun p h => by cases p <;> exact h) rfl rfl rfl fun b => by cases b <;> rfl

theorem kept_pinHigh {s : State} (hl : s.lawful) :
    s.Kept { s with resetNLow := false, phase := if s.phase = .inReset then .selfTest else s.phase } := by
  by_cases hp : s.phase = .inReset
  · have shut := ((lawful_iff s).1 hl).1.shut (by rw [hp]; simp)
    exact State.shut.kept (State.shut.congr shut rfl rfl (fun b => by cases b <;> rfl) fun p => by cases p <;> rfl) (by simp [hp]) id
  · refine State.Regranted.kept (State.Still.regranted ?_) hl
    exact still_of_core (if_neg hp) rfl rfl (fun p h => by cases p <;> exact h) rfl rfl rfl fun b => by cases b <;> rfl

/-! ### The zone pass (R184) -/

/-- Whatever it changes, an act keeps the floors of the plan positive. -/
def State.planKept (s t : State) : Prop :=
  (∀ k, 0 < (flowOf s.params.plan k).floor) → ∀ k, 0 < (flowOf t.params.plan k).floor

theorem beside_defaultZone (s : State) (z : Nat) : s.Beside (s.defaultZone z) ∧ s.planKept (s.defaultZone z) := by
  have kept {u : State} (h : s.Beside u ∧ u.params.plan = s.params.plan) : s.Beside u ∧ s.planKept u :=
    ⟨h.1, by rw [State.planKept, h.2]; exact id⟩
  unfold State.defaultZone
  split
  · exact ⟨beside_params s _, id⟩
  · exact kept (beside_takeZone1 s _)
  · exact kept (beside_takeCalib s _ _)
  · exact kept (beside_takeCalib s _ _)
  · exact ⟨beside_of (by simp) (by simp) (fun b => by simp) (by simp), id⟩
  · exact ⟨beside_params s _, fun _ => floors_builtIn⟩
  · exact ⟨(State.Still.refl s).beside, id⟩

theorem still_modMem (s : State) (f : MemoryController → MemoryController) : s.Still (s.modMem f) :=
  still_of_core rfl rfl rfl (fun p h => by cases p <;> exact h) rfl rfl rfl fun b => by cases b <;> rfl

theorem still_logPartFault (s : State) (o : FaultSource) (c : FaultCode) (d : Option Nat) : s.Still (s.logPartFault o c d) :=
  still_of_booms (by simp) (by simp) (by simp) (by simp) fun b => by simp

theorem beside_passZone (afterRequest : Bool) (s : State) (z : Nat) :
    s.Beside (s.passZone afterRequest z) ∧ s.planKept (s.passZone afterRequest z) := by
  unfold State.passZone State.markZone
  repeat' split
  · obtain ⟨taken, plan⟩ := beside_takeZone s z
    exact ⟨taken.trans (still_modMem _ _).beside, plan⟩
  · exact ⟨(State.Still.refl s).beside, id⟩
  · obtain ⟨taken, plan⟩ := beside_defaultZone s z
    refine ⟨(taken.trans (still_modMem _ _).beside).trans (still_logPartFault _ _ _ _).beside, fun h k => ?_⟩
    rw [(still_logPartFault _ _ _ _).steady.plan]
    exact plan h k

theorem beside_passZones (afterRequest : Bool) (zs : List Nat) : ∀ s : State,
    s.Beside (zs.foldl (State.passZone afterRequest) s) ∧ s.planKept (zs.foldl (State.passZone afterRequest) s) := by
  induction zs with
  | nil => exact fun s => ⟨(State.Still.refl s).beside, id⟩
  | cons z zs ih =>
    intro s
    obtain ⟨first, plan⟩ := beside_passZone afterRequest s z
    obtain ⟨rest, plans⟩ := ih (s.passZone afterRequest z)
    exact ⟨first.trans rest, fun h => plans (plan h)⟩

/-- A plan that row 0 is opened with holds at most eight slots (R120). -/
theorem length_rowZeroPlan (img : List Host.Cell) : (rowZeroPlan img).length ≤ 8 := by
  unfold rowZeroPlan rowPlanSettled
  simp only []
  repeat' split
  · rw [length_clampPlan]
    exact length_of_planUsable (by assumption)
  · exact length_builtInPlan
  · exact length_builtInPlan

theorem shut_zonePass {s : State} (h : s.shut) (afterRequest : Bool) :
    (s.zonePass afterRequest).shut ∧ s.planKept (s.zonePass afterRequest) := by
  unfold State.zonePass
  simp only []
  have imaged := still_modMem s fun m => { m with image := m.memory }
  obtain ⟨passed, plan⟩ := beside_passZones afterRequest (List.range 7) (s.modMem fun m => { m with image := m.memory })
  have shut := passed.shut (imaged.beside.shut h)
  have planned : s.planKept ((List.range 7).foldl (State.passZone afterRequest) (s.modMem fun m => { m with image := m.memory })) := plan
  generalize (List.range 7).foldl (State.passZone afterRequest) (s.modMem fun m => { m with image := m.memory }) = u at shut planned ⊢
  cases afterRequest with
  | true => exact ⟨State.shut.congr shut rfl rfl (fun b => by cases b <;> rfl) fun p => by cases p <;> rfl, planned⟩
  | false =>
    obtain ⟨row, unclaimed⟩ := lawful_rowZero (length_rowZeroPlan u.mem.image)
    have opened : ({ u with rowMap := RowMap.rowZero (rowZeroPlan u.mem.image) } : State).shut :=
      ⟨⟨shut.rest.demands, fun b => by have := shut.rest.idle b; cases b <;> exact this, row, unclaimed⟩,
        fun p => by have := shut.ports p; cases p <;> exact this, fun b => by have := shut.links b; cases b <;> exact this⟩
    have restored (w : State) (b : Boom) : w.Still (w.restoreWear b) := still_modBoom rfl rfl
    have both := ((restored { u with rowMap := RowMap.rowZero (rowZeroPlan u.mem.image) } .left).trans
        (restored _ .right)).beside.shut opened
    exact ⟨State.shut.congr both rfl rfl (fun b => by cases b <;> rfl) fun p => by cases p <;> rfl, planned⟩

theorem kept_selfTest {s : State} (hl : s.lawful) (hp : s.phase = .selfTest) (memoryPass logicPass : Bool) (pins : Straps) :
    s.Kept (State.zonePass { s.recordPost memoryPass logicPass with straps := pins } false) := by
  have shut := ((lawful_iff s).1 hl).1.shut (by rw [hp]; simp)
  have recorded : s.Still (s.recordPost memoryPass logicPass) := by
    have failed : s.Still { s with postFail := !(memoryPass && logicPass) } :=
      still_of_core rfl rfl rfl (fun p h => by cases p <;> exact h) rfl rfl rfl fun b => by cases b <;> rfl
    unfold State.recordPost
    simp only []
    split
    · exact failed.trans (still_logPartFault _ _ _ _)
    · exact failed
  have pinned : ({ s.recordPost memoryPass logicPass with straps := pins } : State).shut :=
    State.shut.congr (recorded.beside.shut shut) rfl rfl (fun b => by cases b <;> rfl) fun p => by cases p <;> rfl
  obtain ⟨passed, plan⟩ := shut_zonePass pinned false
  refine passed.kept (by simp [State.zonePass]) fun h => plan ?_
  rw [show ({ s.recordPost memoryPass logicPass with straps := pins } : State).params.plan = s.params.plan from recorded.steady.plan]
  exact h

end Sys2Proof.Machine

/-! ## The opening and a RESET request (O8) -/
namespace Sys2Proof.Machine

/-! ### The opening (R17, R174, R186) -/

/-- A shut part that opens: it stays at rest, and the links of the enabled booms run. -/
theorem opened_shut {s : State} (h : s.shut) : s.opened.atRest ∧ s.opened.params = s.params ∧ s.opened.straps = s.straps ∧
    ∀ b, (s.opened.boom b).line = (s.enabled b, none) := by
  have booms (b : Boom) : s.opened.boom b =
      if s.enabled b then { s.boom b with link := { (s.boom b).link with running := true, pollTimer := 0 } } else s.boom b := by
    rw [opened_eq h.rest.demands]
    cases b <;> rfl
  have idle (b : Boom) : (s.opened.boom b).isIdle := by
    refine isIdle_of_view ?_ (h.rest.idle b)
    rw [booms]
    split <;> rfl
  have lines (b : Boom) : (s.opened.boom b).line = (s.enabled b, none) := by
    have off := h.links b
    rw [booms]
    cases on : s.enabled b with
    | true => exact congrArg (Prod.mk true) (congrArg Prod.snd off)
    | false => exact off
  have rest := opened_eq h.rest.demands
  generalize s.opened = u at idle lines rest ⊢
  subst rest
  exact ⟨⟨rfl, idle, h.rest.row, h.rest.unclaimed⟩, rfl, rfl, lines⟩

theorem kept_openPart {s : State} (hl : s.lawful) {a : Bool} (hp : s.phase = .zonesRead a) : s.Kept (s.openPart a) := by
  obtain ⟨rest, params, straps, lines⟩ := opened_shut (((lawful_iff s).1 hl).1.shut (by rw [hp]; simp))
  obtain ⟨boom, back, arb, row, -, -, -⟩ := standing_rest s.opened a
  have booms (b : Boom) : (s.openPart a).boom b = s.opened.boom b := by
    rw [← boom b, openPart_eq]
    cases b <;> rfl
  have plan : (s.openPart a).params = s.params := (congrArg Backdrop.params back).trans params
  have pins : (s.openPart a).straps = s.straps := (congrArg Backdrop.straps back).trans straps
  refine State.atRest.kept ⟨?_, fun b => by rw [booms]; exact rest.idle b, ?_, ?_⟩ (fun h => absurd rfl h) (fun b => ?_)
    (by rw [plan]; exact id)
  · exact (congrArg Arbiter.demands arb).trans rest.demands
  · rw [openPart_eq]
    simp only [row]
    exact rest.row
  · rw [openPart_eq]
    simp only [row]
    exact rest.unclaimed
  · have on : (s.openPart a).enabled b = s.enabled b := congrFun (enabled_congr pins) b
    have line := lines b
    rw [booms, on]
    exact ⟨(congrArg Prod.fst line).trans (by rw [openPart_eq]; simp), fun _ => congrArg Prod.snd line⟩

/-! ### A RESET request (R193) -/

/-- A hole given up for a RESET request leaves its boom IDLE, and the other boom as a grant moves it. -/
theorem closeForReset_idle {s : State} (framed : s.framed) (b : Boom) :
    (s.closeForReset b).framed ∧ ((s.closeForReset b).boom b).ctl.state = .idle ∧ (s.closeForReset b).params.plan = s.params.plan ∧
      ∀ c, c ≠ b → ((s.closeForReset b).boom c).ctl.state = (s.boom c).ctl.state := by
  have other {t : State} (rested : s.Rested t b) (c : Boom) (hc : c ≠ b) : (t.boom c).ctl.state = (s.boom c).ctl.state := by
    rw [← view_state, rested.others c hc, (handed_keeps _ _ _ c).1, view_state]
  unfold State.closeForReset
  simp only []
  split
  · rename_i h; exact ⟨framed, h, rfl, fun _ _ => rfl⟩
  · rename_i away
    split
    · rename_i hst
      have rested := rested_endStage framed hst (e := .resetAbort) (by simp) none (s.stance b)
      refine ⟨rested.framed framed, ?_, rested.steady.plan, other rested⟩
      rw [endStage_eq, boom_stageReported, State.afterStage]
      simp only [destination_resetAbort]
      rw [(boom_closeHole_same _ _ _ _ _).1]
      rfl
    · have marked : s.Still (s.markFault b .resetAbort) := still_modHole fun r => by rfl
      have rested := rested_closeWait framed marked (by simp) (by simp) away .givenUp (s.boom b).ctl.state (some .resetAbort)
      refine ⟨rested.framed framed, ?_, rested.steady.plan, other rested⟩
      rw [(boom_closeHole_same _ _ _ _ _).1]
      rfl

theorem shut_resetColumn {s : State} (row : s.rowMap.lawful) (unclaimed : ∀ b, ¬ s.rowMap.claims b) (pins : Straps) :
    ({ ({ s with check := s.check.stopForReset } : State).cutMemory.resetCommon with straps := pins } : State).shut :=
  State.shut.congr (shut_resetCommon (s := ({ s with check := s.check.stopForReset } : State).cutMemory) row unclaimed) rfl rfl
    (fun b => by cases b <;> rfl) fun p => by cases p <;> rfl

theorem kept_requestReset {s : State} (hl : s.lawful) (pins : Straps) : s.Kept (s.requestReset pins) := by
  obtain ⟨left, idleL, planL, -⟩ := closeForReset_idle ((lawful_iff s).1 hl).1 .left
  obtain ⟨right, idleR, planR, others⟩ := closeForReset_idle left .right
  unfold State.requestReset
  simp only []
  generalize (s.closeForReset .left).closeForReset .right = u at right idleR planR others ⊢
  have idle (b : Boom) : (u.boom b).ctl.state = .idle := by
    cases b
    · exact (others .left (by decide)).trans idleL
    · exact idleR
  obtain ⟨shut, plan⟩ := shut_zonePass (shut_resetColumn right.row (fun b => (right.based b).claim.2 (idle b)) pins) true
  refine shut.kept (by simp [State.zonePass]) fun h => plan fun k => ?_
  refine Nat.lt_of_lt_of_eq (h k) ?_
  rw [← planL, ← planR]
  rfl

end Sys2Proof.Machine

/-! ## Every step (O8) -/
namespace Sys2Proof.Machine

/-! ### Acts of the rounds, the memory and the ports -/

theorem still_modMonitor {s : State} {f : Monitor → Monitor} (h : (s.modMonitor f).interlocks = s.interlocks) : s.Still (s.modMonitor f) :=
  ⟨steady_of_backdrop (by simp) fun c => by simp, rfl, rfl, h, fun c => by simp⟩

/-- Interlocks look at the breaches, the fault and the warm-up of the monitor alone. -/
theorem interlocks_modMonitor {s : State} {f : Monitor → Monitor} (breach : ∀ k, (f s.monitor).breach k = s.monitor.breach k)
    (fault : (f s.monitor).fault = s.monitor.fault) (warming : (f s.monitor).warming = s.monitor.warming) :
    (s.modMonitor f).interlocks = s.interlocks := by
  simp only [State.interlocks, monitor_modMonitor, rowMap_modMonitor, breach, fault, warming]

theorem still_startRound (s : State) : s.Still (s.modMonitor Monitor.startRound) :=
  still_modMonitor (interlocks_modMonitor (fun _ => rfl) rfl rfl)

theorem breach_stopRounds (m : Monitor) (k : Nat) : m.stopRounds.breach k = m.breach k := by
  simp only [Monitor.breach, Monitor.stopRounds, List.getElem?_map]
  cases m.channels[k]? <;> rfl

theorem still_startCheck (s : State) : s.Still s.startCheck.state := by
  unfold State.startCheck
  repeat' split
  · exact .refl s
  · exact .refl s
  · exact .refl s
  · exact (still_check s _).trans (still_modMonitor (interlocks_modMonitor (breach_stopRounds _) rfl rfl))

theorem still_beginSave (s : State) : s.Still s.beginSave := still_modMem s _

theorem still_askSave (s : State) : s.Still s.askSave := by
  unfold State.askSave
  split
  · exact still_beginSave s
  · exact still_modMem s _

theorem still_raiseMachine (s : State) (c : MachineCause) : s.Still (s.raiseMachine c) :=
  still_of_booms (by simp) (by simp) (by simp) (by simp) fun b => by simp

theorem still_finishOperation (s : State) : s.Still s.finishOperation := by
  have done := (still_modMem s fun m => { m with op := .none, opTimer := 0 }).trans (still_raiseMachine _ .configDone)
  unfold State.finishOperation
  simp only []
  split
  · exact done.trans (still_beginSave _)
  · exact done

theorem still_modPort {s : State} {p : Port} {f : MasterPort → MasterPort} (h : (s.port p).sealed → (f (s.port p)).sealed) :
    s.Still (s.modPort p f) := by
  refine still_of_core (by cases p <;> rfl) (by cases p <;> rfl) (by cases p <;> rfl) (fun q hq => ?_) (by cases p <;> rfl)
    (by cases p <;> rfl) (by cases p <;> rfl) fun b => by cases p <;> cases b <;> rfl
  by_cases hp : q = p
  · subst hp; rw [port_modPort_same]; exact h hq
  · rw [port_modPort_other _ hp]; exact hq

theorem still_beginTransfer (s : State) (p : Port) : s.Still (s.modPort p fun _ => s.beginTransfer p) := by
  refine still_modPort fun ⟨shut, reply, _⟩ => ?_
  unfold State.beginTransfer
  simp only [shut, Bool.false_eq_true, if_false]
  exact ⟨rfl, reply, by simp⟩

theorem still_endTransfer (s : State) (p : Port) (bits : List Bool) : s.Still (s.modPort p fun port => port.endTransfer bits s.millis) := by
  refine still_modPort fun ⟨shut, reply, transfer⟩ => ?_
  simp only [MasterPort.endTransfer, transfer, false_and, if_false]
  exact ⟨shut, reply, by simp⟩

/-! ### A service (R172) -/

/-- A port that processes a request stands in operation (R174). -/
theorem operating_of_held {s : State} (hl : s.lawful) {p : Port} {k : RequestKind} {q : Request} (h : s.held p k = some q) :
    s.phase = .operating := by
  by_contra hp
  obtain ⟨-, ⟨r, reply⟩, -⟩ := (((lawful_iff s).1 hl).1.quiet hp).2.1 p
  have idle : s.processing p = none := by rw [State.processing, reply]
  rw [State.held, idle] at h
  cases h

theorem kept_service {s u : State} (hl : s.lawful) (operating : s.phase = .operating) (h : Service s u) : s.Kept u := by
  obtain ⟨framed, staged⟩ := (lawful_iff s).1 hl
  cases h with
  | nothing => exact kept_refl hl
  | clearCause p code => exact (still_modPort fun h => h).regranted.kept hl
  | refuseForCheck => exact kept_stopCheck hl _ _
  | claim idle found isOpen clear => exact kept_grantClaim hl operating idle found isOpen clear
  | collar at' fit => exact kept_takeCollar hl at' fit
  | drill at' fit => exact kept_takeDrill hl at' fit
  | retract at' fit => exact kept_takeRetract hl at' fit
  | insert at' fit => exact kept_takeInsert hl at' fit
  | spin at' fit => exact kept_takeSpin hl at' fit
  | torque at' fit => exact kept_takeTorque hl at' fit
  | resume stage held fit => exact kept_takeResume hl stage held fit
  | endStage e stage fails => exact kept_endStage framed stage (fun h => fails h.2) (fun c _ => staged c) _ _
  | abandonWait away wait => exact kept_abandonWait hl away wait _ _ _
  | bitChanged b => exact ((still_modWear s b _).trans (still_askSave _)).regranted.kept hl
  | declare isSet => exact kept_declare hl isSet
  | rowAdvance ready => exact kept_rowAdvance hl ready
  | tramDone permitted => exact kept_tramDone hl permitted
  | waive found isOpen => exact kept_waive hl found isOpen
  | clearOverflow => exact kept_clearOverflow hl
  | setPlan usable => exact kept_placePlan hl (by rw [length_clampPlan]; exact length_of_planUsable usable)
  | askFlow machine unclaimed permitted => exact kept_askFlow hl operating permitted
  | releaseFlow k => exact (regranted_departMachine s k).kept hl
  | memory f => exact (still_modMem s f).regranted.kept hl
  | badZone z => exact (still_logPartFault s _ _ _).regranted.kept hl
  | askSave => exact (still_askSave s).regranted.kept hl
  | startCheck => exact (still_startCheck s).regranted.kept hl

theorem still_finish (s : State) (p : Port) (q : Request) (k : RequestKind) (c : ReplyCode) (payload : List Byte) :
    s.Still (s.finish p q k c payload) :=
  still_modPort fun ⟨shut, _, transfer⟩ => ⟨shut, ⟨_, rfl⟩, transfer⟩

/-! ### An event -/

theorem kept_event {s t : State} (hl : s.lawful) (h : Event s t) : s.Kept t := by
  obtain ⟨framed, staged⟩ := (lawful_iff s).1 hl
  cases h with
  | nothing => exact kept_refl hl
  | power ph h => exact kept_powerCycle s h
  | resetN => exact kept_resetN s
  | pinLow => exact kept_pinLow hl
  | pinHigh => exact kept_pinHigh hl
  | selfTest h m l pins => exact kept_selfTest hl h m l pins
  | opening h => exact kept_openPart hl h
  | requestReset h pins => exact kept_requestReset hl pins
  | receive b bits => exact (still_receive s b bits).regranted.kept hl
  | take b => exact kept_take hl b
  | poll due => exact kept_expirePoll hl due
  | stageTimer e stage held =>
    exact kept_endStage framed stage (fun h => by simp [held h.2] at h) (fun c _ => staged c) _ _
  | waitTimer f how away wait => exact kept_faultInWait hl away wait f how
  | convert code => exact kept_convert hl code
  | round => exact (still_startRound s).regranted.kept hl
  | transferBegin p => exact (still_beginTransfer s p).regranted.kept hl
  | transferEnd p bits => exact (still_endTransfer s p bits).regranted.kept hl
  | reject h code => exact (still_modPort fun ⟨shut, _, transfer⟩ => ⟨shut, ⟨_, rfl⟩, transfer⟩).regranted.kept hl
  | page f => exact (still_modMem s f).regranted.kept hl
  | operationDone f => exact ((still_modMem s f).trans (still_finishOperation _)).regranted.kept hl
  | loadDone z st => exact (kept_applyLoad hl z).before ((still_modMem _ _).trans (still_finishOperation _))
  | checkStep code => exact kept_passStep hl code
  | checkFails result detail => exact kept_stopCheck hl result detail

/-! ### A millisecond (log 5) -/

theorem interlocks_count (s : State) : (s.modMonitor Monitor.count).interlocks = s.interlocks := by
  refine interlocks_modMonitor (fun k => ?_) ?_ ?_ <;> (unfold Monitor.count; split <;> rfl)

/-- What a millisecond leaves of a boom: all but its timers. -/
theorem count_keeps (u : BoomUnit) :
    u.count.line = u.line ∧ u.count.view = { u.view with
      insertToSpin := u.view.insertToSpin.map (· + 1), gelDeadline := u.view.gelDeadline.map (· + 1)
      torqueWindow := u.view.torqueWindow.map (· + 1) } := by
  unfold BoomUnit.count Controller.countMechanical HeadLink.count
  constructor
  · split <;> rfl
  · split <;> split <;> rfl

theorem kept_countTimers {s : State} (hl : s.lawful) : s.Kept s.countTimers := by
  obtain ⟨framed, staged⟩ := (lawful_iff s).1 hl
  have boom (b : Boom) : s.countTimers.boom b = (s.boom b).count := by cases b <;> rfl
  have view (b : Boom) := (count_keeps (s.boom b)).2
  have locks : s.countTimers.interlocks = s.interlocks := interlocks_count s
  have near : s.Near s.countTimers := by
    refine ⟨⟨rfl, rfl, rfl, fun p h => by cases p <;> exact h, fun b => .of_line (by rw [boom]; exact (count_keeps _).1)⟩, rfl, rfl, locks,
      fun b => ?_, fun b => ?_, fun b => ?_, fun b c h => ?_⟩
    all_goals rw [boom]
    · exact (congrArg BoomView.state (view b) :)
    · exact (congrArg BoomView.run (view b) :)
    · exact (congrArg BoomView.firstRun (view b) :)
    · rw [view]; exact ⟨h.run, h.hole, h.peak, h.claim⟩
  refine near.kept framed fun b => ?_
  rw [boom, view, locks]
  exact ⟨(staged b).link, (staged b).free, (staged b).runs⟩

theorem still_queue (s : State) (q : List Instr) (n : Nat) : s.Still { s with pending := q, free := n } :=
  still_of_core rfl rfl rfl (fun p h => by cases p <;> exact h) rfl rfl rfl fun b => by cases b <;> rfl

theorem kept_tick {s : State} (hl : s.lawful) : s.Kept s.tick := by
  have later : s.Still { s with millis := s.millis + 1 } :=
    still_of_core rfl rfl rfl (fun p h => by cases p <;> exact h) rfl rfl rfl fun b => by cases b <;> rfl
  unfold State.tick
  split
  · exact kept_refl hl
  · exact kept_refl hl
  · exact later.regranted.kept hl
  · exact later.regranted.kept hl
  · have counted := (kept_countTimers (later.lawful hl)).after later.near
    simp only []
    generalize ({ s with millis := s.millis + 1 } : State).countTimers = u at counted ⊢
    exact counted.before (still_queue u _ _)

/-! ### A step -/

theorem still_pending (s : State) (rest : List Instr) : s.Still { s with pending := rest } :=
  still_of_core rfl rfl rfl (fun p h => by cases p <;> exact h) rfl rfl rfl fun b => by cases b <;> rfl

theorem kept_step {s t : State} (hl : s.lawful) (h : step s = .next t) : s.Kept t := by
  rcases step_command h with rfl | ⟨rest, command⟩
  · exact kept_tick hl
  · have popped := still_pending s rest
    have lawful := popped.lawful hl
    refine State.Kept.after popped.near ?_
    cases command with
    | event e => exact kept_event lawful e
    | served held service c payload ht =>
      rw [ht]
      exact (kept_service lawful (operating_of_held lawful held) service).before (still_finish _ _ _ _ _ _)

end Sys2Proof.Machine

/-! ## The demand list by itself (O8)

That a boom's place in the list agrees with its stage needs none of the other laws: every act keeps it by what it does to the list. -/
namespace Sys2Proof.Machine

/-! ### Acts that move no entry -/

theorem State.Still.demandsSound {s t : State} (h : s.Still t) (hs : s.demandsSound) : t.demandsSound := h.near.demandsSound hs

theorem State.Beside.demandsSound {s t : State} (h : s.Beside t) (hs : s.demandsSound) : t.demandsSound :=
  demandsSound_congr h.demands (fun b => by rw [wanted_view, wanted_view, h.views]) hs

theorem demandsSound_depart {s : State} (hs : s.demandsSound) (k : DemandKind) :
    (s.depart fun d => d.owner == .machine && d.kind == k).demandsSound :=
  demandsSound_departMachine hs _ fun d h => by simp only [Bool.and_eq_true, beq_iff_eq] at h; exact h.1

/-- A list without an entry agrees with booms that call for none. -/
theorem demandsSound_of_none {s : State} (demands : s.arbiter.demands = []) (wanted : ∀ b, (s.boom b).ctl.wanted = []) : s.demandsSound :=
  (demandsSound_iff s).2 fun b => by rw [demands, wanted]; rfl

theorem demandsSound_startStage {s : State} (hs : s.demandsSound) {b : Boom} {st : BoomState} (stage : st.isStage = true)
    (wait : (s.boom b).ctl.state.isStage = false) : (s.startStage b st).demandsSound := by
  have entered := demandsSound_arriveBoom (s := s) (t := s.modCtl b fun c => c.enterStage st) hs b (by simp [Controller.wanted, wait])
    (by simp) (by simp [Controller.wanted, Controller.enterStage, stage]) fun c hc => by rw [boom_modCtl_other _ hc]
  rw [boom_modCtl_same] at entered
  exact entered

/-- Settings made, and then a stage that begins. -/
theorem demandsSound_startAfter {s u : State} (hs : s.demandsSound) (h : s.Near u) {b : Boom} {st : BoomState} (stage : st.isStage = true)
    (wait : (s.boom b).ctl.state.isStage = false) : (u.startStage b st).demandsSound :=
  demandsSound_startStage (h.demandsSound hs) stage (by rw [h.states]; exact wait)

/-! ### A service -/

theorem demandsSound_takeResume {s : State} (hs : s.demandsSound) {b : Boom} (stage : (s.boom b).ctl.state.isStage = true)
    (held : (s.boom b).ctl.run = some .suspended) : (s.takeResume b).demandsSound := by
  have resumed := demandsSound_arriveBoom (s := s)
    (t := s.modCtl b fun c => { c with run := some .waitFlow, suspending := Interlocks.empty }) hs b (by simp [Controller.wanted, held])
    (by simp) (by simp [Controller.wanted, stage]) fun c hc => by rw [boom_modCtl_other _ hc]
  rw [boom_modCtl_same] at resumed
  exact resumed

theorem demandsSound_grantClaim {s : State} (hs : s.demandsSound) {b : Boom} (idle : (s.boom b).ctl.state = .idle) (sl : Slot) :
    (s.grantClaim b sl).demandsSound := by
  refine demandsSound_congr (congrArg Arbiter.demands (arbiter_modBoom ..)) (fun c => ?_) hs
  by_cases hc : c = b
  · subst hc
    have own : (s.grantClaim c sl).boom c = _ := (boom_modBoom _ c c _).trans (if_pos rfl)
    rw [own]
    simp [Controller.wanted, Controller.enterWait, idle, BoomState.isStage]
  · rw [show (s.grantClaim b sl).boom c = s.boom c from (boom_modBoom _ b c _).trans (if_neg hc)]
    cases c <;> rfl

theorem demandsSound_row {s : State} (hs : s.demandsSound) (m : RowMap) : ({ s with rowMap := m } : State).demandsSound :=
  demandsSound_congr rfl (fun b => by cases b <;> rfl) hs

theorem demandsSound_setTram {s : State} (hs : s.demandsSound) (permitted : Bool) : (s.setTram permitted).demandsSound :=
  demandsSound_announce (demandsSound_row hs _) _

theorem demandsSound_tramDone {s : State} (hs : s.demandsSound) : s.tramDone.state.demandsSound := by
  unfold State.tramDone
  split
  · exact hs
  · split
    · exact hs
    · simp only []
      have left := demandsSound_depart hs .tram
      generalize (s.depart fun d => d.owner == .machine && d.kind == .tram) = w at left ⊢
      exact (still_raiseBoth _ _).demandsSound (demandsSound_setTram (demandsSound_row left _) _)

theorem demandsSound_stopCheck {s : State} (hs : s.demandsSound) (result : Nat) (detail : Option Nat) :
    (s.stopCheck result detail).demandsSound := by
  unfold State.stopCheck
  simp only []
  refine demandsSound_announce (demandsSound_congr ?_ (fun b => ?_) hs) _
  all_goals split <;> simp

theorem demandsSound_placePlan {s : State} (hs : s.demandsSound) (plan : List PlanSlot) : (s.placePlan plan).demandsSound := by
  unfold State.placePlan
  split
  · exact (still_raiseBoth _ _).demandsSound (demandsSound_row hs _)
  · exact demandsSound_row hs _

theorem demandsSound_service {s u : State} (hs : s.demandsSound) (h : Service s u) : u.demandsSound := by
  have raised (t : State) (ht : t.arbiter = s.arbiter) (hb : ∀ b, t.boom b = s.boom b) : t.raiseReady.demandsSound :=
    demandsSound_congr (by simp [ht]) (fun b => by simp [hb]) hs
  cases h with
  | nothing => exact hs
  | clearCause p code => exact (still_modPort fun h => h).demandsSound hs
  | refuseForCheck => exact demandsSound_stopCheck hs _ _
  | claim idle => exact demandsSound_grantClaim hs idle _
  | collar at' => exact demandsSound_startAfter hs (still_collarSettings s _).near rfl (by rw [at']; rfl)
  | drill at' => exact demandsSound_startAfter hs (still_modTracker s _ _).near rfl (by rcases at' with h | h <;> rw [h] <;> rfl)
  | retract at' => exact demandsSound_startStage hs rfl (by rcases at' with h | h <;> rw [h] <;> rfl)
  | insert at' =>
    exact demandsSound_startAfter hs ((still_modTracker s _ _).trans (still_modHole fun r => by rfl)).near rfl (by rw [at']; rfl)
  | spin at' => exact demandsSound_startAfter hs (still_modCtl rfl).near rfl (by rw [at']; rfl)
  | torque at' => exact demandsSound_startAfter hs (near_clearTorque s _).1 rfl (by rw [at']; rfl)
  | resume stage held => exact demandsSound_takeResume hs stage held
  | endStage e stage fails => exact demandsSound_endStage hs _ _ _ _ fun h => fails h.2
  | abandonWait away wait => exact demandsSound_closeHole hs _ _ _ _ wait
  | bitChanged b => exact ((still_modWear s b _).trans (still_askSave _)).demandsSound hs
  | declare isSet =>
    unfold State.declare
    exact demandsSound_announce (demandsSound_row hs _) _
  | rowAdvance => exact (still_raiseBoth _ _).demandsSound (demandsSound_setTram hs _)
  | tramDone => exact demandsSound_tramDone hs
  | waive => exact raised _ rfl fun b => by cases b <;> rfl
  | clearOverflow => exact raised _ rfl fun b => by cases b <;> rfl
  | setPlan => exact demandsSound_placePlan hs _
  | askFlow => exact demandsSound_arriveMachine hs _
  | releaseFlow k => exact demandsSound_depart hs k
  | memory f => exact (still_modMem s f).demandsSound hs
  | badZone z => exact (still_logPartFault s _ _ _).demandsSound hs
  | askSave => exact (still_askSave s).demandsSound hs
  | startCheck => exact (still_startCheck s).demandsSound hs

/-! ### An event -/

theorem demandsSound_endOnSample {s : State} (hs : s.demandsSound) {b : Boom} {t : Tracked} {e : SampleEnd} (h : sampleEnd s b t = some e) :
    (s.endOnSample b e).demandsSound := by
  obtain ⟨-, -, mixed, -⟩ := sampleEnd_stage h
  have ends (u : State) (hu : s.Still u) (e' : StageEnd) (he : e ≠ .mixed) (st : BoomState × Option RunCondition) :
      (u.endStage b e' none st).demandsSound :=
    demandsSound_endStage (hu.demandsSound hs) _ _ _ _ fun ⟨hsp, _⟩ => he (mixed.2 ((hu.near.states b).symm.trans hsp))
  cases e with
  | collarDepth | depthReached | inPlace | achieved | depthLimit | stalled | blockedByRun | blockedEarly | slippedByPressure
    | slippedByTurns => simpa only [State.endOnSample] using ends s (.refl s) _ (by simp) _
  | mixed => exact demandsSound_spinToHold hs b
  | clear => simpa only [State.endOnSample] using ends _ (still_modTracker s b _) _ (by simp) _

theorem demandsSound_countSample {s : State} (hs : s.demandsSound) (b : Boom) (x : Sample) : (s.countSample b x).demandsSound := by
  have counted (f : Controller → Controller) (state : (f (s.boom b).ctl).state = (s.boom b).ctl.state)
      (run : (f (s.boom b).ctl).run = (s.boom b).ctl.run) : (s.modCtl b f).demandsSound := by
    refine demandsSound_congr (by simp) (fun c => ?_) hs
    by_cases hc : c = b
    · subst hc; rw [boom_modCtl_same]; simp only [Controller.wanted, state, run]
    · rw [boom_modCtl_other _ hc]
  unfold State.countSample
  simp only []
  repeat' split
  · exact hs
  · exact counted _ rfl rfl
  · exact counted _ rfl rfl
  · exact hs

theorem demandsSound_take {s : State} (hs : s.demandsSound) (b : Boom) : (s.take b).state.demandsSound := by
  have taken : s.Still (s.modLink b HeadLink.takeOldest) := still_modLink rfl rfl
  unfold State.take
  split
  · exact hs
  · simp only []
    split
    · exact taken.demandsSound hs
    · unfold State.headStatus
      simp only []
      split
      · exact demandsSound_linkFault ((near_modLink rfl).demandsSound (taken.demandsSound hs)) _ _ _
      · exact (near_modLink rfl).demandsSound (taken.demandsSound hs)
    · rename_i x _
      have tracked := (taken.trans (still_track (s.modLink b HeadLink.takeOldest) b x)).demandsSound hs
      split
      · have counted := demandsSound_countSample tracked b x
        split
        · exact demandsSound_endOnSample counted (by assumption)
        · exact counted
      · exact tracked

theorem demandsSound_expirePoll {s : State} (hs : s.demandsSound) {b : Boom} (due : (s.boom b).link.pollDue = true) :
    (s.expirePoll b).demandsSound := by
  rw [expirePoll_eq]
  refine (still_closePoll ?_).demandsSound ?_
  · rw [running_judgePoll]
    exact ((HeadLink.pollDue_iff _).1 due).1
  · cases ho : (s.boom b).link.outstanding.isSome with
    | false => rw [State.judgePoll, if_neg (by simp [ho])]; exact hs
    | true =>
      rw [judgePoll_eq s b ho]
      have judged : s.Still (s.modBoom b fun _ => s.judgedBoom b) := still_modBoom rfl rfl
      have sound := judged.demandsSound hs
      generalize s.modBoom b (fun _ => s.judgedBoom b) = u at sound ⊢
      unfold State.linkChange State.loseLink
      simp only []
      repeat' split
      · exact demandsSound_linkFault ((still_modTracker _ b _).demandsSound ((near_modLink rfl).demandsSound sound)) _ _ _
      · exact sound
      · exact (near_modLink rfl).demandsSound sound
      · exact sound

theorem demandsSound_convert {s : State} (hs : s.demandsSound) (code : Nat) : (s.convert code).demandsSound := by
  have turned (u : State) (hu : u.demandsSound) (f : Monitor → Monitor) : (u.modMonitor f).demandsSound :=
    demandsSound_congr rfl (fun b => by simp) hu
  unfold State.convert
  repeat' split
  · exact demandsSound_announce (turned s hs _) _
  · unfold State.convertReference
    simp only []
    refine demandsSound_announce (turned _ (demandsSound_announce ?_ _) _) _
    split
    · exact (still_logPartFault _ _ _ _).demandsSound (turned s hs _)
    · exact turned s hs _
  · exact hs

theorem demandsSound_zonePass {s : State} (hs : s.demandsSound) (a : Bool) : (s.zonePass a).demandsSound := by
  unfold State.zonePass
  simp only []
  have passed := (beside_passZones a (List.range 7) (s.modMem fun m => { m with image := m.memory })).1.demandsSound
    ((still_modMem s _).demandsSound hs)
  generalize (List.range 7).foldl (State.passZone a) (s.modMem fun m => { m with image := m.memory }) = u at passed ⊢
  refine demandsSound_congr rfl (fun b => by cases b <;> rfl) (?_ : State.demandsSound (if a = true then u else _))
  split
  · exact passed
  · have restored (w : State) (b : Boom) : w.Still (w.restoreWear b) := still_modBoom rfl rfl
    exact ((restored _ .left).trans (restored _ .right)).demandsSound (demandsSound_congr rfl (fun b => by cases b <;> rfl) passed)

theorem demandsSound_requestReset (s : State) (pins : Straps) : (s.requestReset pins).demandsSound :=
  demandsSound_zonePass (demandsSound_of_none rfl fun b => by cases b <;> rfl) true

theorem demandsSound_startLink {s : State} (hs : s.demandsSound) (b : Boom) : (s.startLink b).demandsSound := by
  rw [startLink_eq]
  refine demandsSound_congr (by simp) (fun c => ?_) hs
  by_cases hc : c = b
  · subst hc; rw [boom_modLink_same]
  · rw [boom_modLink_other _ hc]

theorem demandsSound_openPart {s : State} (hs : s.demandsSound) (a : Bool) : (s.openPart a).demandsSound := by
  rw [openPart_eq]
  obtain ⟨boom, -, arb, -⟩ := standing_rest s.opened a
  have ports : s.openPorts.demandsSound := demandsSound_congr rfl (fun b => by cases b <;> rfl) hs
  have started : (((s.openPorts.startLink .left).startLink .right).modMonitor Monitor.startRound).demandsSound :=
    (still_startRound _).demandsSound (demandsSound_startLink (demandsSound_startLink ports .left) .right)
  have opened : s.opened.demandsSound := demandsSound_refreshFlow fun b => .inr ((demandsSound_iff _).1 started b)
  refine demandsSound_congr (congrArg Arbiter.demands arb) (fun b => ?_) opened
  rw [← boom b]
  cases b <;> rfl

theorem demandsSound_selfTest {s : State} (hs : s.demandsSound) (memoryPass logicPass : Bool) (pins : Straps) :
    (State.zonePass { s.recordPost memoryPass logicPass with straps := pins } false).demandsSound := by
  have recorded : (s.recordPost memoryPass logicPass).demandsSound := by
    have failed : ({ s with postFail := !(memoryPass && logicPass) } : State).demandsSound :=
      demandsSound_congr rfl (fun b => by cases b <;> rfl) hs
    unfold State.recordPost
    simp only []
    split
    · exact (still_logPartFault _ _ _ _).demandsSound failed
    · exact failed
  generalize s.recordPost memoryPass logicPass = u at recorded ⊢
  have pinned : ({ u with straps := pins } : State).demandsSound := demandsSound_congr rfl (fun b => by cases b <;> rfl) recorded
  exact demandsSound_zonePass pinned false

theorem demandsSound_event {s t : State} (hs : s.demandsSound) (h : Event s t) : t.demandsSound := by
  cases h with
  | nothing => exact hs
  | power ph h => exact demandsSound_of_none rfl fun b => by cases b <;> rfl
  | resetN => exact demandsSound_of_none rfl fun b => by cases b <;> rfl
  | pinLow => exact demandsSound_congr rfl (fun b => by cases b <;> rfl) hs
  | pinHigh => exact demandsSound_congr rfl (fun b => by cases b <;> rfl) hs
  | selfTest h m l pins => exact demandsSound_selfTest hs m l pins
  | opening h => exact demandsSound_openPart hs _
  | requestReset h pins => exact demandsSound_requestReset s pins
  | receive b bits => exact (still_receive s b bits).demandsSound hs
  | take b => exact demandsSound_take hs b
  | poll due => exact demandsSound_expirePoll hs due
  | stageTimer e stage held => exact demandsSound_endStage hs _ _ _ _ fun h => by simp [held h.2] at h
  | waitTimer f how away wait => exact demandsSound_faultInWait hs _ _ _ wait
  | convert code => exact demandsSound_convert hs code
  | round => exact (still_startRound s).demandsSound hs
  | transferBegin p => exact (still_beginTransfer s p).demandsSound hs
  | transferEnd p bits => exact (still_endTransfer s p bits).demandsSound hs
  | reject h code => exact (still_modPort fun ⟨shut, _, transfer⟩ => ⟨shut, ⟨_, rfl⟩, transfer⟩).demandsSound hs
  | page f => exact (still_modMem s f).demandsSound hs
  | operationDone f => exact ((still_modMem s f).trans (still_finishOperation _)).demandsSound hs
  | loadDone z st =>
    refine ((still_modMem _ _).trans (still_finishOperation _)).demandsSound (demandsSound_refreshFlow fun b => .inr ?_)
    exact (demandsSound_iff _).1 (demandsSound_announce ((beside_takeZone s z).1.demandsSound hs) _) b
  | checkStep code =>
    unfold State.passStep
    simp only []
    have counted := still_check s
      { s.check with remaining := s.check.remaining - 1, c1 := if s.check.step = 1 then code else s.check.c1, stepTimer := 0 }
    split
    · exact demandsSound_stopCheck (counted.demandsSound hs) 0 none
    · exact counted.demandsSound hs
  | checkFails result detail => exact demandsSound_stopCheck hs _ _

/-! ### A step -/

theorem demandsSound_tick {s : State} (hs : s.demandsSound) : s.tick.demandsSound := by
  have counted (u : State) (hu : u.demandsSound) : u.countTimers.demandsSound := by
    have boom (b : Boom) : u.countTimers.boom b = (u.boom b).count := by cases b <;> rfl
    refine demandsSound_congr (s := u) rfl (fun b => ?_) hu
    rw [boom, wanted_view, wanted_view, (count_keeps _).2]
    rfl
  have later : ({ s with millis := s.millis + 1 } : State).demandsSound := demandsSound_congr rfl (fun b => by cases b <;> rfl) hs
  unfold State.tick
  split
  · exact hs
  · exact hs
  · exact later
  · exact later
  · have sound := counted _ later
    simp only []
    generalize ({ s with millis := s.millis + 1 } : State).countTimers = u at sound ⊢
    exact (still_queue u _ _).demandsSound sound

theorem demandsSound_step {s t : State} (h : step s = .next t) (hs : s.demandsSound) : t.demandsSound :=
  step_keeps (I := State.demandsSound) (fun s q h => (still_pending s q).demandsSound h) (fun _ h => demandsSound_tick h)
    (fun he h => demandsSound_event h he) (fun _ hu h => demandsSound_service h hu)
    (fun _ _ _ _ _ _ h => (still_finish _ _ _ _ _ _).demandsSound h) h hs

/-- Settles O8: the laws on the list stand by themselves (`demandsSound_step`), and every other law is kept by what each act leaves of the
views of both booms (`kept_step`). -/
theorem everyStepKeepsOneDemandForEveryStageInProgress : Obligations.EveryStepKeepsOneDemandForEveryStageInProgress := by
  unfold Obligations.EveryStepKeepsOneDemandForEveryStageInProgress
  intro s t h
  refine ⟨demandsSound_step h, fun hl => ?_, fun hl hs hg => ?_⟩
  · have kept := kept_step hl h
    exact (lawful_iff t).2 ⟨kept.framed, kept.staged⟩
  · exact grants_of_follows ((kept_step hl h).follows hs) (fun b => (((lawful_iff s).1 hl).1.based b).run) hs hg

end Sys2Proof.Machine

/-! ## The depth drilled in a hole (O9)

Maximum depth falls only where a hole begins, at BEGIN_HOLE on an IDLE boom, and at a reset, which leaves both booms IDLE. Every other act
is met with `State.Deepens`. -/
namespace Sys2Proof.Machine

/-- From one state to another no boom's maximum depth falls. -/
def State.Deepens (s t : State) : Prop := ∀ b, (s.boom b).tracker.maxDepth ≤ (t.boom b).tracker.maxDepth

theorem State.Deepens.refl (s : State) : s.Deepens s := fun _ => le_rfl

theorem State.Deepens.trans {s t u : State} (h : s.Deepens t) (k : t.Deepens u) : s.Deepens u := fun b => (h b).trans (k b)

theorem State.Deepens.of_booms {s t : State} (h : ∀ b, t.boom b = s.boom b) : s.Deepens t := fun b => by rw [h b]

/-- An update of a block that is no boom's. -/
theorem State.Deepens.of_blocks {s t : State} (hl : t.left = s.left) (hr : t.right = s.right) : s.Deepens t :=
  .of_booms fun b => by cases b <;> assumption

theorem maxDepth_of_ungranted {u v : BoomUnit} (h : v.ungranted = u.ungranted) : v.tracker.maxDepth = u.tracker.maxDepth :=
  congrArg DepthTracker.maxDepth (stands_of_ungranted h).2.2

theorem State.Deepens.of_ungranted {s t : State} (h : ∀ b, (t.boom b).ungranted = (s.boom b).ungranted) : s.Deepens t :=
  fun b => (maxDepth_of_ungranted (h b)).ge

/-- An operation of one boom that moves of the other only what a grant moves. -/
theorem State.Deepens.of_own {s t : State} {b : Boom} (ho : ∀ c, c ≠ b → (t.boom c).ungranted = (s.boom c).ungranted)
    (h : (s.boom b).tracker.maxDepth ≤ (t.boom b).tracker.maxDepth) : s.Deepens t := fun c => by
  by_cases hc : c = b
  · exact hc ▸ h
  · exact (maxDepth_of_ungranted (ho c hc)).ge

theorem State.Deepens.of_modBoom {s : State} {b : Boom} {f : BoomUnit → BoomUnit}
    (h : (s.boom b).tracker.maxDepth ≤ (f (s.boom b)).tracker.maxDepth) : s.Deepens (s.modBoom b f) :=
  .of_own (fun c hc => by rw [boom_modBoom_other s hc]) (by rwa [boom_modBoom_same])

theorem deepens_modLink (s : State) (b : Boom) (f : HeadLink → HeadLink) : s.Deepens (s.modLink b f) := .of_modBoom le_rfl

theorem deepens_modCtl (s : State) (b : Boom) (f : Controller → Controller) : s.Deepens (s.modCtl b f) := .of_modBoom le_rfl

theorem deepens_modHole (s : State) (b : Boom) (f : HoleRecord → HoleRecord) : s.Deepens (s.modHole b f) := .of_modBoom le_rfl

theorem deepens_modWear (s : State) (b : Boom) (f : WearTable → WearTable) : s.Deepens (s.modWear b f) :=
  .of_own (fun c hc => by rw [boom_modWear_other s hc]) (by rw [boom_modWear_same])

/-! ### Stages and holes -/

theorem deepens_closeHole (s : State) (b : Boom) (how : CloseKind) (st : BoomState) (f : Option FaultCode) :
    s.Deepens (s.closeHole b how st f) :=
  .of_own (fun c hc => by rw [boom_closeHole_other s hc]) (by rw [(boom_closeHole_same s b how st f).2.2.1])

theorem deepens_endStage (s : State) (b : Boom) (e : StageEnd) (x : Option Nat) (st : BoomState × Option RunCondition) :
    s.Deepens (s.endStage b e x st) :=
  .of_own (fun _ hc => ungranted_endStage s hc e x st) (maxDepth_of_core (core_endStage s b e x st)).ge

theorem deepens_spinToHold (s : State) (b : Boom) : s.Deepens (s.spinToHold b) :=
  .of_own (fun _ hc => ungranted_spinToHold s hc) (by rw [(spinToHold_kept s b).1])

theorem deepens_markFault (s : State) (b : Boom) (f : FaultCode) : s.Deepens (s.markFault b f) := deepens_modHole s b _

theorem deepens_faultInWait (s : State) (b : Boom) (f : FaultCode) (how : CloseKind) : s.Deepens (s.faultInWait b f how) := by
  unfold State.faultInWait
  simp only []
  have reported (t : State) (st : BoomState × Option RunCondition) (h : s.Deepens t) :
      s.Deepens ((t.raise b .stageFault).logBoomFault b f none st) := h.trans (.of_booms fun c => by simp)
  split
  · exact reported _ _ (((deepens_markFault s b f).trans (deepens_modHole _ b _)).trans (deepens_closeHole _ b how _ _))
  · exact reported _ _ ((deepens_markFault s b f).trans (deepens_closeHole _ b how _ _))

theorem deepens_linkFault (s : State) (b : Boom) (f : FaultCode) (x : Option Nat) : s.Deepens (s.linkFault b f x) := by
  cases h : (s.boom b).ctl.state.isStage with
  | true => rw [linkFault_stage h]; exact deepens_endStage s b _ x _
  | false => rw [linkFault_waits h]; exact (deepens_markFault s b f).trans (.of_booms fun c => by simp)

/-! ### A changed interlock set -/

theorem deepens_suspendStage (s : State) (b : Boom) (i : Interlocks) : s.Deepens (s.suspendStage b i) := fun c => by
  rw [(stands_suspendStage s b i c).2.2]

theorem deepens_supplyEnd (s : State) (b : Boom) (st : BoomState × Option RunCondition) : s.Deepens (s.supplyEnd b st) := by
  unfold State.supplyEnd
  split
  · exact deepens_endStage s b _ _ _
  · exact .refl s

theorem deepens_announce (s : State) (old : Interlocks) : s.Deepens (s.announce old) := by
  unfold State.announce
  simp only []
  split
  · exact .refl s
  · refine State.Deepens.trans ?_ (.of_booms fun c => boom_raiseInterlock _ _ _ c)
    have flowed := ((deepens_suspendStage s .left (s.interlocks.minus old)).trans
      (deepens_suspendStage _ .right (s.interlocks.minus old))).trans (.of_ungranted (ungranted_refreshFlow _))
    split
    · exact (flowed.trans (deepens_supplyEnd _ .left _)).trans (deepens_supplyEnd _ .right _)
    · exact flowed

/-! ### The take of an entry -/

theorem deepens_handSlices (s : State) (b : Boom) (cs : List ClosedSlice) : s.Deepens (s.handSlices b cs) :=
  .of_own (fun c hc => by rw [boom_handSlices_other hc]) (by rw [boom_handSlices]; exact le_rfl)

theorem deepens_closeAtBoundaries (s : State) (b : Boom) : s.Deepens (s.closeAtBoundaries b) := by
  rw [closeAtBoundaries_eq]
  exact (deepens_handSlices s b _).trans (.of_modBoom le_rfl)

/-- New ground raises maximum depth, and no sample lowers it (R23). -/
theorem maxDepth_raiseMax (t : DepthTracker) (st : BoomState) : t.maxDepth ≤ (t.raiseMax st).maxDepth := by
  unfold DepthTracker.raiseMax
  split
  · rename_i h
    simp only [DepthTracker.extends, Bool.and_eq_true, decide_eq_true_eq] at h
    obtain ⟨⟨-, deeper⟩, below⟩ := h
    exact le_min (by omega) below.le
  · exact le_rfl

/-- Neither the move nor collar contact nor the feed window moves maximum depth. -/
theorem maxDepth_placed (t : DepthTracker) (st : BoomState) (scale : Nat) (x : Sample) :
    (t.placed st scale x).maxDepth = t.maxDepth := by
  unfold DepthTracker.placed DepthTracker.feedWindow
  split <;> split <;> rfl

theorem deepens_workedOn (s : State) (b : Boom) (x : Sample) : s.Deepens (s.workedOn b x) := by
  have moved : s.Deepens (s.modTracker b fun _ =>
      (s.boom b).tracker.worked (s.boom b).ctl.state ((s.boom b).ctl.run == some .running) (s.calib b).scale x) := by
    refine .of_modBoom ?_
    simp only []
    rw [worked_eq]
    exact (maxDepth_placed _ _ _ x).ge.trans (maxDepth_raiseMax _ _)
  unfold State.workedOn
  simp only []
  repeat' split
  · exact (moved.trans (deepens_modCtl _ b _)).trans (deepens_closeAtBoundaries _ b)
  · exact moved.trans (deepens_closeAtBoundaries _ b)
  · exact moved.trans (deepens_modCtl _ b _)
  · exact moved

theorem deepens_missingPoll (s : State) (b : Boom) : s.Deepens (s.missingPoll b) := by
  unfold State.missingPoll
  simp only []
  repeat' split
  · exact .of_modBoom le_rfl
  · exact .refl s
  · exact .refl s

theorem deepens_track (s : State) (b : Boom) (x : Sample) : s.Deepens (s.track b x).state := by
  cases hg : isGlitch (encoderDelta (s.boom b).tracker.encoderRef x.count) with
  | true =>
    rw [(track_of_glitch hg).1]
    refine ((deepens_modLink s b _).trans (deepens_missingPoll _ b)).trans (.of_modBoom ?_)
    simp only [DepthTracker.glitched]
    split <;> exact le_rfl
  | false =>
    rw [track_of_accepted hg]
    obtain ⟨f, h, hf⟩ := state_trackRuns (s.workedOn b x) b x
      (((s.boom b).tracker.placed (s.boom b).ctl.state (s.calib b).scale x).atFace (s.boom b).ctl.state)
      (((s.boom b).tracker.placed (s.boom b).ctl.state (s.calib b).scale x).extends (s.boom b).ctl.state) (s.boom b).tracker.maxDepth
    rw [h]
    exact (deepens_workedOn s b x).trans (.of_modBoom (congrArg DepthTracker.maxDepth (hf _)).ge)

theorem deepens_endOnSample (s : State) (b : Boom) (e : SampleEnd) : s.Deepens (s.endOnSample b e) := by
  cases e with
  | mixed => exact deepens_spinToHold s b
  | clear => exact State.Deepens.trans (.of_modBoom le_rfl) (deepens_endStage _ b _ _ _)
  | _ => exact deepens_endStage s b _ _ _

theorem deepens_headStatus (s : State) (b : Boom) (code : Nat) : s.Deepens (s.headStatus b code) := by
  unfold State.headStatus
  simp only []
  split
  · exact (deepens_modLink s b _).trans (deepens_linkFault _ b _ _)
  · exact deepens_modLink s b _

theorem deepens_take (s : State) (b : Boom) : s.Deepens (s.take b).state := by
  have taken := deepens_modLink s b HeadLink.takeOldest
  unfold State.take
  split
  · exact .refl s
  · simp only []
    split
    · exact taken
    · exact taken.trans (deepens_headStatus _ b _)
    · rename_i x _
      have tracked := taken.trans (deepens_track (s.modLink b HeadLink.takeOldest) b x)
      split
      · obtain ⟨f, hc, -⟩ := boom_countSample ((s.modLink b HeadLink.takeOldest).track b x).state b x
        have counted := tracked.trans (hc ▸ deepens_modCtl _ b f)
        split
        · exact counted.trans (deepens_endOnSample _ b _)
        · exact counted
      · exact tracked

/-! ### Polls -/

theorem deepens_judgePoll (s : State) (b : Boom) : s.Deepens (s.judgePoll b) := by
  have judged : s.Deepens (s.modLink b fun l => l.judge l.answered) := deepens_modLink s b _
  have changed (s : State) : s.Deepens (s.linkChange b) := by
    unfold State.linkChange State.loseLink
    simp only []
    repeat' split
    · exact ((deepens_modLink s b _).trans (.of_modBoom le_rfl)).trans (deepens_linkFault _ b _ _)
    · exact .refl s
    · exact deepens_modLink s b _
    · exact .refl s
  unfold State.judgePoll
  simp only []
  repeat' split
  · exact judged.trans (changed _)
  · exact (judged.trans (deepens_missingPoll _ b)).trans (changed _)
  · exact .refl s

theorem deepens_expirePoll (s : State) (b : Boom) : s.Deepens (s.expirePoll b) := by
  have counted (s : State) : s.Deepens (s.countPoll b) := by
    unfold State.countPoll
    simp only []
    split
    · exact deepens_modLink s b _
    · exact (deepens_modLink s b _).trans (deepens_modWear _ b _)
  exact ((deepens_judgePoll s b).trans (counted _)).trans ((deepens_modLink _ b _).trans (deepens_modLink _ b _))

/-! ### Requests taken -/

theorem deepens_arrive (s : State) (p : Port) (k : DemandKind) : s.Deepens (s.arrive p k) := .of_ungranted (ungranted_arrive s p k)

theorem deepens_depart (s : State) (sel : Demand → Bool) : s.Deepens (s.depart sel) := .of_ungranted (ungranted_depart s sel)

theorem deepens_startStage (s : State) (b : Boom) (st : BoomState) : s.Deepens (s.startStage b st) :=
  (deepens_modCtl s b _).trans (deepens_arrive _ _ _)

theorem deepens_takeCollar (s : State) (b : Boom) : s.Deepens (s.takeCollar b) := by
  have captured : s.Deepens (s.captureZ b) := by
    unfold State.captureZ
    simp only []
    split
    · exact .of_modBoom le_rfl
    · exact State.Deepens.trans (.of_modBoom le_rfl) (deepens_modWear _ b _)
  exact ((captured.trans (deepens_modHole _ b _)).trans (deepens_modCtl _ b _)).trans (deepens_startStage _ b _)

theorem deepens_askSave (s : State) : s.Deepens s.askSave := by
  unfold State.askSave State.beginSave
  split <;> exact .of_blocks rfl rfl

theorem deepens_finishOperation (s : State) : s.Deepens s.finishOperation := by
  unfold State.finishOperation State.beginSave
  simp only []
  split <;> exact .of_blocks rfl rfl

theorem deepens_stopCheck (s : State) (result : Nat) (detail : Option Nat) : s.Deepens (s.stopCheck result detail) := by
  unfold State.stopCheck
  simp only []
  refine .trans ?_ (deepens_announce _ _)
  split <;> exact .of_blocks rfl rfl

theorem deepens_passStep (s : State) (code : Nat) : s.Deepens (s.passStep code) := by
  unfold State.passStep
  simp only []
  split
  · refine State.Deepens.trans ?_ (deepens_stopCheck _ _ _)
    exact .of_blocks rfl rfl
  · exact .of_blocks rfl rfl

theorem deepens_setTram (s : State) (permitted : Bool) : s.Deepens (s.setTram permitted) := by
  refine State.Deepens.trans ?_ (deepens_announce _ _)
  exact .of_blocks rfl rfl

theorem deepens_declare (s : State) (isSet : Bool) : s.Deepens (s.declare isSet) := by
  refine State.Deepens.trans ?_ (deepens_announce _ _)
  exact .of_blocks rfl rfl

theorem deepens_tramDone (s : State) : s.Deepens s.tramDone.state := by
  unfold State.tramDone
  split
  · exact .refl s
  · split
    · exact .refl s
    · simp only [answer]
      refine State.Deepens.trans ?_ (.of_booms (boom_raiseBoth _ _))
      refine State.Deepens.trans ?_ (deepens_setTram _ _)
      refine (deepens_depart s fun d => d.owner == .machine && d.kind == .tram).trans ?_
      exact .of_blocks rfl rfl

theorem deepens_convert (s : State) (code : Nat) : s.Deepens (s.convert code) := by
  have judged (s : State) (f : Monitor → Monitor) (old : Interlocks) : s.Deepens ((s.modMonitor f).announce old) :=
    State.Deepens.trans (t := s.modMonitor f) (.of_blocks rfl rfl) (deepens_announce _ _)
  unfold State.convert
  split
  · split
    · exact judged s _ _
    · unfold State.convertReference
      simp only []
      refine .trans ?_ (judged _ _ _)
      refine .trans ?_ (deepens_announce _ _)
      split <;> exact .of_blocks rfl rfl
  · exact .refl s

/-- No service lowers a boom's maximum depth but BEGIN_HOLE, on an IDLE boom (R21). -/
theorem deepens_service {s t : State} (h : Service s t) :
    s.Deepens t ∨ ∃ b sl, (s.boom b).ctl.state = .idle ∧ t = s.grantClaim b sl := by
  cases h with
  | claim idle => exact .inr ⟨_, _, idle, rfl⟩
  | nothing => exact .inl (.refl s)
  | clearCause p => exact .inl (.of_booms fun b => by simp)
  | refuseForCheck => exact .inl (deepens_stopCheck _ _ _)
  | collar => exact .inl (deepens_takeCollar _ _)
  | drill => exact .inl (State.Deepens.trans (.of_modBoom le_rfl) (deepens_startStage _ _ _))
  | retract => exact .inl (deepens_startStage _ _ _)
  | insert =>
    exact .inl ((State.Deepens.trans (.of_modBoom le_rfl) (deepens_modHole _ _ _)).trans (deepens_startStage _ _ _))
  | spin | torque => exact .inl ((deepens_modCtl s _ _).trans (deepens_startStage _ _ _))
  | resume => exact .inl ((deepens_modCtl s _ _).trans (deepens_arrive _ _ _))
  | endStage e => exact .inl (deepens_endStage s _ e _ _)
  | abandonWait => exact .inl (deepens_closeHole s _ _ _ _)
  | bitChanged b => exact .inl ((deepens_modWear s b _).trans (deepens_askSave _))
  | declare => exact .inl (deepens_declare _ _)
  | rowAdvance => exact .inl ((deepens_setTram s true).trans (.of_booms fun b => by simp))
  | tramDone => exact .inl (deepens_tramDone s)
  | waive | clearOverflow => exact .inl (.of_booms fun b => by simp)
  | setPlan =>
    refine .inl ?_
    unfold State.placePlan
    split
    · exact .of_blocks (by simp) (by simp)
    · exact .of_blocks rfl rfl
  | askFlow => exact .inl (deepens_arrive _ _ _)
  | releaseFlow => exact .inl (deepens_depart _ _)
  | memory | badZone => exact .inl (.of_blocks rfl rfl)
  | askSave => exact .inl (deepens_askSave s)
  | startCheck =>
    refine .inl ?_
    unfold State.startCheck
    repeat' split
    all_goals exact .of_blocks rfl rfl

/-! ### Zones, the opening and the resets -/

theorem deepens_takeZone1 (s : State) (z : Zone1) : s.Deepens (s.takeZone1 z) := by
  have placed : s.Deepens { s with params := { s.params with classifier := z.consts } } := .of_blocks rfl rfl
  exact (placed.trans (deepens_modWear _ .left _)).trans (deepens_modWear _ .right _)

theorem deepens_takeCalib (s : State) (b : Boom) (c : Calib) : s.Deepens (s.takeCalib b c) := by
  refine State.Deepens.trans ?_ (.of_modBoom le_rfl)
  cases b <;> exact .of_blocks rfl rfl

theorem deepens_takeZone (s : State) (z : Nat) : s.Deepens (s.takeZone z) := by
  unfold State.takeZone
  simp only []
  split
  · exact .of_blocks rfl rfl
  · exact deepens_takeZone1 s _
  · exact deepens_takeCalib s _ _
  · exact deepens_takeCalib s _ _
  · exact .of_blocks rfl rfl
  · exact .of_blocks rfl rfl
  · exact .refl s

theorem deepens_defaultZone (s : State) (z : Nat) : s.Deepens (s.defaultZone z) := by
  unfold State.defaultZone
  split
  · exact .of_blocks rfl rfl
  · exact deepens_takeZone1 s _
  · exact deepens_takeCalib s _ _
  · exact deepens_takeCalib s _ _
  · exact .of_blocks rfl rfl
  · exact .of_blocks rfl rfl
  · exact .refl s

theorem deepens_passZone (afterRequest : Bool) (s : State) (z : Nat) : s.Deepens (s.passZone afterRequest z) := by
  unfold State.passZone
  split
  · exact (deepens_takeZone s z).trans (.of_blocks rfl rfl)
  · split
    · exact .refl s
    · exact (deepens_defaultZone s z).trans (.of_blocks rfl rfl)

theorem deepens_zonePass (s : State) : s.Deepens (s.zonePass false) := by
  have passes (zs : List Nat) : ∀ u : State, u.Deepens (zs.foldl (State.passZone false) u) := by
    induction zs with
    | nil => exact .refl
    | cons z zs ih => exact fun u => (deepens_passZone false u z).trans (ih _)
  have read : s.Deepens (s.modMem fun m => { m with image := m.memory }) := .of_blocks rfl rfl
  have passed := read.trans (passes (List.range 7) _)
  have restored (u : State) (b : Boom) : u.Deepens (u.restoreWear b) := .of_modBoom le_rfl
  have opened (u : State) (m : RowMap) : u.Deepens { u with rowMap := m } := .of_blocks rfl rfl
  unfold State.zonePass
  simp only []
  generalize (List.range 7).foldl (State.passZone false) (s.modMem fun m => { m with image := m.memory }) = u at passed ⊢
  exact (((passed.trans (opened _ _)).trans (restored _ .left)).trans (restored _ .right)).trans (.of_blocks rfl rfl)

theorem deepens_openPart (s : State) (afterRequest : Bool) : s.Deepens (s.openPart afterRequest) := by
  have linked (s : State) (b : Boom) : s.Deepens (s.startLink b) := by
    unfold State.startLink
    split
    · exact deepens_modLink s b _
    · exact .refl s
  have standing (s : State) (b : Boom) : s.Deepens (s.raiseStanding b) := by
    unfold State.raiseStanding
    split
    · exact .of_booms fun c => by simp
    · exact .refl s
  have opened : s.Deepens s.openPorts := .of_blocks rfl rfl
  have rounds (s : State) : s.Deepens (s.modMonitor Monitor.startRound) := .of_blocks rfl rfl
  have flowed := ((opened.trans (linked _ .left)).trans (linked _ .right)).trans
    ((rounds _).trans (.of_ungranted (ungranted_refreshFlow _)))
  have raised := flowed.trans ((standing _ .left).trans (standing _ .right))
  have phased (s : State) (ph : Phase) : s.Deepens { s with phase := ph } := .of_blocks rfl rfl
  refine .trans ?_ (phased _ _)
  split
  · exact raised.trans (.of_booms fun c => by simp)
  · exact raised

/-- A RESET request leaves both booms IDLE (R193). -/
theorem idle_requestReset (s : State) (pins : Straps) (b : Boom) : ((s.requestReset pins).boom b).ctl.state = .idle := by
  have passed (u : State) : ((u.zonePass true).boom b).ctl.state = (u.boom b).ctl.state := by
    have views := (beside_passZones true (List.range 7) (u.modMem fun m => { m with image := m.memory })).1.views b
    rw [boom_modMem] at views
    unfold State.zonePass
    simp only [if_true]
    generalize (List.range 7).foldl (State.passZone true) (u.modMem fun m => { m with image := m.memory }) = v at views ⊢
    rw [← view_state, ← view_state, ← views]
    cases b <;> rfl
  unfold State.requestReset
  simp only []
  rw [passed]
  cases b <;> rfl

/-- No event lowers a boom's maximum depth but a reset, which leaves both booms IDLE. -/
theorem deepens_event {s t : State} (h : Event s t) : s.Deepens t ∨ ∀ b, (t.boom b).ctl.state = .idle := by
  cases h with
  | power | resetN => exact .inr fun b => by cases b <;> rfl
  | requestReset _ pins => exact .inr (idle_requestReset s pins)
  | nothing => exact .inl (.refl s)
  | pinLow | pinHigh => exact .inl (.of_blocks rfl rfl)
  | selfTest _ memoryPass logicPass pins =>
    have posted : s.Deepens { s.recordPost memoryPass logicPass with straps := pins } := by
      unfold State.recordPost
      simp only []
      split <;> exact .of_blocks rfl rfl
    exact .inl (posted.trans (deepens_zonePass _))
  | opening => exact .inl (deepens_openPart _ _)
  | receive => exact .inl (.of_modBoom le_rfl)
  | take => exact .inl (deepens_take _ _)
  | poll => exact .inl (deepens_expirePoll _ _)
  | stageTimer e => exact .inl (deepens_endStage s _ e _ _)
  | waitTimer => exact .inl (deepens_faultInWait _ _ _ _)
  | convert => exact .inl (deepens_convert _ _)
  | round | page => exact .inl (.of_blocks rfl rfl)
  | transferBegin | transferEnd | reject => exact .inl (.of_booms fun b => by simp [State.reject])
  | operationDone f => exact .inl (State.Deepens.trans (t := s.modMem f) (.of_blocks rfl rfl) (deepens_finishOperation _))
  | loadDone z st =>
    have applied : s.Deepens (s.applyLoad z) :=
      ((deepens_takeZone s z).trans (deepens_announce _ _)).trans (.of_ungranted (ungranted_refreshFlow _))
    refine .inl ((applied.trans ?_).trans (deepens_finishOperation _))
    exact .of_blocks rfl rfl
  | checkStep => exact .inl (deepens_passStep _ _)
  | checkFails => exact .inl (deepens_stopCheck _ _ _)

/-- Settles O9: a command that lowers maximum depth begins the hole on an IDLE boom, or leaves the boom IDLE. -/
theorem drilledDepthNeverGoesBackWithinAHole : Obligations.DrilledDepthNeverGoesBackWithinAHole := by
  unfold Obligations.DrilledDepthNeverGoesBackWithinAHole
  intro c s t b h before after
  cases exec_command h with
  | event he =>
    rcases deepens_event he with deeper | idle
    · exact deeper b
    · exact absurd (idle b) after
  | @served u p q k _ hu code x ht =>
    have answered : (t.boom b).tracker.maxDepth = (u.boom b).tracker.maxDepth := by rw [ht]; simp
    rw [answered]
    rcases deepens_service hu with deeper | ⟨d, sl, idle, rfl⟩
    · exact deeper b
    · -- The hole that begins is the other boom's, for this boom was not IDLE.
      have other : b ≠ d := fun e => before (e ▸ idle)
      unfold State.grantClaim
      rw [boom_modBoom_other _ other]
      exact (congrArg (fun v : BoomUnit => v.tracker.maxDepth) (boom_rowMap s b _)).ge

end Sys2Proof.Machine

/-! ## Glitches (O27) -/
namespace Sys2Proof.Machine

/-- The state behind a glitch (R6, R19, R28): the entry taken and the glitch counted in the link, the missing poll counted in the slice, and
the reference and the glitch run as given. -/
def State.afterGlitch (s : State) (b : Boom) (ref : Option (BitVec 16)) (run : Nat) : State :=
  (s.modLink b fun l =>
    { l with
      fifo := l.fifo.drop 1, holdOff := if l.fifo.length ≤ 2 then false else l.holdOff
      stats := { l.stats with glitch := min 65535 (l.stats.glitch + 1) } }).modTracker b fun t =>
    { t with encoderRef := ref, glitchRun := run, slice := s.sliceMissed b }

/-- The entry that carries a sample is read as one (R6, R18). -/
theorem classifyEntry_readSample {p : List Byte} (hl : p.length = 11) :
    classifyEntry { status := .good, kind := some 0x10, payload := some p, answer := true } = .sample (readSample p) := by
  unfold classifyEntry
  simp only []
  rw [if_pos ⟨rfl, hl, trivial⟩]

/-- The take of a sample hands it to the tracker, and of one that the tracker discards nothing more comes about. -/
theorem take_of_glitch {s : State} {b : Boom} {x : Sample} (hn : s.nextSample b x) (hg : ¬ (s.boom b).tracker.accepts x) :
    (s.take b).state = (s.entryTaken b).trackGlitch b ∧ (s.take b).refDropped = dropsReference (s.boom b).tracker := by
  obtain ⟨p, rest, hf, hl, rfl⟩ := hn
  have glitch : isGlitch (encoderDelta ((s.entryTaken b).boom b).tracker.encoderRef (readSample p).count) = true := by
    rw [accepts_iff, Bool.not_eq_false] at hg
    simpa [State.entryTaken] using hg
  have dropped : ((s.entryTaken b).track b (readSample p)).refDropped = dropsReference (s.boom b).tracker := by
    unfold State.track
    simp only [glitch, if_true]
    simp [State.entryTaken]
  obtain ⟨state, processed⟩ := track_of_glitch glitch
  unfold State.take
  rw [hf]
  rw [State.entryTaken] at state processed dropped
  simp only [classifyEntry_readSample hl, processed, Bool.false_eq_true, if_false]
  exact ⟨state, dropped⟩

/-- A glitch counts in the link, in the slice and in the glitch run, whose sixteenth drops the reference (R19, R28). -/
theorem trackGlitch_entryTaken (s : State) (b : Boom) :
    (s.entryTaken b).trackGlitch b =
      s.afterGlitch b (s.boom b).tracker.glitched.encoderRef (s.boom b).tracker.glitched.glitchRun := by
  have missed (f : HeadLink → HeadLink) : (s.modLink b f).sliceMissed b = s.sliceMissed b :=
    sliceMissed_congr (by simp) (by simp)
  unfold State.trackGlitch State.entryTaken State.afterGlitch
  simp only [missingPoll_eq, modLink_modLink, modTracker_modTracker, missed]
  refine modTracker_congr ?_
  by_cases run : 16 ≤ (s.boom b).tracker.glitchRun + 1 <;> simp [DepthTracker.glitched, dropsReference, run]

/-- Settles O27: both the row and the take are the tracker's discarding of the sample, and the count of the run says what becomes of the
reference. -/
theorem theSixteenthGlitchDropsTheEncoderReference : Obligations.TheSixteenthGlitchDropsTheEncoderReference := by
  unfold Obligations.TheSixteenthGlitchDropsTheEncoderReference
  intro b s x hn hg leaves
  obtain ⟨state, dropped⟩ := take_of_glitch hn hg
  rw [trackGlitch_entryTaken] at state
  refine ⟨fun run => ?_, fun run => ?_⟩
  · have drops : dropsReference (s.boom b).tracker = true := by simp [dropsReference, run]
    have row : exec (.encoderReferenceDrop b) s = .next (s.take b).state := by
      show Host.Outcome.next (takeWhen s b (s.take b).refDropped) = _
      rw [takeWhen, dropped, drops, if_pos rfl]
    rw [DepthTracker.glitched, if_pos drops] at state
    rw [row, state]
    rfl
  · have keeps : dropsReference (s.boom b).tracker = false := by simp [dropsReference]; omega
    rw [DepthTracker.glitched, keeps, if_neg (by simp)] at state
    show Host.Outcome.next (s.take b).state = _
    rw [state]
    rfl

end Sys2Proof.Machine

/-! ## BEGIN_HOLE admitted (O42) -/
namespace Sys2Proof.Machine

theorem apart_lt_iff (p q n : Nat) : apart p q < n ↔ ((p : Int) - q).natAbs < n := by unfold apart; omega

theorem tooClose_eq_false {s : State} {b : Boom} {sl : Slot} (h : ∀ o, s.rowMap.claimOf (otherBoom b) = some o →
    s.params.plan.separation ≤ ((o.position : Int) - sl.position).natAbs) : s.tooClose b sl = false := by
  unfold State.tooClose
  cases hc : s.rowMap.claimOf (otherBoom b) with
  | none => rfl
  | some o => simpa [apart_lt_iff] using h o hc

/-- A claim that passes tests 3 to 7 of R123 is granted. -/
theorem claim_admitted {s : State} {b : Boom} {sl : Slot} (load : ∀ z, s.mem.op ≠ .load z)
    (zone : s.mem.zones[calibZone b]? ≠ some .defaulted) (isOpen : sl.state = .isOpen) (far : s.tooClose b sl = false)
    (clear : s.interlocks.inter claimBlockers = Interlocks.empty) : s.claim b sl = answer (s.grantClaim b sl) .accepted := by
  have idle : s.mem.op.isLoad = false := by
    unfold MemOp.isLoad
    split
    · rename_i z h; exact absurd h (load z)
    · rfl
  unfold State.claim
  simp only [idle, zone, isOpen, far, clear, Bool.false_eq_true, if_false]
  rfl

/-- HOLE_OPEN has the between-stage timer, and no other timer runs in it (R93). -/
theorem enterWait_holeOpen (c : Controller) (z : Zone5) :
    c.enterWait z .holeOpen =
      { c with
        state := .holeOpen, run := none, firstRun := false, suspending := Interlocks.empty, collarTimer := none, torqueTime := none
        holdTimer := none, insertToSpin := none, gelDeadline := none, torqueWindow := none
        betweenStage := if z.betweenCode = 0 then none else some 0 } := by
  rw [← betweenStage_enterWait c z (w := .holeOpen) rfl]
  rfl

/-- Settles O42: the request passes every test of R123, and the grant of the claim sets what R21, R78 and R124 say. -/
theorem beginHoleAdmittedClaimsTheSlotAndStartsTheHole : Obligations.BeginHoleAdmittedClaimsTheSlotAndStartsTheHole := by
  unfold Obligations.BeginHoleAdmittedClaimsTheSlotAndStartsTheHole
  intro s b q sl taken check idle found load zone isOpen far clear claim
  have begins : s.beginHole b (operand q.operands 0) = answer (s.grantClaim b sl) .accepted := by
    unfold State.beginHole
    rw [if_neg (not_not.2 idle), check, if_neg (by simp), found]
    exact claim_admitted load zone isOpen (tooClose_eq_false far) clear
  show Host.Outcome.next (s.serve b.port .beginHole fun ops s => s.beginHole b (operand ops 0)) = _
  rw [serve_taken taken, begins]
  simp only [State.grantClaim, enterWait_holeOpen]
  rfl

end Sys2Proof.Machine

/-! ## A stage that a sample ends, with the slices settled before and at its end (O28, O45) -/
namespace Sys2Proof.Machine

/-! ### Slices handed on in two parts -/

theorem anyHanded_append (s : State) (b : Boom) (f : Classifier × WearTable → ClosedSlice → Bool) (cs ds : List ClosedSlice) : ∀ r,
    s.anyHanded b f r (cs ++ ds) = (s.anyHanded b f r cs || s.anyHanded b f (cs.foldl (s.handOne b) r) ds) := by
  induction cs with
  | nil => intro r; simp [State.anyHanded]
  | cons c cs ih => intro r; simp [State.anyHanded, ih, Bool.or_assoc]

/-- Slices handed on behind others of the same act. -/
theorem handed_append {s u : State} {b : Boom} (hb : u.backdrop = s.backdrop) {cs : List ClosedSlice}
    (hs : (u.boom b).strata = s.handed b cs) (ds : List ClosedSlice) : u.handed b ds = s.handed b (cs ++ ds) := by
  rw [handed_eq, handed_eq, handOne_congr hb, hs, handed_eq, List.foldl_append]

/-- LAYER and WEAR for slices handed on behind others of the same act. -/
theorem slicesFlag_append {s u : State} {b : Boom} (hb : u.backdrop = s.backdrop) {cs : List ClosedSlice}
    (hs : (u.boom b).strata = s.handed b cs) (ds : List ClosedSlice) (p : Port) :
    bothFlags (s.slicesFlag b cs) (u.slicesFlag b ds) p = s.slicesFlag b (cs ++ ds) p := by
  obtain ⟨-, hl, ht⟩ := acts_congr hb b
  simp only [bothFlags, State.slicesFlag, hl, ht, anyHanded_congr hb, hs, boomFlag_congr (straps_of_backdrop hb),
    wearFlag_congr (straps_of_backdrop hb), anyHanded_append, handed_eq]
  rw [Causes.join_join_join_comm, boomFlag_join, wearFlag_join]

/-! ### Before the end -/

/-- What a sample does to a boom before it ends the stage in progress: slices handed on, and otherwise nothing that the end looks at but
the tracker's depths. -/
structure State.Settled (s u : State) (b : Boom) (cs : List ClosedSlice) : Prop where
  apart : s.elsewhere u b
  flags : s.flagged u (s.slicesFlag b cs)
  arbiter : u.arbiter = s.arbiter
  row : u.rowMap = s.rowMap
  holes : u.holeLog = s.holeLog
  faults : u.faultLog = s.faultLog
  ctl : (u.boom b).ctl = { (s.boom b).ctl with hole := (u.boom b).ctl.hole }
  hole : (u.boom b).ctl.hole.map HoleRecord.fault = (s.boom b).ctl.hole.map HoleRecord.fault
  strata : (u.boom b).strata = s.handed b cs
  anchorage : (u.boom b).anchorage = (s.boom b).anchorage
  contact : (u.boom b).tracker.contactSeen = (s.boom b).tracker.contactSeen

theorem State.Settled.state {s u : State} {b : Boom} {cs : List ClosedSlice} (h : s.Settled u b cs) :
    (u.boom b).ctl.state = (s.boom b).ctl.state := by rw [h.ctl]

/-- The tracker's own work goes beside it. -/
theorem State.Settled.modTracker {s u : State} {b : Boom} {cs : List ClosedSlice} (h : s.Settled u b cs)
    {f : DepthTracker → DepthTracker} (hf : (f (u.boom b).tracker).contactSeen = (u.boom b).tracker.contactSeen) :
    s.Settled (u.modTracker b f) b cs where
  apart := elsewhere_trans h.apart (elsewhere_modBoom u b _)
  flags := h.flags.before fun p => by simp
  arbiter := by simpa using h.arbiter
  row := by simpa using h.row
  holes := by simpa using h.holes
  faults := by simpa using h.faults
  ctl := by simpa using h.ctl
  hole := by simpa using h.hole
  strata := by simpa [BoomUnit.strata] using h.strata
  anchorage := by simpa using h.anchorage
  contact := by simpa [hf] using h.contact

/-- A sample that finds no test to make hands no slice on. -/
theorem settled_sampled (s : State) (b : Boom) (x : Sample) : s.Settled (s.sampled b x) b [] where
  apart := (worked_sampled s b x).apart
  flags := by rw [slicesFlag_nil]; exact .of_ports fun p => by simp [State.sampled]
  arbiter := by simp [State.sampled]
  row := by simp [State.sampled]
  holes := by simp [State.sampled]
  faults := by simp [State.sampled]
  ctl := by simp [State.sampled]
  hole := by simp [State.sampled]
  strata := by simp [State.sampled, BoomUnit.strata, handed_eq]
  anchorage := anchorage_sampled s b x
  contact := (depth_sampled s b x).2

/-- A sample behind contact hands on the slices that it closes at boundaries. -/
theorem settled_drilledOn (s : State) (b : Boom) (x : Sample) : s.Settled (s.drilledOn b x) b (s.cutsAt b x) := by
  obtain ⟨arbiter, row, ⟨holes, faults⟩, flags⟩ := drilledOn_keeps s b x
  have boom := boom_drilledOn s b x
  have grounded : s.elsewhere (s.grounded b x) b := elsewhere_trans (worked_sampled s b x).apart (elsewhere_modBoom _ b _)
  refine ⟨?_, flags, arbiter, row, holes, faults, ?_, ?_, ?_, ?_, ?_⟩
  · exact elsewhere_trans grounded (elsewhere_trans (elsewhere_handSlices _ b _) (elsewhere_modBoom _ b _))
  · rw [boom]; rfl
  · rw [boom]
    simp only [BoomUnit.withSlices]
    cases (s.boom b).ctl.hole <;> rfl
  · rw [boom]; rfl
  · rw [boom]; rfl
  · rw [boom]; simp [State.sampledTracker, State.sampled]

/-! ### The end in a wait state -/

/-- A stage that ends in a wait state, with the slices settled in the act (R30, R83): what every such end does. -/
structure State.EndsIn (s t : State) (b : Boom) (e : StageEnd) (w : BoomState) (cs : List ClosedSlice) (deepest : Nat) : Prop where
  apart : s.elsewhere t b
  ctl : { (t.boom b).ctl with hole := none } = { (s.boom b).ctl.enterWait s.params.plan w with hole := none }
  hole : (t.boom b).ctl.hole.map HoleRecord.fault = (e.marks (s.boom b).ctl.hole).map HoleRecord.fault
  kinds : t.demandKinds b = []
  stageEnd : s.enabled b = true → (t.port b.port).causes.c3 = true
  flow : s.flowFlags t
  row : t.rowMap = s.rowMap
  holes : t.holeLog = s.holeLog
  strata : (t.boom b).strata = s.handed b cs
  slices : s.sliceFlags t b cs
  slice : (s.boom b).ctl.state.cutsGround = true → (t.boom b).tracker.slice = none ∧ (t.boom b).tracker.stallCount = 0
  anchorage : (t.boom b).anchorage =
    if (s.boom b).ctl.state = .drilling then
      some (evaluate s.params.plan (s.calib b).kt (t.boom b).classifier.layers deepest
        (((s.boom b).anchorage.map Anchorage.evaluations).getD 0) e.reason)
    else (s.boom b).anchorage

theorem State.EndsIn.state {s t : State} {b : Boom} {e : StageEnd} {w : BoomState} {cs : List ClosedSlice} {n : Nat}
    (h : s.EndsIn t b e w cs n) : (t.boom b).ctl.state = w := (congrArg Controller.state h.ctl :)

theorem State.EndsIn.run {s t : State} {b : Boom} {e : StageEnd} {w : BoomState} {cs : List ClosedSlice} {n : Nat}
    (h : s.EndsIn t b e w cs n) : (t.boom b).ctl.run = none := (congrArg Controller.run h.ctl :)

theorem State.EndsIn.between {s t : State} {b : Boom} {e : StageEnd} {w : BoomState} {cs : List ClosedSlice} {n : Nat}
    (h : s.EndsIn t b e w cs n) (hw : w.waitsBetween = true) :
    (t.boom b).ctl.betweenStage = if s.params.plan.betweenCode = 0 then none else some 0 := by
  have between : (t.boom b).ctl.betweenStage = ((s.boom b).ctl.enterWait s.params.plan w).betweenStage :=
    (congrArg Controller.betweenStage h.ctl :)
  rw [between, betweenStage_enterWait _ _ hw]

theorem endsIn_endStage {s u : State} {b : Boom} {cs : List ClosedSlice} (hu : s.Settled u b cs) {e : StageEnd} {w : BoomState}
    (he : e ≠ .resetAbort) (lead : destination (s.boom b).ctl.state (s.boom b).tracker.contactSeen e = .wait w) (x : Option Nat)
    (st : BoomState × Option RunCondition) :
    s.EndsIn (u.endStage b e x st) b e w (cs ++ u.settledNow b) (u.boom b).tracker.maxDepth := by
  have back : u.backdrop = s.backdrop := hu.apart.1
  have plan : u.params = s.params := congrArg Backdrop.params back
  have leads : destination (u.boom b).ctl.state (u.boom b).tracker.contactSeen e = .wait w := by rw [hu.state, hu.contact]; exact lead
  obtain ⟨hctl, hrow, hholes⟩ := endStage_wait u b leads x st
  obtain ⟨on, flags⟩ := flagged_endStage_wait he leads x st
  have boom := boom_endStage_wait leads x st
  obtain ⟨cback, -⟩ := stageCut_keeps u b e
  obtain ⟨cstrata, ctr, cst, canch⟩ := stageCut_boom u b e
  obtain ⟨hstrata, hslice, hfault, hanch⟩ := boom_settleStage (s := u.stageCut b e) (b := b) he
  rw [settledNow_congr cst ctr, handed_congr cback cstrata] at hstrata hanch
  rw [cst] at hstrata hslice hfault hanch
  have strata : ((u.endStage b e x st).boom b).strata = s.handed b (cs ++ u.settledNow b) := by
    rw [boom, ← handed_append back hu.strata]; exact hstrata
  have slices : s.flagged (u.endStage b e x st) (bothFlags (flowOn on)
      (bothFlags (s.slicesFlag b (cs ++ u.settledNow b)) (s.reportFlag b e))) := fun p => by
    rw [(hu.flags.trans flags) p, reportFlag_congr (straps_of_backdrop back)]
    simp only [← slicesFlag_append back hu.strata, bothFlags, Causes.join, Bool.or_left_comm, Bool.or_assoc]
  refine ⟨elsewhere_trans hu.apart (elsewhere_endStage u b e x st), ?_, ?_, kinds_endStage u b e x st, fun hen => ?_, fun p => ?_,
    hrow.trans hu.row, hholes.trans hu.holes, strata, ?_, fun hc => ?_, ?_⟩
  · rw [hctl, hu.ctl, plan]; rfl
  · have hole : ((u.stageCut b e).boom b).ctl.hole = e.marks (u.boom b).ctl.hole := by rw [boom_stageCut]
    rw [boom]
    refine hfault.trans ?_
    rw [hole]
    have faults := hu.hole
    unfold StageEnd.marks
    cases e.code with
    | none => exact faults
    | some f =>
      have marked (o : Option HoleRecord) : (o.map fun h => { h with fault := some f }).map HoleRecord.fault =
          (o.map HoleRecord.fault).map fun _ => some f := by cases o <;> rfl
      exact (marked _).trans ((congrArg _ faults).trans (marked _).symm)
  · exact stageEnd_endStage u b he x st (by rw [enabled_congr (straps_of_backdrop back)]; exact hen)
  · have raised := flowFlags_endStage u b he x st p
    have same : (u.port p).causes.c4 = (s.port p).causes.c4 := by
      rw [hu.flags.causes p]
      simp [Causes.join, bothFlags, State.slicesFlag, boomFlag_eq, wearFlag_eq, Causes.put, Causes.clear, BoomCause.code]
    rw [same, hu.arbiter, absentPort_congr (straps_of_backdrop back)] at raised
    exact raised
  · have own := waitFlags_eq s b on (cs ++ u.settledNow b) e b.port
    have machine := waitFlags_eq s b on (cs ++ u.settledNow b) e .machine
    simpa [State.sliceFlags] using sliceFlags_of (turned := false) slices (by rw [own.1]; simp) (by rw [own.2.1]; simp)
      (by rw [machine.2.2]; simp)
  · rw [boom]
    exact hslice (by rw [hu.state]; exact hc)
  · have classifier : ((u.endStage b e x st).boom b).classifier = (u.handed b (u.settledNow b)).1 := by
      rw [handed_append back hu.strata]; exact congrArg Prod.fst strata
    rw [classifier, boom]
    simp only []
    rw [hanch, ctr, canch, show (u.stageCut b e).params = u.params from congrArg Backdrop.params cback, plan,
      calib_of_backdrop (cback.trans back), hu.state, hu.anchorage]

/-- The record of a boom fault depends on the boom's stance, the counter and the requests. -/
theorem faultWritten_between {s u t : State} {b : Boom} {f : FaultCode} {x : Option Nat} (h : u.faultWritten t b f x)
    (hb : u.backdrop = s.backdrop) (hs : u.stance b = s.stance b) (hl : u.faultLog = s.faultLog) : s.faultWritten t b f x := by
  obtain ⟨hrec, hflag⟩ := h
  refine ⟨?_, by rw [← enabled_congr (straps_of_backdrop hb)]; exact hflag⟩
  have stance : ((u.boom b).ctl.state, (u.boom b).ctl.run) = ((s.boom b).ctl.state, (s.boom b).ctl.run) := hs
  rw [hrec, hl]
  unfold State.faultRecord
  rw [stance, recent_of_backdrop hb, show u.millis = s.millis from congrArg Backdrop.millis hb]

theorem State.Settled.stance {s u : State} {b : Boom} {cs : List ClosedSlice} (h : s.Settled u b cs) : u.stance b = s.stance b := by
  unfold State.stance
  rw [h.ctl]

/-- A fault that ends the stage is recorded as the sample found the boom. -/
theorem faultWritten_settled {s u : State} {b : Boom} {cs : List ClosedSlice} (hu : s.Settled u b cs) (f : FaultCode) :
    s.faultWritten (u.endStage b (.fault f) none (u.stance b)) b f none :=
  faultWritten_between (faultWritten_endStage u b f none) hu.apart.1 hu.stance hu.faults

/-- A success writes no record, and leaves the stop latch and the fault of the hole. -/
theorem unfaulted_success {s u : State} {b : Boom} {cs : List ClosedSlice} (hu : s.Settled u b cs) (st : BoomState × Option RunCondition) :
    (u.endStage b .success none st).faultLog = s.faultLog ∧ ((u.endStage b .success none st).boom b).link = (u.boom b).link :=
  ⟨((faultLog_endStage u b .success none st).2 fun _ h => nomatch h).trans hu.faults, by rw [link_endStage, if_pos rfl]⟩

end Sys2Proof.Machine

/-! ## The stall, the goals and the early plate (O28, O29, O45) -/
namespace Sys2Proof.Machine

/-! ### The take that a sample's end comes about in -/

theorem take_of_end {s : State} {b : Boom} {x : Sample} {e : SampleEnd} (hn : s.nextSample b x) (ha : (s.boom b).tracker.accepts x)
    (h : sampleEnd (s.sampleCounted b x) b (s.sampleTracked b x) = some e) :
    (s.take b).state = (s.sampleCounted b x).endOnSample b e ∧ (s.take b).ended = some e := by
  refine ⟨by rw [take_of_sample hn ha, h], ?_⟩
  obtain ⟨p, rest, hf, hl, rfl⟩ := hn
  have tracked : (s.modLink b HeadLink.takeOldest).track b (readSample p) = s.sampleTracked b (readSample p) := by
    rw [track_of_accepted (by rw [accepts_iff] at ha; simpa using ha)]
    simp only [boom_modLink_same]
    rw [show (s.modLink b HeadLink.takeOldest).calib b = s.calib b from congrFun (calib_entryTaken s b) b]
    rfl
  rw [State.sampleCounted] at h
  unfold State.take
  rw [hf]
  simp only [classifyEntry_readSample hl, tracked,
    show (s.sampleTracked b (readSample p)).processed = true from processed_trackRuns _ _ _ _ _ _, if_true, h]

/-! ### A bit behind contact -/

/-- The state behind the boundaries and a stall run. -/
def State.judgedOn (s : State) (b : Boom) (x : Sample) (run : Nat × Nat) : State :=
  (s.drilledOn b x).modTracker b fun t => { t with stallCount := run.1, stallBase := run.2 }

theorem judgedOn_eq (s : State) (b : Boom) (x : Sample) (run : Nat × Nat) :
    s.judgedOn b x run = (s.cutOn b x).modTracker b fun t => { t with stallCount := run.1, stallBase := run.2 } := by
  rw [State.judgedOn, drilledOn_eq, modTracker_modTracker]

theorem settled_judgedOn (s : State) (b : Boom) (x : Sample) (run : Nat × Nat) : s.Settled (s.judgedOn b x run) b (s.cutsAt b x) :=
  (settled_drilledOn s b x).modTracker rfl

theorem boom_judgedOn (s : State) (b : Boom) (x : Sample) (run : Nat × Nat) :
    ((s.judgedOn b x run).boom b).tracker.maxDepth = s.deepestAfter b x ∧
      ((s.judgedOn b x run).boom b).tracker.depth = s.depthAfter b x ∧
      ((s.judgedOn b x run).boom b).tracker.encoderRef = some x.count ∧
      ((s.judgedOn b x run).boom b).tracker.slice = s.openAfter b x ∧
      ((s.judgedOn b x run).boom b).link = ((s.sampled b x).boom b).link ∧
      ((s.judgedOn b x run).boom b).ctl.hole.map HoleRecord.planDepth = (s.boom b).ctl.hole.map HoleRecord.planDepth := by
  rw [State.judgedOn, boom_modTracker_same, boom_drilledOn]
  refine ⟨rfl, by simp [State.sampledTracker, State.sampled], by simp [State.sampledTracker, State.sampled], rfl, rfl, ?_⟩
  simp only [BoomUnit.withSlices]
  cases (s.boom b).ctl.hole <;> rfl

theorem link_judgedOn (s : State) (b : Boom) (x : Sample) (run : Nat × Nat) :
    ((s.judgedOn b x run).boom b).link = ((s.sampled b x).boom b).link := by
  obtain ⟨-, -, -, -, link, -⟩ := boom_judgedOn s b x run
  exact link

/-- The open slice that the end behind the sample settles joins the slices closed at boundaries (R29, R30). -/
theorem settledAt_judgedOn {s : State} {b : Boom} (hc : (s.boom b).ctl.state.cutsGround = true) (x : Sample) (run : Nat × Nat) :
    s.cutsAt b x ++ (s.judgedOn b x run).settledNow b = s.settledAt b x := by
  obtain ⟨maxDepth, -, -, slice, -⟩ := boom_judgedOn s b x run
  unfold State.settledNow State.settledAt
  simp only [(settled_judgedOn s b x run).state, maxDepth, slice, (cutsGround_iff _).1 hc, if_true]

/-- R31 reports the stall on the 250th sample, which is the one that would bring the run to 250. -/
theorem stallStep_stalls {s : State} {b : Boom} {x : Sample} (hst : (s.boom b).ctl.state = .drilling)
    (hr : (s.boom b).ctl.run = some .running) (h : 250 ≤ (s.stallAfter b x).1) :
    (stallStep (s.boom b).tracker.stallCount (s.boom b).tracker.stallBase (s.boom b).tracker.maxDepth (s.deepestAfter b x)
        (decide (((s.boom b).tracker.maxDepth : Int) - 800 ≤ s.depthAfter b x) &&
          decide (s.params.plan.stallPressure ≤ x.feed - (s.boom b).tracker.z))).2.2 = true := by
  rw [stallAfter_running hst hr] at h
  unfold stallStep
  rw [show (if (s.boom b).tracker.stallCount = 0 then (s.boom b).tracker.maxDepth else (s.boom b).tracker.stallBase) =
    (s.boom b).tracker.stallFrom from rfl]
  by_cases hq : ((s.boom b).tracker.maxDepth : Int) - 800 ≤ s.depthAfter b x ∧
      s.params.plan.stallPressure ≤ x.feed - (s.boom b).tracker.z
  · rw [if_pos hq] at h
    by_cases hd : s.deepestAfter b x < (s.boom b).tracker.stallFrom + 800
    · rw [if_pos hd] at h
      rw [if_pos (by simpa using hq), if_neg (by omega), if_pos h]
    · rw [if_neg hd] at h; omega
  · rw [if_neg hq] at h; omega

/-- In COLLARING and DRILLING behind contact: the boundaries, and a stall run with its report. -/
theorem tracked_judged {s : State} {b : Boom} (hs : (s.boom b).tracker.contactSeen = true)
    (hc : (s.boom b).ctl.state.cutsGround = true) (x : Sample) :
    ∃ run stall, s.sampleTracked b x = { idleTracked (s.judgedOn b x run) (s.sampleRaises b x) with stall } ∧
      ((s.boom b).ctl.state = .drilling → (s.boom b).ctl.run = some .running → 250 ≤ (s.stallAfter b x).1 → stall = true) := by
  by_cases hi : (s.boom b).ctl.run = some .running ∧ (s.boom b).ctl.state = .drilling
  · obtain ⟨hr, hd⟩ := hi
    obtain ⟨tracker, ctl, -, plan⟩ := boom_cutOn s b x
    have face := sampleFace_eq s b x
    have tested : s.sampleTested b x = true := by simp [State.sampleTested, hs, hc]
    rw [tested, Bool.true_and] at face
    have k : ((s.cutOn b x).boom b).tracker.stallCount = (s.boom b).tracker.stallCount ∧
        ((s.cutOn b x).boom b).tracker.stallBase = (s.boom b).tracker.stallBase ∧
        ((s.cutOn b x).boom b).tracker.maxDepth = s.deepestAfter b x ∧
        ((s.cutOn b x).boom b).tracker.corrected x = x.feed - (s.boom b).tracker.z := by
      rw [tracker, tracker_grounded]; simp [DepthTracker.corrected, State.sampledTracker, State.sampled]
    obtain ⟨k1, k2, k3, k4⟩ := k
    have state : ((s.cutOn b x).boom b).ctl.state = .drilling ∧ ((s.cutOn b x).boom b).ctl.run = some .running := by
      rw [ctl]; exact ⟨hd, hr⟩
    have stalls := stallStep_stalls (x := x) hd hr
    generalize step : stallStep (s.boom b).tracker.stallCount (s.boom b).tracker.stallBase (s.boom b).tracker.maxDepth
      (s.deepestAfter b x) (decide (((s.boom b).tracker.maxDepth : Int) - 800 ≤ s.depthAfter b x) &&
        decide (s.params.plan.stallPressure ≤ x.feed - (s.boom b).tracker.z)) = r at stalls
    refine ⟨(r.1, r.2.1), r.2.2, ?_, fun _ _ h => stalls h⟩
    unfold State.sampleTracked
    rw [workedOn_cutting hc hs, ← State.cutOn]
    unfold State.trackRuns
    simp only [state, k1, k2, k3, k4, plan, face, step]
    rw [judgedOn_eq]
    rfl
  · have still : s.stallAfter b x = ((s.boom b).tracker.stallCount, (s.boom b).tracker.stallBase) := if_neg fun h => hi ⟨h.2, h.1⟩
    refine ⟨s.stallAfter b x, false, ?_, fun hd hr => absurd ⟨hr, hd⟩ hi⟩
    have same : s.judgedOn b x (s.stallAfter b x) = s.drilledOn b x := by rw [judgedOn_eq, drilledOn_eq]
    have cut : s.drilledOn b x = s.cutOn b x := by
      obtain ⟨tracker, -⟩ := boom_cutOn s b x
      rw [drilledOn_eq, still]
      exact modTracker_self (by rw [tracker, tracker_grounded]; simp [State.sampledTracker, State.sampled])
    obtain ⟨-, ctl, -⟩ := boom_cutOn s b x
    unfold State.sampleTracked
    rw [same, cut, workedOn_cutting hc hs, ← State.cutOn, trackRuns_idle ?_]
    · rfl
    · rw [ctl]
      have : (s.boom b).ctl.state ≠ .inserting := fun h => by rw [h] at hc; cases hc
      simp only []
      tauto

/-- What the controller judges on such a sample. -/
theorem counted_judged {s : State} {b : Boom} {x : Sample} {run : Nat × Nat} {stall : Bool} (hc : (s.boom b).ctl.state.cutsGround = true)
    (h : s.sampleTracked b x = { idleTracked (s.judgedOn b x run) (s.sampleRaises b x) with stall }) :
    s.sampleCounted b x = s.judgedOn b x run := by
  rw [State.sampleCounted, h]
  refine countSample_idle (.inr ?_) x
  rw [show ({ idleTracked (s.judgedOn b x run) (s.sampleRaises b x) with stall } : Tracked).state = s.judgedOn b x run from rfl,
    (settled_judgedOn s b x run).state]
  rcases (cutsGround_iff _).1 hc with h | h <;> rw [h] <;> simp

/-- A sample that ends COLLARING or DRILLING: the act behind the slices that it closes. -/
theorem ends_judged {s : State} {b : Boom} (hc : (s.boom b).ctl.state.cutsGround = true) {e : StageEnd} {w : BoomState}
    (he : e ≠ .resetAbort) (lead : destination (s.boom b).ctl.state (s.boom b).tracker.contactSeen e = .wait w) (x : Sample)
    (run : Nat × Nat) (d : Option Nat) (st : BoomState × Option RunCondition) :
    s.EndsIn ((s.judgedOn b x run).endStage b e d st) b e w (s.settledAt b x) (s.deepestAfter b x) := by
  have ends := endsIn_endStage (settled_judgedOn s b x run) he lead d st
  rw [settledAt_judgedOn hc, (boom_judgedOn s b x run).1] at ends
  exact ends

/-- The depths and the reference behind such an end. -/
theorem tracker_judgedEnd (s : State) (b : Boom) (x : Sample) (run : Nat × Nat) (e : StageEnd) (d : Option Nat)
    (st : BoomState × Option RunCondition) :
    (((s.judgedOn b x run).endStage b e d st).boom b).tracker.depth = s.depthAfter b x ∧
      (((s.judgedOn b x run).endStage b e d st).boom b).tracker.maxDepth = s.deepestAfter b x ∧
      (((s.judgedOn b x run).endStage b e d st).boom b).tracker.encoderRef = some x.count := by
  have core := core_endStage (s.judgedOn b x run) b e d st
  obtain ⟨maxDepth, depth, ref, -⟩ := boom_judgedOn s b x run
  exact ⟨(depth_of_core core).trans depth, (maxDepth_of_core core).trans maxDepth, (congrArg DepthTracker.encoderRef core :).trans ref⟩

/-- The end that a sample in DRILLING brings (R85). -/
theorem sampleEnd_drilling {s : State} {b : Boom} {x : Sample} {run : Nat × Nat} {stall : Bool}
    (hst : (s.boom b).ctl.state = .drilling) :
    sampleEnd (s.judgedOn b x run) b { idleTracked (s.judgedOn b x run) (s.sampleRaises b x) with stall } =
      if 2040000 ≤ s.deepestAfter b x then some .depthLimit
      else if s.sampleRaises b x = true ∧ ((s.boom b).ctl.hole.map HoleRecord.planDepth).getD 0 * 800 ≤ s.deepestAfter b x
        then some .depthReached
      else if stall = true then some .stalled else none := by
  obtain ⟨maxDepth, -, -, -, -, hole⟩ := boom_judgedOn s b x run
  unfold sampleEnd
  simp only [(settled_judgedOn s b x run).state, hst, maxDepth, hole, depthLimitUnits, idleTracked]

/-- Settles O28: the run of 250 is reported, and neither of the depth's own tests comes before it (R85). -/
theorem theStallRunEndsDrilling : Obligations.TheStallRunEndsDrilling := by
  unfold Obligations.TheStallRunEndsDrilling
  intro b s x hn ha u deepest hst hr hs limit plan run250
  have hc : (s.boom b).ctl.state.cutsGround = true := by rw [show (s.boom b).ctl.state = _ from hst]; rfl
  obtain ⟨run, stall, tracked, stalls⟩ := tracked_judged hs hc x
  have counted := counted_judged hc tracked
  have short : ¬(s.sampleRaises b x = true ∧ ((s.boom b).ctl.hole.map HoleRecord.planDepth).getD 0 * 800 ≤ s.deepestAfter b x) := by
    rintro ⟨hraise, hplan⟩
    rcases plan with same | ⟨h, hh, below⟩
    · exact ((sampleRaises_iff s b x).1 hraise).2.ne same.symm
    · rw [show (s.boom b).ctl.hole = some h from hh] at hplan
      exact absurd hplan (by simpa using below)
  have ended : sampleEnd (s.sampleCounted b x) b (s.sampleTracked b x) = some .stalled := by
    rw [counted, tracked, sampleEnd_drilling hst, if_neg (by omega), if_neg short, if_pos (stalls hst hr run250)]
  obtain ⟨state, comesAbout⟩ := take_of_end hn ha ended
  rw [counted] at state
  have row : exec (.stall b) s = .next (s.take b).state := by
    show Host.Outcome.next (takeWhen s b _) = _
    rw [takeWhen, comesAbout]
    rfl
  have lead : destination (s.boom b).ctl.state (s.boom b).tracker.contactSeen (.fault .stall) = .wait .drilled := by
    rw [show (s.boom b).ctl.state = _ from hst]; rfl
  have ends := ends_judged hc (by simp) lead x run none ((s.judgedOn b x run).stance b)
  obtain ⟨depth, maxDepth, ref⟩ := tracker_judgedEnd s b x run (.fault .stall) none ((s.judgedOn b x run).stance b)
  have written := faultWritten_settled (settled_judgedOn s b x run) .stall
  have link := link_endStage (s.judgedOn b x run) b (.fault .stall) none ((s.judgedOn b x run).stance b)
  rw [link_judgedOn, if_neg (by simp)] at link
  refine ⟨_, row.trans (by rw [state]), congrArg Host.Outcome.next state, ends.apart, ends.state, ends.run, (ends.slice hc).1,
    (ends.slice hc).2, depth, maxDepth, ref, link, ends.anchorage.trans (if_pos hst), written, ends.strata, ends.slices, ends.stageEnd,
    ends.kinds, ends.flow, ends.hole.trans ?_, ends.between rfl, ends.row, ends.holes⟩
  simp only [StageEnd.marks, StageEnd.code, Option.map_map]
  rfl

end Sys2Proof.Machine

/-! ## The goals of the stages, the block run and the early plate (O29, O45) -/
namespace Sys2Proof.Machine

/-! ### INSERTING -/

/-- The state behind a sample in INSERTING, with the block run as given. -/
def State.insertedOn (s : State) (b : Boom) (x : Sample) (run : Nat) : State :=
  (s.sampled b x).modTracker b fun k => { k with blockRun := run }

theorem settled_insertedOn (s : State) (b : Boom) (x : Sample) (run : Nat) : s.Settled (s.insertedOn b x run) b [] :=
  (settled_sampled s b x).modTracker rfl

theorem ctl_insertedOn (s : State) (b : Boom) (x : Sample) (run : Nat) : ((s.insertedOn b x run).boom b).ctl = (s.boom b).ctl := by
  simp [State.insertedOn, ctl_sampled]

theorem boom_insertedOn (s : State) (b : Boom) (x : Sample) (run : Nat) :
    ((s.insertedOn b x run).boom b).tracker.blockRun = run ∧
      ((s.insertedOn b x run).boom b).tracker.depth = s.depthAfter b x ∧
      ((s.insertedOn b x run).boom b).tracker.maxDepth = (s.boom b).tracker.maxDepth ∧
      ((s.insertedOn b x run).boom b).tracker.encoderRef = some x.count ∧
      ((s.insertedOn b x run).boom b).link = ((s.sampled b x).boom b).link := by
  simp [State.insertedOn, State.sampled]

theorem readied_insertedOn (s : State) (b : Boom) (x : Sample) (run : Nat) : s.Readied (s.insertedOn b x run) b := by
  constructor <;> simp [State.insertedOn, State.sampled, BoomUnit.strata]

/-- The block run of R32 reaches its limit where the sample would bring it to 150. -/
theorem blockStep_blocks {s : State} {b : Boom} {x : Sample} {a : Anchorage} (h : 150 ≤ s.blockAfter b x a) :
    blockStep (s.boom b).tracker.blockRun (decide (s.depthAfter b x < ((a.d : Int) - 150) * 800) &&
      decide (s.params.plan.blockPressure ≤ x.feed - (s.boom b).tracker.z)) = (0, true) := by
  unfold State.blockAfter at h
  unfold blockStep
  simp only [Bool.and_eq_true, decide_eq_true_eq]
  by_cases hq : s.depthAfter b x < ((a.d : Int) - 150) * 800 ∧ s.params.plan.blockPressure ≤ x.feed - (s.boom b).tracker.z
  · rw [if_pos hq] at h
    rw [if_pos hq, if_pos h]
  · rw [if_neg hq] at h; omega

/-- At or beyond the insert line a sample ends the block run (R32). -/
theorem blockStep_beyond {s : State} {b : Boom} {x : Sample} {a : Anchorage} (h : ((a.d : Int) - 150) * 800 ≤ s.depthAfter b x) :
    blockStep (s.boom b).tracker.blockRun (decide (s.depthAfter b x < ((a.d : Int) - 150) * 800) &&
      decide (s.params.plan.blockPressure ≤ x.feed - (s.boom b).tracker.z)) = (0, false) := by
  unfold blockStep
  rw [decide_eq_false (not_lt.2 h)]
  rfl

/-- What the tracker makes of a sample in INSERTING (R32). -/
theorem tracked_inserting {s : State} {b : Boom} {a : Anchorage} (hanch : (s.boom b).anchorage = some a)
    (hr : (s.boom b).ctl.run = some .running) (hst : (s.boom b).ctl.state = .inserting) (x : Sample) {run : Nat} {block : Bool}
    (step : blockStep (s.boom b).tracker.blockRun (decide (s.depthAfter b x < ((a.d : Int) - 150) * 800) &&
      decide (s.params.plan.blockPressure ≤ x.feed - (s.boom b).tracker.z)) = (run, block)) :
    s.sampleTracked b x =
      { idleTracked (s.insertedOn b x run) (s.sampleRaises b x) with
        block, plate := if x.plate then (if s.depthAfter b x < ((a.d : Int) - 150) * 800 then .early else .inPlace) else .none } ∧
      s.sampleCounted b x = s.insertedOn b x run := by
  have ctl := ctl_sampled s b x
  have line : ((s.sampled b x).boom b).insertLine = ((a.d : Int) - 150) * 800 := by
    simp [BoomUnit.insertLine, anchorage_sampled, hanch]
  have k : ((s.sampled b x).boom b).tracker.blockRun = (s.boom b).tracker.blockRun ∧
      ((s.sampled b x).boom b).tracker.corrected x = x.feed - (s.boom b).tracker.z := by simp [State.sampled, DepthTracker.corrected]
  have tracked : s.sampleTracked b x =
      { idleTracked (s.insertedOn b x run) (s.sampleRaises b x) with
        block, plate := if x.plate then (if s.depthAfter b x < ((a.d : Int) - 150) * 800 then .early else .inPlace) else .none } := by
    unfold State.sampleTracked
    rw [workedOn_untested (untested_of_uncut (by rw [hst]; rfl) x)]
    unfold State.trackRuns
    simp only [ctl, hr, hst, line, k, params_sampled, depth_sampled, step, decide_eq_true_eq]
    rfl
  refine ⟨tracked, ?_⟩
  rw [State.sampleCounted, tracked]
  exact countSample_idle (.inr (by simp [idleTracked, ctl_insertedOn, hst])) x

/-- The end that a sample in INSERTING brings: the block run before the plate (R86). -/
theorem sampleEnd_inserting {s : State} {b : Boom} (hst : (s.boom b).ctl.state = .inserting) (x : Sample) (run : Nat) (raised block : Bool)
    (plate : Plate) :
    sampleEnd (s.insertedOn b x run) b { idleTracked (s.insertedOn b x run) raised with block, plate } =
      if block = true then some .blockedByRun
      else match plate with
        | .early => some .blockedEarly
        | .inPlace => some .inPlace
        | .none => none := by
  unfold sampleEnd
  cases plate <;> simp only [ctl_insertedOn, hst]

/-- A hole that INSERTING closes as blocked (R86, R101, R102). -/
theorem closes_insertedOn {s : State} {b : Boom} {h : HoleRecord} (hh : (s.boom b).ctl.hole = some h)
    (hst : (s.boom b).ctl.state = .inserting) (x : Sample) (run : Nat) :
    let u := s.insertedOn b x run
    let t := u.endStage b (.fault .insertBlocked) none (u.stance b)
    s.elsewhere t b ∧ s.closedWith t b h .f (some .insertBlocked) h.torque ∧ s.faultWritten t b .insertBlocked none ∧
      (s.enabled b = true → (t.port b.port).causes.c3 = true) ∧ s.flowFlags t ∧
      (t.boom b).tracker.blockRun = run ∧ (t.boom b).tracker.depth = s.depthAfter b x ∧ (t.boom b).tracker.encoderRef = some x.count ∧
      (t.boom b).link = { ((s.sampled b x).boom b).link with stopLatch := true } := by
  intro u t
  have ready : s.Readied u b := readied_insertedOn s b x run
  have done := State.Followed.refl t b
  have settled := settled_insertedOn s b x run
  have hcut : (s.boom b).ctl.state.cutsGround = false := by rw [hst]; rfl
  have closed := closedWith_endStage u b (h := h) (by rw [ready.ctl]; exact hh) (by rw [ready.ctl]; exact hcut)
    (e := .fault .insertBlocked) (how := .failed) (by rw [ready.ctl, hst]; rfl) none (u.stance b)
  have torque : (StageEnd.fault .insertBlocked).torqueAfter (u.boom b).ctl.state h.torque = h.torque := by
    rw [ready.ctl, hst]; rfl
  rw [torque] at closed
  obtain ⟨blockRun, depth, -, ref, link⟩ := boom_insertedOn s b x run
  have core := core_endStage u b (.fault .insertBlocked) none (u.stance b)
  refine ⟨elsewhere_trans settled.apart (elsewhere_endStage u b _ _ _), closedWith_between ready done hcut closed,
    faultWritten_settled settled .insertBlocked, fun hen => ?_, flowFlags_between ready done (flowFlags_endStage u b (by simp) _ _),
    (congrArg DepthTracker.blockRun core :).trans blockRun, (depth_of_core core).trans depth,
    (congrArg DepthTracker.encoderRef core :).trans ref, ?_⟩
  · exact stageEnd_endStage u b (by simp) _ _ (by rw [enabled_congr (straps_of_backdrop ready.back)]; exact hen)
  · rw [link_endStage, if_neg (by simp), link]

/-- Settles O29: the block run reports, and its report comes before the plate's (R86). -/
theorem theBlockRunClosesTheHole : Obligations.TheBlockRunClosesTheHole := by
  unfold Obligations.TheBlockRunClosesTheHole
  intro b s x a h hn ha hst hr hanch hh blocked
  obtain ⟨tracked, counted⟩ := tracked_inserting hanch hr hst x (blockStep_blocks blocked)
  have ended : sampleEnd (s.sampleCounted b x) b (s.sampleTracked b x) = some .blockedByRun := by
    rw [counted, tracked, sampleEnd_inserting hst, if_pos rfl]
  obtain ⟨state, comesAbout⟩ := take_of_end hn ha ended
  rw [counted] at state
  have row : exec (.block b) s = .next (s.take b).state := by
    show Host.Outcome.next (takeWhen s b _) = _
    rw [takeWhen, comesAbout]
    rfl
  exact ⟨_, row.trans (by rw [state]), congrArg Host.Outcome.next state, closes_insertedOn hh hst x 0⟩

/-! ### The goals -/

/-- The state behind a sample in RETRACTING that reaches the clear distance: its cartridge count is the base (R33). -/
def State.clearOn (s : State) (b : Boom) (x : Sample) : State :=
  (s.sampled b x).modTracker b fun t => { t with cartridgeBase := t.latestCartridge }

/-- The clear distance ends RETRACTING (R85). -/
theorem take_of_clear {s : State} {b : Boom} {x : Sample} (hn : s.nextSample b x) (ha : (s.boom b).tracker.accepts x)
    (hst : (s.boom b).ctl.state = .retracting) (hd : s.depthAfter b x ≤ -((s.params.plan.clearDistance * 800 : Nat) : Int)) :
    (s.take b).state = (s.clearOn b x).endStage b .success none ((s.sampled b x).stance b) := by
  obtain ⟨tracked, counted⟩ := sampled_idle (untested_of_uncut (by rw [hst]; rfl) x) (.inr (by rw [hst]; simp))
  obtain ⟨depth, -⟩ := depth_sampled s b x
  have ended : sampleEnd (s.sampleCounted b x) b (s.sampleTracked b x) = some .clear := by
    rw [counted, tracked]
    unfold sampleEnd
    simp only [ctl_sampled, hst, depth, params_sampled]
    rw [if_pos hd]
  rw [(take_of_end hn ha ended).1, counted]
  rfl

/-- The collar depth ends COLLARING (R84). -/
theorem take_of_collared {s : State} {b : Boom} {x : Sample} (hn : s.nextSample b x) (ha : (s.boom b).tracker.accepts x)
    (hst : (s.boom b).ctl.state = .collaring) (hs : (s.boom b).tracker.contactSeen = true)
    (hd : ((s.params.plan.collarDepth * 800 : Nat) : Int) ≤ s.depthAfter b x) :
    ∃ run, (s.take b).state = (s.judgedOn b x run).endStage b .success none ((s.judgedOn b x run).stance b) := by
  have hc : (s.boom b).ctl.state.cutsGround = true := by rw [hst]; rfl
  obtain ⟨run, stall, tracked, -⟩ := tracked_judged hs hc x
  have counted := counted_judged hc tracked
  have settled := settled_judgedOn s b x run
  have plan : (s.judgedOn b x run).params = s.params := congrArg Backdrop.params settled.apart.1
  have ended : sampleEnd (s.sampleCounted b x) b (s.sampleTracked b x) = some .collarDepth := by
    rw [counted, tracked]
    unfold sampleEnd
    simp only [settled.state, hst, (boom_judgedOn s b x run).2.1, plan]
    rw [if_pos ⟨settled.contact.trans hs, hd⟩]
  exact ⟨run, by rw [(take_of_end hn ha ended).1, counted]; rfl⟩

/-- The depth's own tests end DRILLING, whatever the stall run does (R85). -/
theorem take_of_drilled {s : State} {b : Boom} {x : Sample} (hn : s.nextSample b x) (ha : (s.boom b).tracker.accepts x)
    (hst : (s.boom b).ctl.state = .drilling) (hs : (s.boom b).tracker.contactSeen = true) :
    ∃ run,
      (2040000 ≤ s.deepestAfter b x →
        (s.take b).state = (s.judgedOn b x run).endStage b (.fault .depthLimit) none ((s.judgedOn b x run).stance b)) ∧
      (∀ h, (s.boom b).ctl.hole = some h → s.deepestAfter b x < 2040000 → (s.boom b).tracker.maxDepth < s.deepestAfter b x →
        h.planDepth * 800 ≤ s.deepestAfter b x →
          (s.take b).state = (s.judgedOn b x run).endStage b .success none ((s.judgedOn b x run).stance b)) := by
  have hc : (s.boom b).ctl.state.cutsGround = true := by rw [hst]; rfl
  obtain ⟨run, stall, tracked, -⟩ := tracked_judged hs hc x
  have counted := counted_judged hc tracked
  have judged := sampleEnd_drilling (x := x) (run := run) (stall := stall) hst
  rw [← tracked, ← counted] at judged
  refine ⟨run, fun deep => ?_, fun h hh shallow raised plan => ?_⟩
  · rw [if_pos deep] at judged
    rw [(take_of_end hn ha judged).1, counted]; rfl
  · have raises : s.sampleRaises b x = true := (sampleRaises_iff s b x).2 ⟨by simp [State.sampleTested, hs, hc], raised⟩
    rw [if_neg (by omega), if_pos ⟨raises, by rw [hh]; exact plan⟩] at judged
    rw [(take_of_end hn ha judged).1, counted]; rfl

/-! ### The ends at the goals -/

/-- The take ends the stage in a state that leaves the hole open, with the depth that the sample moved. -/
def State.endsOpen (s t : State) (b : Boom) (x : Sample) (w : BoomState) : Prop :=
  exec (.fifoTake b) s = .next t ∧ s.elsewhere t b ∧ (t.boom b).ctl.state = w ∧ (t.boom b).ctl.run = none ∧
    t.demandKinds b = [] ∧ (s.enabled b = true → (t.port b.port).causes.c3 = true) ∧ s.flowFlags t ∧
    (t.boom b).tracker.depth = s.depthAfter b x ∧
    (t.boom b).ctl.betweenStage = (if w = .inserted ∨ s.params.plan.betweenCode = 0 then none else some 0) ∧
    t.rowMap = s.rowMap ∧ t.holeLog = s.holeLog

/-- Neither a record nor the stop latch nor the hole shows a fault of the act. -/
def State.faultless (s t : State) (b : Boom) : Prop :=
  t.faultLog = s.faultLog ∧ (t.boom b).link.stopLatch = (s.boom b).link.stopLatch ∧
    (t.boom b).ctl.hole.map HoleRecord.fault = (s.boom b).ctl.hole.map HoleRecord.fault

/-- The slices that the sample closes are settled, and the drilled depth stands. -/
def State.slicesSettled (s t : State) (b : Boom) (x : Sample) : Prop :=
  (t.boom b).tracker.maxDepth = s.deepestAfter b x ∧ (t.boom b).tracker.slice = none ∧ (t.boom b).tracker.stallCount = 0 ∧
    ((t.boom b).classifier, (t.boom b).wear) = s.handed b (s.settledAt b x) ∧ s.sliceFlags t b (s.settledAt b x)

theorem endsOpen_of {s t : State} {b : Boom} {x : Sample} {e : StageEnd} {w : BoomState} {cs : List ClosedSlice} {n : Nat}
    (ends : s.EndsIn t b e w cs n) (take : (s.take b).state = t) (depth : (t.boom b).tracker.depth = s.depthAfter b x)
    (hw : w.waitsBetween = true ∨ w = .inserted) : s.endsOpen t b x w := by
  refine ⟨congrArg Host.Outcome.next take, ends.apart, ends.state, ends.run, ends.kinds, ends.stageEnd, ends.flow, depth, ?_, ends.row,
    ends.holes⟩
  rcases hw with hw | rfl
  · have notInserted : w ≠ .inserted := fun h => by rw [h] at hw; cases hw
    rw [ends.between hw]
    simp [notInserted]
  · rw [if_pos (.inl rfl)]
    exact (congrArg Controller.betweenStage ends.ctl :)

theorem faultless_success {s u : State} {b : Boom} {x : Sample} {w : BoomState} {cs ds : List ClosedSlice} {n : Nat}
    {st : BoomState × Option RunCondition} (hu : s.Settled u b cs) (link : (u.boom b).link = ((s.sampled b x).boom b).link)
    (ends : s.EndsIn (u.endStage b .success none st) b .success w ds n) : s.faultless (u.endStage b .success none st) b := by
  obtain ⟨log, latch⟩ := unfaulted_success hu st
  exact ⟨log, by rw [latch, link]; simp [State.sampled], ends.hole⟩

theorem slicesSettled_judged {s : State} {b : Boom} {x : Sample} {run : Nat × Nat} {e : StageEnd} {w : BoomState}
    {st : BoomState × Option RunCondition} (hc : (s.boom b).ctl.state.cutsGround = true)
    (ends : s.EndsIn ((s.judgedOn b x run).endStage b e none st) b e w (s.settledAt b x) (s.deepestAfter b x)) :
    s.slicesSettled ((s.judgedOn b x run).endStage b e none st) b x :=
  ⟨(tracker_judgedEnd s b x run e none st).2.1, (ends.slice hc).1, (ends.slice hc).2, ends.strata, ends.slices⟩

theorem collaring_goal {s : State} {b : Boom} {x : Sample} (hn : s.nextSample b x) (ha : (s.boom b).tracker.accepts x)
    (hst : (s.boom b).ctl.state = .collaring) (hs : (s.boom b).tracker.contactSeen = true)
    (goal : ((s.params.plan.collarDepth * 800 : Nat) : Int) ≤ s.depthAfter b x) :
    ∃ t, s.endsOpen t b x .collared ∧ s.faultless t b ∧ s.slicesSettled t b x ∧ (t.boom b).ctl.collarTimer = none ∧
      (t.boom b).anchorage = (s.boom b).anchorage := by
  have hc : (s.boom b).ctl.state.cutsGround = true := by rw [hst]; rfl
  obtain ⟨run, state⟩ := take_of_collared hn ha hst hs goal
  have ends := ends_judged hc (e := .success) (w := .collared) (by simp) (by rw [hst]; rfl) x run none ((s.judgedOn b x run).stance b)
  refine ⟨_, endsOpen_of ends state (tracker_judgedEnd s b x run _ none _).1 (.inl rfl),
    faultless_success (settled_judgedOn s b x run) (link_judgedOn s b x run) ends, slicesSettled_judged hc ends,
    (congrArg Controller.collarTimer ends.ctl :), ends.anchorage.trans (if_neg ?_)⟩
  rw [hst]; simp

/-- An end of DRILLING on a sample, whatever brings it. -/
theorem drilling_end {s : State} {b : Boom} {x : Sample} {run : Nat × Nat} {e : StageEnd}
    (hst : (s.boom b).ctl.state = .drilling) (he : e ≠ .resetAbort)
    (lead : destination (s.boom b).ctl.state (s.boom b).tracker.contactSeen e = .wait .drilled)
    (state : (s.take b).state = (s.judgedOn b x run).endStage b e none ((s.judgedOn b x run).stance b)) :
    let t := (s.judgedOn b x run).endStage b e none ((s.judgedOn b x run).stance b)
    s.EndsIn t b e .drilled (s.settledAt b x) (s.deepestAfter b x) ∧ s.endsOpen t b x .drilled ∧ s.slicesSettled t b x ∧
      (t.boom b).anchorage = some (evaluate s.params.plan (s.calib b).kt (t.boom b).classifier.layers (s.deepestAfter b x)
        (((s.boom b).anchorage.map Anchorage.evaluations).getD 0) e.reason) := by
  have hc : (s.boom b).ctl.state.cutsGround = true := by rw [hst]; rfl
  have ends := ends_judged hc he lead x run none ((s.judgedOn b x run).stance b)
  exact ⟨ends, endsOpen_of ends state (tracker_judgedEnd s b x run _ none _).1 (.inl rfl), slicesSettled_judged hc ends,
    ends.anchorage.trans (if_pos hst)⟩

theorem drilling_goal {s : State} {b : Boom} {x : Sample} (hn : s.nextSample b x) (ha : (s.boom b).tracker.accepts x)
    (hst : (s.boom b).ctl.state = .drilling) (hs : (s.boom b).tracker.contactSeen = true) :
    let evaluated (t : State) (reason : EndReason) : Prop :=
      (t.boom b).anchorage = some (evaluate s.params.plan (s.calib b).kt (t.boom b).classifier.layers (s.deepestAfter b x)
        (((s.boom b).anchorage.map Anchorage.evaluations).getD 0) reason)
    (∀ h, (s.boom b).ctl.hole = some h → s.deepestAfter b x < 2040000 → (s.boom b).tracker.maxDepth < s.deepestAfter b x →
      h.planDepth * 800 ≤ s.deepestAfter b x →
        ∃ t, s.endsOpen t b x .drilled ∧ s.faultless t b ∧ s.slicesSettled t b x ∧ evaluated t .depthReached) ∧
    (2040000 ≤ s.deepestAfter b x → ∃ t, s.endsOpen t b x .drilled ∧ s.slicesSettled t b x ∧ evaluated t .depthLimit ∧
      s.faultWritten t b .depthLimit none ∧ (t.boom b).link.stopLatch = true ∧
      (t.boom b).ctl.hole.map HoleRecord.fault = (s.boom b).ctl.hole.map fun _ => some .depthLimit) := by
  intro evaluated
  obtain ⟨run, limit, reached⟩ := take_of_drilled hn ha hst hs
  have settled := settled_judgedOn s b x run
  refine ⟨fun h hh shallow raised plan => ?_, fun deep => ?_⟩
  · obtain ⟨ends, isOpen, slices, anchorage⟩ := drilling_end hst (e := .success) (by simp) (by rw [hst]; rfl)
      (reached h hh shallow raised plan)
    exact ⟨_, isOpen, faultless_success settled (link_judgedOn s b x run) ends, slices, anchorage⟩
  · obtain ⟨ends, isOpen, slices, anchorage⟩ := drilling_end hst (e := .fault .depthLimit) (by simp) (by rw [hst]; rfl) (limit deep)
    refine ⟨_, isOpen, slices, anchorage, faultWritten_settled settled .depthLimit, ?_, ends.hole.trans ?_⟩
    · rw [link_endStage]; rfl
    · simp only [StageEnd.marks, StageEnd.code, Option.map_map]; rfl

theorem retracting_goal {s : State} {b : Boom} {x : Sample} (hn : s.nextSample b x) (ha : (s.boom b).tracker.accepts x)
    (hst : (s.boom b).ctl.state = .retracting) (goal : s.depthAfter b x ≤ -((s.params.plan.clearDistance * 800 : Nat) : Int)) :
    ∃ t, s.endsOpen t b x .retracted ∧ s.faultless t b ∧ (t.boom b).tracker.cartridgeBase = some x.cartridges ∧
      (t.boom b).tracker.maxDepth = (s.boom b).tracker.maxDepth ∧ (t.boom b).anchorage = (s.boom b).anchorage ∧
      (t.boom b).wear = (s.boom b).wear := by
  have settled : s.Settled (s.clearOn b x) b [] := (settled_sampled s b x).modTracker rfl
  have ends := endsIn_endStage settled (e := .success) (w := .retracted) (by simp) (by rw [hst]; rfl) none ((s.sampled b x).stance b)
  rw [settledNow_uncut (by rw [settled.state, hst]; rfl)] at ends
  have core := core_endStage (s.clearOn b x) b .success none ((s.sampled b x).stance b)
  have tracker : ((s.clearOn b x).boom b).tracker.cartridgeBase = some x.cartridges ∧
      ((s.clearOn b x).boom b).tracker.depth = s.depthAfter b x ∧
      ((s.clearOn b x).boom b).tracker.maxDepth = (s.boom b).tracker.maxDepth ∧
      ((s.clearOn b x).boom b).link = ((s.sampled b x).boom b).link := by simp [State.clearOn, State.sampled]
  obtain ⟨base, depth, deepest, link⟩ := tracker
  exact ⟨_, endsOpen_of ends (take_of_clear hn ha hst goal) ((depth_of_core core).trans depth) (.inl rfl),
    faultless_success settled link ends, (congrArg DepthTracker.cartridgeBase core :).trans base, (maxDepth_of_core core).trans deepest,
    ends.anchorage.trans (if_neg (by rw [hst]; simp)), congrArg Prod.snd ends.strata⟩

theorem inserting_goal {s : State} {b : Boom} {x : Sample} {a : Anchorage} (hn : s.nextSample b x) (ha : (s.boom b).tracker.accepts x)
    (hst : (s.boom b).ctl.state = .inserting) (hr : (s.boom b).ctl.run = some .running) (plate : x.plate = true)
    (hanch : (s.boom b).anchorage = some a) (goal : ((a.d : Int) - 150) * 800 ≤ s.depthAfter b x) :
    ∃ t, s.endsOpen t b x .inserted ∧ s.faultless t b ∧ (t.boom b).ctl.insertToSpin = some 0 ∧ (t.boom b).tracker.blockRun = 0 ∧
      (t.boom b).tracker.maxDepth = (s.boom b).tracker.maxDepth ∧ (t.boom b).anchorage = (s.boom b).anchorage ∧
      (t.boom b).wear = (s.boom b).wear := by
  obtain ⟨tracked, counted⟩ := tracked_inserting hanch hr hst x (blockStep_beyond goal)
  have ended : sampleEnd (s.sampleCounted b x) b (s.sampleTracked b x) = some .inPlace := by
    rw [counted, tracked, sampleEnd_inserting hst, if_neg (by simp), plate, if_pos rfl, if_neg (not_lt.2 goal)]
  have state := (take_of_end hn ha ended).1
  rw [counted] at state
  have settled := settled_insertedOn s b x 0
  have ends := endsIn_endStage settled (e := .success) (w := .inserted) (by simp) (by rw [hst]; rfl) none ((s.insertedOn b x 0).stance b)
  rw [settledNow_uncut (by rw [settled.state, hst]; rfl)] at ends
  have core := core_endStage (s.insertedOn b x 0) b .success none ((s.insertedOn b x 0).stance b)
  obtain ⟨blockRun, depth, deepest, -, link⟩ := boom_insertedOn s b x 0
  exact ⟨_, endsOpen_of ends state ((depth_of_core core).trans depth) (.inr rfl), faultless_success settled link ends,
    (congrArg Controller.insertToSpin ends.ctl :), (congrArg DepthTracker.blockRun core :).trans blockRun,
    (maxDepth_of_core core).trans deepest, ends.anchorage.trans (if_neg (by rw [hst]; simp)), congrArg Prod.snd ends.strata⟩

/-- A plate above the insert line closes the hole, with or without the block run (R86). -/
theorem take_of_early {s : State} {b : Boom} {x : Sample} {a : Anchorage} (hn : s.nextSample b x) (ha : (s.boom b).tracker.accepts x)
    (hst : (s.boom b).ctl.state = .inserting) (hr : (s.boom b).ctl.run = some .running) (plate : x.plate = true)
    (hanch : (s.boom b).anchorage = some a) (early : s.depthAfter b x < ((a.d : Int) - 150) * 800) :
    ∃ run, (s.take b).state =
      (s.insertedOn b x run).endStage b (.fault .insertBlocked) none ((s.insertedOn b x run).stance b) := by
  obtain ⟨run, block, step⟩ : ∃ run block, blockStep (s.boom b).tracker.blockRun
      (decide (s.depthAfter b x < ((a.d : Int) - 150) * 800) && decide (s.params.plan.blockPressure ≤ x.feed - (s.boom b).tracker.z)) =
        (run, block) := ⟨_, _, rfl⟩
  obtain ⟨tracked, counted⟩ := tracked_inserting hanch hr hst x step
  have judged := sampleEnd_inserting hst x run (s.sampleRaises b x) block .early
  rw [plate, if_pos rfl, if_pos early] at tracked
  rw [← tracked, ← counted] at judged
  refine ⟨run, ?_⟩
  split at judged <;> rw [(take_of_end hn ha judged).1, counted] <;> rfl

/-- Settles O45: each goal is the first test that applies to its sample, and its end is the end of a stage in a wait state; the plate that
comes too early is the close of a blocked hole. -/
theorem aSampleAtItsGoalEndsItsStage : Obligations.ASampleAtItsGoalEndsItsStage := by
  unfold Obligations.ASampleAtItsGoalEndsItsStage
  intro b s x hn ha u depth deepest ends unfaulted settled evaluated
  refine ⟨collaring_goal hn ha, drilling_goal hn ha, retracting_goal hn ha, fun a h hst hr plate hanch hh =>
    ⟨inserting_goal hn ha hst hr plate hanch, fun early => ?_⟩⟩
  obtain ⟨run, state⟩ := take_of_early hn ha hst hr plate hanch early
  obtain ⟨apart, closed, written, stageEnd, flow, -, depths, -, link⟩ := closes_insertedOn hh hst x run
  exact ⟨_, congrArg Host.Outcome.next state, apart, closed, written, stageEnd, flow, by rw [link], depths⟩

end Sys2Proof.Machine

/-! ## What an announcement does to the flags, the set and the pump flow (O35) -/
namespace Sys2Proof.Machine

/-! ### The flags of a stage's end, port by port -/

/-- All the flags that the end of a stage joins to the ports'. -/
theorem flagged_endStage (s : State) (b : Boom) {e : StageEnd} (he : e ≠ .resetAbort) (x : Option Nat)
    (st : BoomState × Option RunCondition) :
    ∃ on owes ready turned, s.flagged (s.endStage b e x st) (bothFlags (flowOn on)
      (bothFlags (bothFlags (s.slicesFlag b (s.settledNow b)) (s.closeFlag b owes ready turned)) (s.reportFlag b e))) := by
  obtain ⟨on, cut⟩ := flagged_stageCut s b e
  obtain ⟨owes, ready, turned, behind, -⟩ := flagged_behindCut s b he x st
  exact ⟨on, owes, ready, turned, cut.trans behind⟩

theorem machineFlag_eq (c : MachineCause) (on : Bool) (p : Port) :
    machineFlag c on p = Causes.clear.put (decide (p = .machine) && on) c.code := by
  unfold machineFlag
  by_cases h : p = .machine ∧ on = true
  · rw [if_pos h, h.1, h.2, decide_eq_true rfl]; rfl
  · rw [if_neg h]
    have : (decide (p = .machine) && on) = false := by
      rw [Bool.eq_false_iff]; simpa using h
    rw [this]
    cases c <;> rfl

/-- The end of a stage raises no INTERLOCK. -/
theorem interlock_endStage (s : State) (b : Boom) {e : StageEnd} (he : e ≠ .resetAbort) (x : Option Nat)
    (st : BoomState × Option RunCondition) (p : Port) : ((s.endStage b e x st).port p).causes.c1 = (s.port p).causes.c1 := by
  obtain ⟨on, owes, ready, turned, flags⟩ := flagged_endStage s b he x st
  rw [flags.causes p]
  simp [Causes.join, bothFlags, flowOn, State.slicesFlag, State.closeFlag, State.reportFlag, wearFlag_eq, boomFlag_eq, machineFlag_eq,
    Causes.put, Causes.clear, BoomCause.code, MachineCause.code]

/-- On the other boom's port the end of a stage raises FLOW alone. -/
theorem otherPort_endStage (s : State) {b c : Boom} (hc : c ≠ b) {e : StageEnd} (he : e ≠ .resetAbort) (x : Option Nat)
    (st : BoomState × Option RunCondition) :
    ∃ on, ((s.endStage b e x st).port c.port).causes = (s.port c.port).causes.join { Causes.clear with c4 := on } := by
  obtain ⟨on, owes, ready, turned, flags⟩ := flagged_endStage s b he x st
  refine ⟨on c.port, ?_⟩
  have other : decide (c.port = b.port) = false := decide_eq_false (port_ne hc)
  have notMachine : decide (c.port = .machine) = false := by cases c <;> rfl
  rw [flags.causes c.port]
  simp [Causes.join, bothFlags, flowOn, State.slicesFlag, State.closeFlag, State.reportFlag, wearFlag_eq, boomFlag_eq, machineFlag_eq,
    Causes.put, Causes.clear, BoomCause.code, MachineCause.code, other, notMachine]

/-- A flag that stands on the machine port stays. -/
theorem State.flagged.machineWear {s t : State} {f : Port → Causes} (h : s.flagged t f) (hs : s.portMachine.causes.c7 = true) :
    t.portMachine.causes.c7 = true := by
  have : t.portMachine.causes = s.portMachine.causes.join (f .machine) := h.causes .machine
  rw [this]
  simp [Causes.join, hs]

/-- The arbiter's part raises FLOW alone. -/
theorem flagged_refreshFlow (s : State) : ∃ on, s.flagged s.refreshFlow (flowOn on) := by
  unfold State.refreshFlow
  simp only []
  split
  · refine ⟨fun _ => false, fun p => ?_⟩
    rw [show flowOn (fun _ => false) p = Causes.clear from rfl, Causes.join_clear]
  · obtain ⟨on, h⟩ := flagged_reallocate
      { s with arbiter :=
        { qAvail := availableFlow s.params.plan.qPump s.interlocks, demands := s.arbiter.demands.filter fun d => !s.suspendedOwner d } }
      s.arbiter.demands
    exact ⟨on, .after (fun p => by cases p <;> rfl) h⟩

theorem port_suspendStage (s : State) (b : Boom) (i : Interlocks) (p : Port) : (s.suspendStage b i).port p = s.port p := by
  unfold State.suspendStage
  simp only []
  (repeat' split) <;> simp

/-! ### INTERLOCK (R150) -/

/-- The seven interlocks that refuse some request of a boom. -/
def Interlocks.refusing (i : Interlocks) : List Bool :=
  [i.gas, i.dustLow, i.supportLost, i.monitorFault, i.supplyLow, i.monitorWarmup, i.tramming]

/-- Something that refuses a boom's requests has changed exactly where the seven differ. -/
theorem permission_changed_iff (old new : Interlocks) :
    ((new.minus old).union (old.minus new)).inter permissionInterlocks = Interlocks.empty ↔ new.refusing = old.refusing := by
  have each (a b : Bool) : (a && !b || b && !a) = false ↔ a = b := by cases a <;> cases b <;> simp
  simp [Interlocks.inter, Interlocks.union, Interlocks.minus, Interlocks.empty, permissionInterlocks, Interlocks.refusing, each]
  tauto

/-- INTERLOCK on the machine port for every change handed on, and on each boom's where it refuses requests. -/
theorem flagged_raiseInterlock (s : State) (old new : Interlocks) :
    s.flagged (s.raiseInterlock old new) (bothFlags (machineFlag .interlock true)
      (bothFlags (s.boomFlag .left .interlock (decide (new.refusing ≠ old.refusing)))
        (s.boomFlag .right .interlock (decide (new.refusing ≠ old.refusing))))) := by
  unfold State.raiseInterlock
  simp only [permission_changed_iff]
  have machine := flagged_raiseMachine s .interlock
  by_cases h : new.refusing = old.refusing
  · rw [if_pos h]
    simp only [ne_eq, h, not_true_eq_false, decide_false, boomFlag_false]
    exact machine.trans ((State.flagged.refl _).trans (.refl _))
  · rw [if_neg h]
    simp only [ne_eq, h, not_false_eq_true, decide_true]
    have left := flagged_raise (s.raiseMachine .interlock) .left .interlock
    have right := flagged_raise ((s.raiseMachine .interlock).raise .left .interlock) .right .interlock
    rw [boomFlag_congr (s := s) (straps_of_backdrop (by simp))] at left right
    exact machine.trans (left.trans right)

/-! ### The parts of an announcement -/

/-- Before INTERLOCK is raised: the suspensions, the arbiter's part and the SUPPLY ends. -/
def State.reacted (s : State) (onset : Interlocks) : State :=
  let u := ((s.suspendStage .left onset).suspendStage .right onset).refreshFlow
  if onset.supplyLow then (u.supplyEnd .left (s.stance .left)).supplyEnd .right (s.stance .right) else u

theorem announce_changed {s : State} {old : Interlocks} (h : old ≠ s.interlocks) :
    s.announce old = (s.reacted (s.interlocks.minus old)).raiseInterlock old s.interlocks := if_neg h

theorem interlock_supplyEnd (s : State) (b : Boom) (st : BoomState × Option RunCondition) (p : Port) :
    ((s.supplyEnd b st).port p).causes.c1 = (s.port p).causes.c1 := by
  unfold State.supplyEnd
  split
  · exact interlock_endStage s b (by simp) none st p
  · rfl

theorem interlock_reacted (s : State) (i : Interlocks) (p : Port) : ((s.reacted i).port p).causes.c1 = (s.port p).causes.c1 := by
  have flowed : ((((s.suspendStage .left i).suspendStage .right i).refreshFlow).port p).causes.c1 = (s.port p).causes.c1 := by
    obtain ⟨on, h⟩ := flagged_refreshFlow ((s.suspendStage .left i).suspendStage .right i)
    rw [h.causes p, port_suspendStage, port_suspendStage]
    simp [Causes.join, flowOn, Causes.clear]
  unfold State.reacted
  simp only []
  split
  · rw [interlock_supplyEnd, interlock_supplyEnd, flowed]
  · exact flowed

/-! ### What the set is worked out from -/

/-- The row's part of the interlock set. -/
def RowMap.sources (m : RowMap) : Bool × Bool := (m.supportSet, m.tramPermitted)

theorem interlocks_of_sources {s t : State} (hm : t.monitor = s.monitor) (hr : t.rowMap.sources = s.rowMap.sources) :
    t.interlocks = s.interlocks := by
  obtain ⟨support, tram⟩ := Prod.ext_iff.1 hr
  simp only [State.interlocks, hm, show t.rowMap.supportSet = s.rowMap.supportSet from support,
    show t.rowMap.tramPermitted = s.rowMap.tramPermitted from tram]

theorem sources_closeHole (s : State) (b : Boom) (how : CloseKind) (st : BoomState) (f : Option FaultCode) :
    (s.closeHole b how st f).rowMap.sources = s.rowMap.sources := by
  unfold State.closeHole
  split
  · simp
  · simp only [rowMap_modCtl, rowMap_modWear]
    have released (u : State) (g : Grade) : (u.closeSlot b g).rowMap.sources = u.rowMap.sources := by
      have h := released_closeSlot u b g
      exact Prod.ext h.support h.permitted
    rw [released]

theorem rowMap_stageReported (s : State) (b : Boom) (e : StageEnd) (x : Option Nat) (st : BoomState × Option RunCondition) :
    (s.stageReported b e x st).rowMap = s.rowMap := by
  cases e <;> simp [State.stageReported]

theorem sources_endStage (s : State) (b : Boom) (e : StageEnd) (x : Option Nat) (st : BoomState × Option RunCondition) :
    (s.endStage b e x st).rowMap.sources = s.rowMap.sources := by
  have after (t : State) (k : BoomState) : (t.afterStage b k e).rowMap.sources = t.rowMap.sources := by
    unfold State.afterStage
    split
    · simp
    · simp only []
      rw [sources_closeHole]
      (repeat' split) <;> simp
  rw [endStage_eq, rowMap_stageReported, after, rowMap_settleStage, (stageCut_keeps s b e).2.1]

theorem interlocks_supplyEnd (s : State) (b : Boom) (st : BoomState × Option RunCondition) :
    (s.supplyEnd b st).interlocks = s.interlocks := by
  refine interlocks_of_sources (by simp) ?_
  unfold State.supplyEnd
  split
  · exact sources_endStage s b _ none st
  · rfl

theorem interlocks_refreshFlow (s : State) : s.refreshFlow.interlocks = s.interlocks := interlocks_of (by simp) (by simp)

theorem interlocks_reacted (s : State) (i : Interlocks) : (s.reacted i).interlocks = s.interlocks := by
  have flowed : (((s.suspendStage .left i).suspendStage .right i).refreshFlow).interlocks = s.interlocks :=
    interlocks_of (by simp) (by simp)
  unfold State.reacted
  simp only []
  split
  · rw [interlocks_supplyEnd, interlocks_supplyEnd, flowed]
  · exact flowed

/-- An announcement changes nothing that the set is worked out from. -/
theorem interlocks_announce (s : State) (old : Interlocks) : (s.announce old).interlocks = s.interlocks := by
  by_cases h : old = s.interlocks
  · rw [announce_same s h]
  · rw [announce_changed h, interlocks_of (by simp) (by simp) (s := s.reacted (s.interlocks.minus old)), interlocks_reacted]

/-- INTERLOCK behind an announcement (R150). -/
theorem interlockFlags_announce {s u : State} (ports : ∀ p, u.port p = s.port p) (straps : u.straps = s.straps) :
    s.interlockFlags (u.announce s.interlocks) := by
  unfold State.interlockFlags
  rw [interlocks_announce]
  by_cases h : s.interlocks = u.interlocks
  · rw [announce_same u h, show u.portMachine = s.portMachine from ports .machine]
    simp [h, ports]
  · rw [announce_changed h]
    have flags := flagged_raiseInterlock (u.reacted (u.interlocks.minus s.interlocks)) s.interlocks u.interlocks
    have before (p : Port) : ((u.reacted (u.interlocks.minus s.interlocks)).port p).causes.c1 = (s.port p).causes.c1 := by
      rw [interlock_reacted, ports]
    have enabled : (u.reacted (u.interlocks.minus s.interlocks)).enabled = s.enabled := by
      refine enabled_congr ((straps_of_backdrop ?_).trans straps)
      unfold State.reacted
      simp only []
      split <;> simp
    refine ⟨?_, fun b => ?_⟩
    · have machine := flags.causes .machine
      rw [show State.portMachine _ = State.port _ .machine from rfl, machine]
      simp [Causes.join, bothFlags, machineFlag_eq, boomFlag_eq, Causes.put, Causes.clear, MachineCause.code, Ne.symm h]
    · rw [flags.causes b.port]
      have own : decide (b.port = .machine) = false := by cases b <;> rfl
      have raised : (((bothFlags (machineFlag .interlock true)
          (bothFlags ((u.reacted (u.interlocks.minus s.interlocks)).boomFlag .left .interlock
            (decide (u.interlocks.refusing ≠ s.interlocks.refusing)))
            ((u.reacted (u.interlocks.minus s.interlocks)).boomFlag .right .interlock
              (decide (u.interlocks.refusing ≠ s.interlocks.refusing))))) b.port)).c1 =
          (s.enabled b && decide (u.interlocks.refusing ≠ s.interlocks.refusing)) := by
        simp only [bothFlags, Causes.join, machineFlag_eq, boomFlag_eq, enabled, own]
        cases b <;> simp [Boom.port, Causes.put, Causes.clear, BoomCause.code, MachineCause.code]
      rw [Causes.join, before, raised, Bool.or_eq_true, Bool.and_eq_true, decide_eq_true_eq]
      rfl

/-! ### The pump flow (R105) -/

theorem qAvail_supplyEnd (s : State) (b : Boom) (st : BoomState × Option RunCondition) :
    (s.supplyEnd b st).arbiter.qAvail = s.arbiter.qAvail := by
  unfold State.supplyEnd
  split
  · rw [arbiter_endStage, State.withdraw, qAvail_depart]
    exact congrArg Arbiter.qAvail (arbiter_markFault s b .supply)
  · rfl

/-- A changed set gives Q_avail afresh, whatever else it brings about (R105). -/
theorem qAvail_announce {s : State} {old : Interlocks} (h : old ≠ s.interlocks) :
    (s.announce old).arbiter.qAvail = availableFlow s.params.plan.qPump s.interlocks := by
  have flowed (i : Interlocks) : (((s.suspendStage .left i).suspendStage .right i).refreshFlow).arbiter.qAvail =
      availableFlow s.params.plan.qPump s.interlocks := by
    rw [qAvail_refreshFlow, interlocks_of (s := s) (by simp) (by simp)]
    exact congrArg (fun k : Backdrop => availableFlow k.params.plan.qPump s.interlocks)
      (by simp : State.backdrop ((s.suspendStage .left i).suspendStage .right i) = s.backdrop)
  rw [announce_changed h, arbiter_raiseInterlock]
  unfold State.reacted
  simp only []
  split
  · rw [qAvail_supplyEnd, qAvail_supplyEnd, flowed]
  · exact flowed _

end Sys2Proof.Machine

/-! ## The SUPPLY ends, boom by boom (R98; O35) -/
namespace Sys2Proof.Machine

/-! ### The row and the logs behind a SUPPLY end -/

/-- The stages whose hole a lost supply closes (R98). -/
abbrev BoomState.late (st : BoomState) : Prop := st = .inserting ∨ st = .spinning ∨ st = .holding ∨ st = .torquing

/-- Where a lost supply leads a stage (R98). -/
theorem destination_supply {st : BoomState} (contact : Bool) :
    ((st = .collaring ∨ st = .drilling ∨ st = .retracting) →
      destination st contact (.fault .supply) =
        .wait (if st = .collaring then (if contact then .collared else .holeOpen) else .drilled)) ∧
    (st.late → destination st contact (.fault .supply) = .closes .failed) := by
  constructor
  · rintro (rfl | rfl | rfl) <;> rfl
  · rintro (rfl | rfl | rfl | rfl) <;> rfl

theorem late_uncut {st : BoomState} (h : st.late) : st.cutsGround = false := by
  rcases h with rfl | rfl | rfl | rfl <;> rfl

theorem late_stage {st : BoomState} (h : st.late) : st.isStage = true := by
  rcases h with rfl | rfl | rfl | rfl <;> rfl

theorem not_late_of_early {st : BoomState} (h : st = .collaring ∨ st = .drilling ∨ st = .retracting) : ¬ st.late := by
  rcases h with rfl | rfl | rfl <;> simp [BoomState.late]

theorem holeLog_stageReported (s : State) (b : Boom) (e : StageEnd) (x : Option Nat) (st : BoomState × Option RunCondition) :
    (s.stageReported b e x st).holeLog = s.holeLog := by
  cases e <;> simp [State.stageReported]

/-- A late stage that the supply ends: the withdrawal, and the close of the hole. -/
theorem endStage_late {u : State} {b : Boom} (h : (u.boom b).ctl.state.late) (st : BoomState × Option RunCondition) :
    u.endStage b (.fault .supply) none st =
      ((u.stageCut b (.fault .supply)).closeHole b .failed (u.boom b).ctl.state (some .supply)).stageReported b (.fault .supply)
        none st := by
  obtain ⟨-, htr, -, -⟩ := stageCut_boom u b (.fault .supply)
  have lead := (destination_supply ((u.boom b).tracker.contactSeen)).2 h
  rw [endStage_eq, settleStage_id _ b (late_uncut h)]
  unfold State.afterStage
  rw [htr, lead]
  simp only [torqueResultOf, ite_self]
  rfl

/-- A boom without a hole has none to close. -/
theorem closeHole_holeless {s : State} {b : Boom} (h : (s.boom b).ctl.hole = none) (how : CloseKind) (st : BoomState)
    (f : Option FaultCode) : s.closeHole b how st f = s.modCtl b Controller.toIdle := by
  have none' : s.liveRecord b = none := by simp [State.liveRecord, h]
  rw [State.closeHole, none']

/-- The row at a close that gives F (R125, R126). -/
theorem rowMap_closeHole_failed (s : State) (b : Boom) (st : BoomState) (f : Option FaultCode) :
    (s.closeHole b .failed st f).rowMap =
      match (s.boom b).ctl.hole, s.rowMap.claimOf b with
      | some _, some sl => s.rowClosed b sl .f
      | _, _ => s.rowMap := by
  cases hh : (s.boom b).ctl.hole with
  | none => simp [closeHole_holeless hh]
  | some h =>
    obtain ⟨r, hr⟩ : ∃ r, s.liveRecord b = some r := by simp [State.liveRecord, hh]
    have closed : (s.closeHole b .failed st f).rowMap =
        (State.closeSlot { s with holeLog := s.holeLog.archive (completeRecord r (s.boom b).anchorage .f s.millis) } b .f).rowMap := by
      rw [State.closeHole, hr]
      simp only [rowMap_modCtl, rowMap_modWear]
      rfl
    rw [closed]
    cases hc : s.rowMap.claimOf b with
    | none => rw [State.closeSlot, show RowMap.claimOf _ b = none from hc]
    | some sl =>
      exact (closeSlot_claimed { s with holeLog := s.holeLog.archive (completeRecord r (s.boom b).anchorage .f s.millis) } b hc .f).1

/-- The row that a lost supply leaves depends on the row, the plan and the boom's state and hole. -/
theorem rowSupplyLost_eq (s : State) (b : Boom) :
    s.rowSupplyLost b =
      match (s.boom b).ctl.hole, s.rowMap.claimOf b with
      | some _, some sl => if (s.boom b).ctl.state.late then s.rowClosed b sl .f else s.rowMap
      | _, _ => s.rowMap := by
  unfold State.rowSupplyLost
  cases (s.boom b).ctl.hole <;> cases s.rowMap.claimOf b <;> rfl

/-- A lost supply in a state that is no late stage leaves the row. -/
theorem rowSupplyLost_of_not_late {s : State} {b : Boom} (h : ¬ (s.boom b).ctl.state.late) : s.rowSupplyLost b = s.rowMap := by
  rw [rowSupplyLost_eq]
  cases (s.boom b).ctl.hole <;> cases s.rowMap.claimOf b <;> simp [h]

theorem supplyEnd_stage {s : State} {b : Boom} (h : (s.boom b).ctl.state.isStage = true) (st : BoomState × Option RunCondition) :
    s.supplyEnd b st = s.endStage b (.fault .supply) none st := if_pos h

theorem supplyEnd_waits {s : State} {b : Boom} (h : (s.boom b).ctl.state.isStage = false) (st : BoomState × Option RunCondition) :
    s.supplyEnd b st = s := if_neg (by rw [h]; simp)

/-- A SUPPLY end that leaves the hole open leaves the row and the hole log. -/
theorem supplyEnd_not_late {u : State} {b : Boom} (h : ¬ (u.boom b).ctl.state.late) (st : BoomState × Option RunCondition) :
    (u.supplyEnd b st).rowMap = u.rowMap ∧ (u.supplyEnd b st).holeLog = u.holeLog := by
  cases stage : (u.boom b).ctl.state.isStage with
  | false => rw [supplyEnd_waits stage]; exact ⟨rfl, rfl⟩
  | true =>
    rw [supplyEnd_stage stage]
    have early := (isStage_cases stage).resolve_right h
    exact (endStage_wait u b ((destination_supply _).1 early) none st).2

theorem rowMap_supplyEnd (u : State) (b : Boom) (st : BoomState × Option RunCondition) :
    (u.supplyEnd b st).rowMap = u.rowSupplyLost b := by
  by_cases h : (u.boom b).ctl.state.late
  · have row : (u.stageCut b (.fault .supply)).rowMap = u.rowMap := (stageCut_keeps u b _).2.1
    have params : (u.stageCut b (.fault .supply)).params = u.params := congrArg Backdrop.params (stageCut_keeps u b _).1
    have hole : ((u.stageCut b (.fault .supply)).boom b).ctl.hole = (StageEnd.fault .supply).marks (u.boom b).ctl.hole := by
      rw [boom_stageCut]
    rw [supplyEnd_stage (late_stage h), endStage_late h, rowMap_stageReported, rowMap_closeHole_failed, rowSupplyLost_eq, hole, row]
    unfold State.rowClosed
    rw [row, params]
    cases (u.boom b).ctl.hole <;> cases u.rowMap.claimOf b <;> simp [StageEnd.marks, StageEnd.code, h]
  · rw [(supplyEnd_not_late h st).1, rowSupplyLost_of_not_late h]

/-- The hole record that a SUPPLY end archives (R98, R102). -/
theorem holeLog_supplyEnd (u : State) (b : Boom) (st : BoomState × Option RunCondition) :
    ∃ hs : List HoleRecord, (u.supplyEnd b st).holeLog = hs.foldl HoleLog.archive u.holeLog ∧
      (¬ (u.boom b).ctl.state.late ∨ (u.boom b).ctl.hole = none → hs = []) ∧
        ∀ h, (u.boom b).ctl.hole = some h → (u.boom b).ctl.state.late → ∃ r, hs = [r] ∧ r.grade = some .f ∧ r.fault = some .supply ∧
          r.torque = h.torque ∧ r.completes h (u.boom b) ((u.supplyEnd b st).boom b) u.millis := by
  by_cases hl : (u.boom b).ctl.state.late
  · cases hh : (u.boom b).ctl.hole with
    | none =>
      have hole : ((u.stageCut b (.fault .supply)).boom b).ctl.hole = none := by rw [boom_stageCut, hh]; rfl
      refine ⟨[], ?_, fun _ => rfl, fun h hn => nomatch hn⟩
      rw [supplyEnd_stage (late_stage hl), endStage_late hl, holeLog_stageReported, closeHole_holeless hole]
      simpa using (stageCut_keeps u b (.fault .supply)).2.2.1
    | some h =>
      have closed := closedWith_endStage u b hh (late_uncut hl) ((destination_supply _).2 hl) none st
      obtain ⟨-, -, -, ⟨r, archived, grade, fault, torque, completes⟩, -⟩ := closed
      have kept : (StageEnd.fault .supply).torqueAfter (u.boom b).ctl.state h.torque = h.torque := ite_self _
      rw [supplyEnd_stage (late_stage hl)]
      refine ⟨[r], archived, fun none' => ?_, fun k hk _ => ?_⟩
      · rcases none' with none' | none'
        · exact absurd hl none'
        · cases none'
      · cases hk
        exact ⟨r, rfl, grade, fault, torque.trans kept, completes⟩
  · refine ⟨[], (supplyEnd_not_late hl st).2, fun _ => rfl, fun h _ late => absurd late hl⟩

/-- A SUPPLY end records the stance that it is given (R96, log 11). -/
theorem faultLog_supplyEnd {s u : State} (hb : u.backdrop = s.backdrop) (b : Boom) :
    (u.supplyEnd b (s.stance b)).faultLog =
      (if (u.boom b).ctl.state.isStage then [s.faultRecord (u.supplyEnd b (s.stance b)) b .supply none] else []).foldl
        FaultLog.record u.faultLog := by
  cases stage : (u.boom b).ctl.state.isStage with
  | false => rw [supplyEnd_waits stage]; rfl
  | true =>
    rw [supplyEnd_stage stage]
    have kept : State.faultLog (State.raise (State.raise (State.afterStage (State.settleStage (u.stageCut b (.fault .supply)) b
        (u.boom b).ctl.state (.fault .supply)) b (u.boom b).ctl.state (.fault .supply)) b .stageEnd) b .stageFault) = u.faultLog := by
      simpa using (stageCut_keeps u b (.fault .supply)).2.2.2.1
    have back : State.backdrop (State.raise (State.raise (State.afterStage (State.settleStage (u.stageCut b (.fault .supply)) b
        (u.boom b).ctl.state (.fault .supply)) b (u.boom b).ctl.state (.fault .supply)) b .stageEnd) b .stageFault) = s.backdrop := by
      simpa using (stageCut_keeps u b (.fault .supply)).1.trans hb
    rw [endStage_eq]
    exact faultLog_logBoomFault (s := { s with faultLog := u.faultLog }) back kept none

/-! ### Before and behind a boom's own end -/

/-- What goes before: of the boom nothing moves but what a grant moves, and on its port nothing of LAYER and WEAR. -/
structure State.Regrants (s u : State) (b : Boom) : Prop where
  back : u.backdrop = s.backdrop
  boom : (u.boom b).ungranted = (s.boom b).ungranted
  layer : (u.port b.port).causes.c5 = (s.port b.port).causes.c5
  wear : (u.port b.port).causes.c6 = (s.port b.port).causes.c6

/-- What goes behind: the boom stays, and no flag that its end raised goes down. -/
structure State.Leaves (v t : State) (b : Boom) : Prop where
  boom : t.boom b = v.boom b
  kinds : v.demandKinds b = [] → t.demandKinds b = []
  stageFault : (v.port b.port).causes.c2 = true → (t.port b.port).causes.c2 = true
  stageEnd : (v.port b.port).causes.c3 = true → (t.port b.port).causes.c3 = true
  layer : (t.port b.port).causes.c5 = (v.port b.port).causes.c5
  wear : (t.port b.port).causes.c6 = (v.port b.port).causes.c6
  machineWear : v.portMachine.causes.c7 = true → t.portMachine.causes.c7 = true

theorem State.Regrants.trans {s t u : State} {b : Boom} (h : s.Regrants t b) (k : t.Regrants u b) : s.Regrants u b :=
  ⟨k.back.trans h.back, k.boom.trans h.boom, k.layer.trans h.layer, k.wear.trans h.wear⟩

theorem State.Leaves.trans {s t u : State} {b : Boom} (h : s.Leaves t b) (k : t.Leaves u b) : s.Leaves u b :=
  ⟨k.boom.trans h.boom, k.kinds ∘ h.kinds, k.stageFault ∘ h.stageFault, k.stageEnd ∘ h.stageEnd, k.layer.trans h.layer,
    k.wear.trans h.wear, k.machineWear ∘ h.machineWear⟩

theorem State.Leaves.refl (s : State) (b : Boom) : s.Leaves s b := ⟨rfl, id, id, id, rfl, rfl, id⟩

theorem State.Regrants.refl (s : State) (b : Boom) : s.Regrants s b := ⟨rfl, rfl, rfl, rfl⟩

theorem regrants_refreshFlow (s : State) (b : Boom) : s.Regrants s.refreshFlow b := by
  obtain ⟨on, flags⟩ := flagged_refreshFlow s
  refine ⟨by simp, ungranted_refreshFlow s b, ?_, ?_⟩ <;> rw [flags.causes b.port] <;> simp [Causes.join, flowOn, Causes.clear]

/-- The other boom's SUPPLY end. -/
theorem regrants_supplyEnd (s : State) {b c : Boom} (h : c ≠ b) (st : BoomState × Option RunCondition) :
    s.Regrants (s.supplyEnd b st) c := by
  cases stage : (s.boom b).ctl.state.isStage with
  | false => rw [supplyEnd_waits stage]; exact .refl s c
  | true =>
    rw [supplyEnd_stage stage]
    obtain ⟨on, flags⟩ := otherPort_endStage s h (e := .fault .supply) (by simp) none st
    refine ⟨by simp, ungranted_endStage s h _ none st, ?_, ?_⟩ <;> rw [flags] <;> simp [Causes.join, Causes.clear]

/-- A boom without a demand is left alone by the withdrawal of the other's. -/
theorem boom_withdraw_without {s : State} {b c : Boom} (h : kindsOf s.arbiter.demands c = []) : (s.withdraw b).boom c = s.boom c := by
  unfold State.withdraw State.depart
  simp only []
  split
  · rw [boom_reallocate_without, boom_arbiter]
    have without := kindsOf_without s.arbiter.demands b c
    rw [h] at without
    simpa using without
  · rfl

theorem boom_endStage_without {s : State} {b c : Boom} (hc : c ≠ b) (h : kindsOf s.arbiter.demands c = []) (e : StageEnd) (x : Option Nat)
    (st : BoomState × Option RunCondition) : (s.endStage b e x st).boom c = s.boom c := by
  have cut : (s.stageCut b e).boom c = s.boom c := by
    unfold State.stageCut
    cases e.code with
    | none => by_cases he : e = .success <;> simp [he, boom_modLink_other _ hc, boom_withdraw_without h]
    | some f =>
      have marked : kindsOf (s.markFault b f).arbiter.demands c = [] := by rw [arbiter_markFault]; exact h
      by_cases he : e = .success <;>
        simp [he, boom_modLink_other _ hc, boom_withdraw_without marked, boom_markFault_other s hc]
  rw [endStage_eq, boom_stageReported, boom_afterStage_other _ hc, boom_settleStage_other _ hc, cut]

/-- The other boom's SUPPLY end behind a boom that has no demand left. -/
theorem leaves_supplyEnd {s : State} {b c : Boom} (h : c ≠ b) (rests : s.demandKinds c = []) (st : BoomState × Option RunCondition) :
    s.Leaves (s.supplyEnd b st) c := by
  cases stage : (s.boom b).ctl.state.isStage with
  | false => rw [supplyEnd_waits stage]; exact .refl s c
  | true =>
    rw [supplyEnd_stage stage]
    obtain ⟨on, flags⟩ := otherPort_endStage s h (e := .fault .supply) (by simp) none st
    obtain ⟨flow, owes, ready, turned, all⟩ := flagged_endStage s b (e := .fault .supply) (by simp) none st
    refine ⟨boom_endStage_without h rests _ none st, fun _ => ?_, fun h2 => ?_, fun h3 => ?_, ?_, ?_, all.machineWear⟩
    · have kept := kindsOf_withdraw (s.markFault b .supply) b c
      rw [State.demandKinds, arbiter_endStage]
      refine kept.trans ?_
      rw [if_neg h, arbiter_markFault]
      exact rests
    all_goals rw [flags]; simp [Causes.join, Causes.clear, *]

/-- INTERLOCK's flags are of no other cause. -/
theorem interlockFlag_only (s : State) (on : Bool) (p : Port) :
    ∃ i, bothFlags (machineFlag .interlock true) (bothFlags (s.boomFlag .left .interlock on) (s.boomFlag .right .interlock on)) p =
      { Causes.clear with c1 := i } :=
  ⟨(bothFlags (machineFlag .interlock true) (bothFlags (s.boomFlag .left .interlock on) (s.boomFlag .right .interlock on)) p).c1, by
    simp [bothFlags, Causes.join, machineFlag_eq, boomFlag_eq, Causes.put, Causes.clear, BoomCause.code, MachineCause.code]⟩

theorem leaves_raiseInterlock (s : State) (b : Boom) (old new : Interlocks) : s.Leaves (s.raiseInterlock old new) b := by
  have flags := flagged_raiseInterlock s old new
  have own := flags.causes b.port
  obtain ⟨i, only⟩ := interlockFlag_only s (decide (new.refusing ≠ old.refusing)) b.port
  rw [only] at own
  refine ⟨by simp, fun h => by rw [State.demandKinds, arbiter_raiseInterlock]; exact h, fun h => ?_, fun h => ?_, ?_, ?_,
    flags.machineWear⟩
  all_goals rw [own]; simp [Causes.join, Causes.clear, *]

end Sys2Proof.Machine

/-! ## A SUPPLY end at its own boom (R98; O35) -/
namespace Sys2Proof.Machine

/-- What a boom whose grants moved has kept. -/
theorem kept_of_ungranted {u v : BoomUnit} (h : u.ungranted = v.ungranted) :
    u.ctl.state = v.ctl.state ∧ u.ctl.hole = v.ctl.hole ∧ u.ctl.peak = v.ctl.peak ∧ u.tracker = v.tracker ∧ u.strata = v.strata ∧
      u.anchorage = v.anchorage :=
  ⟨(congrArg (fun w : BoomUnit => w.ctl.state) h :), (congrArg (fun w : BoomUnit => w.ctl.hole) h :),
    (congrArg (fun w : BoomUnit => w.ctl.peak) h :), (congrArg BoomUnit.tracker h :),
    (congrArg (fun w : BoomUnit => (w.classifier, w.wear)) h :), (congrArg BoomUnit.anchorage h :)⟩

/-- The record that a close archives looks at nothing that a grant moves. -/
theorem completes_of {r h : HoleRecord} {u v u' v' : BoomUnit} {now : Millis} (hu : u'.ungranted = u.ungranted) (hv : v' = v)
    (c : r.completes h u' v now) : r.completes h u v' now := by
  obtain ⟨state, -, peak, -⟩ := kept_of_ungranted hu
  subst hv
  unfold HoleRecord.completes at c ⊢
  rw [state, peak] at c
  exact c

/-- LAYER called for by slices, behind acts that move a boom's grants. -/
theorem raisesLayer_regrants {s u : State} {b : Boom} (h : s.Regrants u b) (cs : List ClosedSlice) :
    u.raisesLayer b cs ↔ s.raisesLayer b cs := by
  obtain ⟨-, -, -, -, strata, -⟩ := kept_of_ungranted h.boom
  rw [← raisesLayer_iff, (acts_congr h.back b).2.1, anyHanded_congr h.back, strata, raisesLayer_iff]

theorem crossesWear_regrants {s u : State} {b : Boom} (h : s.Regrants u b) (cs : List ClosedSlice) :
    u.crossesWear b cs ↔ s.crossesWear b cs := by
  obtain ⟨-, -, -, -, strata, -⟩ := kept_of_ungranted h.boom
  rw [← crossesWear_iff, (acts_congr h.back b).2.2, anyHanded_congr h.back, strata, crossesWear_iff]

theorem settledNow_regrants {s u : State} {b : Boom} (h : s.Regrants u b) : u.settledNow b = s.settledNow b := by
  obtain ⟨state, -, -, tracker, -⟩ := kept_of_ungranted h.boom
  exact settledNow_congr state tracker

/-- A hole left open between such acts. -/
theorem leavesHole_regrants {s u v t : State} {b : Boom} {cs : List ClosedSlice} {reason : EndReason} (pre : s.Regrants u b)
    (post : v.Leaves t b) (h : u.leavesHole v b cs reason) : s.leavesHole t b cs reason := by
  obtain ⟨hstate, hbetween, hstrata, hlayer, hslice, hanch⟩ := h
  obtain ⟨state, -, -, tracker, strata, anchorage⟩ := kept_of_ungranted pre.boom
  have params : u.params = s.params := congrArg Backdrop.params pre.back
  have wear : (u.boom b).wear = (s.boom b).wear := congrArg Prod.snd strata
  rw [state, tracker] at hstate
  rw [params] at hbetween
  rw [wear, handed_congr pre.back strata] at hstrata
  rw [state] at hslice
  rw [state, params, calib_of_backdrop pre.back, tracker, anchorage] at hanch
  unfold State.layerFlag at hlayer
  rw [enabled_congr (straps_of_backdrop pre.back), raisesLayer_regrants pre, pre.layer] at hlayer
  unfold State.leavesHole State.layerFlag
  rw [post.layer, post.boom]
  exact ⟨hstate, hbetween, hstrata, hlayer, hslice, hanch⟩

/-- What R98 asks of a boom whose stage a lost supply ends. -/
structure State.SupplyLostAt (s t : State) (b : Boom) : Prop where
  run : (t.boom b).ctl.run = none
  kinds : t.demandKinds b = []
  latch : (t.boom b).link.stopLatch = true
  flags : s.enabled b = true → (t.port b.port).causes.c2 = true ∧ (t.port b.port).causes.c3 = true
  isOpen : ¬ (s.boom b).ctl.state.late →
    s.leavesHole t b (s.settledNow b) .supply ∧ (s.crossesWear b (s.settledNow b) → t.portMachine.causes.c7 = true) ∧
      ((t.port b.port).causes.c6 = true ↔
        (s.port b.port).causes.c6 = true ∨ (s.enabled b = true ∧ s.crossesWear b (s.settledNow b))) ∧
      (t.boom b).ctl.hole.map HoleRecord.fault = (s.boom b).ctl.hole.map fun _ => some .supply
  closed : (s.boom b).ctl.state.late → (t.boom b).ctl.state = .idle ∧ (t.boom b).ctl.hole = none ∧
    ∀ h, (s.boom b).ctl.hole = some h → (s.boom b).wear.outcomeTaken (t.boom b).wear { grade := .f, fault := some .supply }

/-- The end itself. -/
theorem supplyLostAt_endStage {u : State} {b : Boom} (stage : (u.boom b).ctl.state.isStage = true)
    (st : BoomState × Option RunCondition) : u.SupplyLostAt (u.endStage b (.fault .supply) none st) b := by
  have notReset : StageEnd.fault .supply ≠ .resetAbort := by simp
  have link := link_endStage u b (.fault .supply) none st
  obtain ⟨on, owes, ready, turned, flags⟩ := flagged_endStage u b notReset none st
  refine ⟨?_, kinds_endStage u b _ none st, by rw [link]; rfl, fun hen => ⟨?_, stageEnd_endStage u b notReset none st hen⟩,
    fun open' => ?_, fun late => ?_⟩
  · rcases isStage_cases stage with early | late
    · exact congrArg Controller.run (endStage_wait u b ((destination_supply _).1 early) none st).1
    · exact (endStage_close u b ((destination_supply _).2 late) none st).2.1
  · rw [flags.causes b.port]
    simp [Causes.join, bothFlags, State.reportFlag, boomFlag_eq, hen, Causes.put, BoomCause.code]
  · have early := (isStage_cases stage).resolve_right open'
    have lead := (destination_supply (u.boom b).tracker.contactSeen).1 early
    obtain ⟨left, fault⟩ := leavesHole_endStage notReset lead early none st
    obtain ⟨on, flags⟩ := flagged_endStage_wait notReset lead none st
    have own := waitFlags_eq u b on (u.settledNow b) (.fault .supply) b.port
    have machine := waitFlags_eq u b on (u.settledNow b) (.fault .supply) .machine
    have slices := (sliceFlags_of (cs := u.settledNow b) (turned := false) flags (by rw [own.1]; simp)
      (by rw [own.2.1]; simp) (by rw [machine.2.2]; simp)).2
    simp only [Bool.false_eq_true, or_false] at slices
    refine ⟨left, fun turns => slices.2.2 (.inr turns), slices.1, fault.trans ?_⟩
    simp only [StageEnd.marks, StageEnd.code, Option.map_map]
    rfl
  · have lead := (destination_supply (u.boom b).tracker.contactSeen).2 late
    obtain ⟨idle, -, holeless⟩ := endStage_close u b lead none st
    refine ⟨idle, holeless, fun h hh => ?_⟩
    obtain ⟨-, -, -, -, -, outcome, -⟩ := closedWith_endStage u b hh (late_uncut late) lead none st
    exact outcome

/-- The end between acts that move the boom's grants and acts that leave it. -/
theorem supplyLostAt_between {s u v t : State} {b : Boom} (pre : s.Regrants u b) (post : v.Leaves t b) (h : u.SupplyLostAt v b) :
    s.SupplyLostAt t b := by
  obtain ⟨state, hole, -, -, strata, -⟩ := kept_of_ungranted pre.boom
  have enabled : u.enabled = s.enabled := enabled_congr (straps_of_backdrop pre.back)
  have slices := settledNow_regrants pre
  have crosses := crossesWear_regrants pre (s.settledNow b)
  obtain ⟨run, kinds, latch, flags, isOpen, closed⟩ := h
  rw [enabled] at flags
  rw [state, slices, crosses, enabled, pre.wear, hole] at isOpen
  rw [state, hole, show (u.boom b).wear = (s.boom b).wear from congrArg Prod.snd strata] at closed
  refine ⟨by rw [post.boom]; exact run, post.kinds kinds, by rw [post.boom]; exact latch,
    fun hen => ⟨post.stageFault (flags hen).1, post.stageEnd (flags hen).2⟩, fun early => ?_, by rw [post.boom]; exact closed⟩
  obtain ⟨left, machine, wear, fault⟩ := isOpen early
  exact ⟨leavesHole_regrants pre post left, fun turns => post.machineWear (machine turns), by rw [post.wear]; exact wear,
    by rw [post.boom]; exact fault⟩

end Sys2Proof.Machine

/-! ## A lost supply, and a confirmed target (O35) -/
namespace Sys2Proof.Machine

/-! ### Both booms' ends, the left first (log 12) -/

/-- A SUPPLY onset by itself suspends nothing (R98). -/
theorem suspendStage_supply (s : State) (b : Boom) : s.suspendStage b { Interlocks.empty with supplyLow := true } = s := by
  have none' (st : BoomState) : ({ Interlocks.empty with supplyLow := true } : Interlocks).inter (suspenders st) = Interlocks.empty := by
    cases st <;> rfl
  unfold State.suspendStage
  simp only [none', if_true]

/-- The announcement of a lost supply: the arbiter's part, then the left boom's end, then the right boom's. -/
theorem announce_supply {s : State} {old : Interlocks} (onset : s.interlocks.minus old = { Interlocks.empty with supplyLow := true })
    (changed : old ≠ s.interlocks) :
    s.announce old =
      ((s.refreshFlow.supplyEnd .left (s.stance .left)).supplyEnd .right (s.stance .right)).raiseInterlock old s.interlocks := by
  rw [announce_changed changed, onset]
  unfold State.reacted
  simp only [suspendStage_supply, if_true]

/-- The row after a lost supply, from any state with the same row, plan, stage and hole. -/
theorem rowSupplyLost_congr {s u : State} {b : Boom} (row : u.rowMap = s.rowMap) (params : u.params = s.params)
    (state : (u.boom b).ctl.state = (s.boom b).ctl.state) (hole : (u.boom b).ctl.hole = (s.boom b).ctl.hole) :
    u.rowSupplyLost b = s.rowSupplyLost b := by
  unfold State.rowSupplyLost State.rowClosed
  rw [row, params, state, hole]

/-- The states that an announced loss of supply goes through. -/
structure State.SuppliesEnd (s f l r t : State) : Prop where
  flowed : f = s.refreshFlow
  left : l = f.supplyEnd .left (s.stance .left)
  right : r = l.supplyEnd .right (s.stance .right)
  raised : ∃ old new, t = r.raiseInterlock old new

namespace State.SuppliesEnd

variable {s f l r t : State} (h : s.SuppliesEnd f l r t)
include h

theorem regrants_left : s.Regrants f .left := by rw [h.flowed]; exact regrants_refreshFlow s _

theorem regrants_right : s.Regrants l .right := by
  rw [h.left]
  refine State.Regrants.trans ?_ (regrants_supplyEnd f (by decide) _)
  rw [h.flowed]; exact regrants_refreshFlow s _

theorem leaves_right : r.Leaves t .right := by
  obtain ⟨old, new, rfl⟩ := h.raised
  exact leaves_raiseInterlock r _ old new

theorem state_left : (f.boom .left).ctl.state = (s.boom .left).ctl.state ∧ (f.boom .left).ctl.hole = (s.boom .left).ctl.hole := by
  obtain ⟨state, hole, -⟩ := kept_of_ungranted h.regrants_left.boom
  exact ⟨state, hole⟩

theorem state_right : (l.boom .right).ctl.state = (s.boom .right).ctl.state ∧ (l.boom .right).ctl.hole = (s.boom .right).ctl.hole := by
  obtain ⟨state, hole, -⟩ := kept_of_ungranted h.regrants_right.boom
  exact ⟨state, hole⟩

/-- What is behind the left boom's end moves of it only what a grant moves. -/
theorem ungranted_left : (t.boom .left).ungranted = (l.boom .left).ungranted := by
  obtain ⟨old, new, rfl⟩ := h.raised
  rw [boom_raiseInterlock, h.right]
  exact (regrants_supplyEnd l (b := .right) (c := .left) (by decide) _).boom

theorem boom_right : t.boom .right = r.boom .right := h.leaves_right.boom

theorem supplyLost_left (stage : (s.boom .left).ctl.state.isStage = true) : s.SupplyLostAt t .left ∧ t.boom .left = l.boom .left := by
  have stages : (f.boom .left).ctl.state.isStage = true := by rw [h.state_left.1]; exact stage
  have ended := supplyLostAt_endStage stages (s.stance .left)
  rw [← supplyEnd_stage stages, ← h.left] at ended
  have behind : l.Leaves t .left := by
    obtain ⟨old, new, rfl⟩ := h.raised
    rw [h.right]
    exact (leaves_supplyEnd (by decide) ended.kinds _).trans (leaves_raiseInterlock _ _ old new)
  exact ⟨supplyLostAt_between h.regrants_left behind ended, behind.boom⟩

theorem supplyLost_right (stage : (s.boom .right).ctl.state.isStage = true) : s.SupplyLostAt t .right := by
  have stages : (l.boom .right).ctl.state.isStage = true := by rw [h.state_right.1]; exact stage
  have ended := supplyLostAt_endStage stages (s.stance .right)
  rw [← supplyEnd_stage stages, ← h.right] at ended
  exact supplyLostAt_between h.regrants_right h.leaves_right ended

/-- A boom that is in no stage stays in its state, with its hole. -/
theorem waits (b : Boom) (wait : (s.boom b).ctl.state.isStage = false) :
    (t.boom b).ctl.state = (s.boom b).ctl.state ∧ (t.boom b).ctl.hole = (s.boom b).ctl.hole := by
  cases b with
  | left =>
    obtain ⟨state, hole, -⟩ := kept_of_ungranted h.ungranted_left
    rw [state, hole, h.left, supplyEnd_waits (by rw [h.state_left.1]; exact wait)]
    exact h.state_left
  | right =>
    rw [h.boom_right, h.right, supplyEnd_waits (by rw [h.state_right.1]; exact wait)]
    exact h.state_right

theorem interlocks_end : l.interlocks = s.interlocks ∧ r.interlocks = s.interlocks ∧ t.interlocks = s.interlocks := by
  have left : l.interlocks = s.interlocks := by rw [h.left, interlocks_supplyEnd, h.flowed, interlocks_refreshFlow]
  have right : r.interlocks = s.interlocks := by rw [h.right, interlocks_supplyEnd, left]
  obtain ⟨old, new, rfl⟩ := h.raised
  exact ⟨left, right, (interlocks_of (by simp) (by simp)).trans right⟩

theorem faultLog_ends :
    t.faultLog = ((if (s.boom .left).ctl.state.isStage then [s.faultRecord t .left .supply none] else []) ++
      (if (s.boom .right).ctl.state.isStage then [s.faultRecord t .right .supply none] else [])).foldl FaultLog.record s.faultLog := by
  obtain ⟨locksL, locksR, locksT⟩ := h.interlocks_end
  have recordL : s.faultRecord l .left .supply none = s.faultRecord t .left .supply none := by
    obtain ⟨-, -, -, tracker, -⟩ := kept_of_ungranted h.ungranted_left
    unfold State.faultRecord
    rw [tracker, locksL, locksT]
  have recordR : s.faultRecord r .right .supply none = s.faultRecord t .right .supply none := by
    unfold State.faultRecord
    rw [h.boom_right, locksR, locksT]
  have left := faultLog_supplyEnd (s := s) (u := f) h.regrants_left.back .left
  have right := faultLog_supplyEnd (s := s) (u := l) h.regrants_right.back .right
  rw [← h.left, h.state_left.1, recordL, show f.faultLog = s.faultLog by rw [h.flowed]; simp] at left
  rw [← h.right, h.state_right.1, recordR, left] at right
  obtain ⟨old, new, rfl⟩ := h.raised
  rw [faultLog_raiseInterlock, List.foldl_append]
  exact right

theorem holeLog_ends :
    ∃ hs : Boom → List HoleRecord, t.holeLog = (hs .left ++ hs .right).foldl HoleLog.archive s.holeLog ∧
      ∀ b, (¬ (s.boom b).ctl.state.late ∨ (s.boom b).ctl.hole = none → hs b = []) ∧
        ∀ k, (s.boom b).ctl.hole = some k → (s.boom b).ctl.state.late → ∃ r, hs b = [r] ∧ r.grade = some .f ∧ r.fault = some .supply ∧
          r.torque = k.torque ∧ r.completes k (s.boom b) (t.boom b) s.millis := by
  obtain ⟨hsL, archivedL, noneL, oneL⟩ := holeLog_supplyEnd f .left (s.stance .left)
  obtain ⟨hsR, archivedR, noneR, oneR⟩ := holeLog_supplyEnd l .right (s.stance .right)
  rw [h.state_left.1, h.state_left.2] at noneL oneL
  rw [h.state_right.1, h.state_right.2] at noneR oneR
  rw [← h.left] at archivedL oneL
  rw [← h.right] at archivedR oneR
  have millisL : f.millis = s.millis := congrArg Backdrop.millis h.regrants_left.back
  have millisR : l.millis = s.millis := congrArg Backdrop.millis h.regrants_right.back
  refine ⟨fun b => match b with | .left => hsL | .right => hsR, ?_, fun b => ?_⟩
  · obtain ⟨old, new, ht⟩ := h.raised
    rw [ht, holeLog_raiseInterlock, List.foldl_append, archivedR, archivedL, show f.holeLog = s.holeLog by rw [h.flowed]; simp]
  · cases b with
    | left =>
      refine ⟨noneL, fun k hk late => ?_⟩
      obtain ⟨r, one, grade, fault, torque, completes⟩ := oneL k hk late
      rw [millisL] at completes
      exact ⟨r, one, grade, fault, torque,
        completes_of h.regrants_left.boom (h.supplyLost_left (late_stage late)).2 completes⟩
    | right =>
      refine ⟨noneR, fun k hk late => ?_⟩
      obtain ⟨r, one, grade, fault, torque, completes⟩ := oneR k hk late
      rw [millisR] at completes
      exact ⟨r, one, grade, fault, torque, completes_of h.regrants_right.boom h.boom_right completes⟩

theorem rowMap_ends : t.rowMap = State.rowSupplyLost { s with rowMap := s.rowSupplyLost .left } .right := by
  have left : l.rowMap = s.rowSupplyLost .left := by
    rw [h.left, rowMap_supplyEnd]
    exact rowSupplyLost_congr (by rw [h.flowed]; simp) (congrArg Backdrop.params h.regrants_left.back) h.state_left.1 h.state_left.2
  obtain ⟨old, new, rfl⟩ := h.raised
  rw [rowMap_raiseInterlock, h.right, rowMap_supplyEnd]
  exact rowSupplyLost_congr left (congrArg Backdrop.params h.regrants_right.back) h.state_right.1 h.state_right.2

theorem supplyEnds : s.supplyEnds t := by
  refine ⟨h.faultLog_ends, h.holeLog_ends, h.rowMap_ends, fun b => ⟨h.waits b, fun stage => ?_⟩⟩
  have lost : s.SupplyLostAt t b := by
    cases b with
    | left => exact (h.supplyLost_left stage).1
    | right => exact h.supplyLost_right stage
  exact ⟨lost.run, lost.kinds, lost.latch, lost.flags, lost.isOpen, lost.closed⟩

end State.SuppliesEnd

end Sys2Proof.Machine

/-! ## A confirmed target (O35) -/
namespace Sys2Proof.Machine

/-! ### The conversion that confirms a target (R141) -/

/-- The state in which a channel's changed breach is announced. -/
def State.confirmed (s : State) (k : Nat) (c : Channel) (code : Nat) (target : Breach) : State :=
  s.modMonitor fun m =>
    { m with
      channels := m.channels.set k { c with last := some code, breach := target, debounce := none }
      round := .converting (m.channelFrom (k + 1)), roundTimer := 0 }

theorem convert_confirmed {c : Channel} {code : Nat} {target : Breach} (enabled : c.limits.enabled = true)
    (sees : c.sees code (some target)) (debounce : c.debounce = some target) :
    c.convert code = { c with last := some code, breach := target, debounce := none } := by
  have target' : ({ c with last := some code } : Channel).target code = some target := target_of_sees c code _ sees
  unfold Channel.convert
  rw [enabled, if_pos rfl, target', Channel.debounced, if_pos debounce]

/-- A target is never the breach state that it is judged from. -/
theorem target_ne_breach {c : Channel} {code : Nat} {target : Breach} (sees : c.sees code (some target)) : c.breach ≠ target := by
  cases target <;> exact sees.1

theorem breach_confirmed {s : State} {k code : Nat} {c : Channel} {target : Breach} (channel : s.monitor.channels[k]? = some c) (i : Nat) :
    (s.confirmed k c code target).monitor.breach i = if i = k then target else s.monitor.breach i := by
  rw [State.confirmed, monitor_modMonitor]
  exact breach_set channel _ _ _ i

theorem breach_of_channel {m : Monitor} {k : Nat} {c : Channel} (channel : m.channels[k]? = some c) : m.breach k = c.breach := by
  simp [Monitor.breach, channel]

theorem exec_breachChange {s : State} {code : Code} {k : Nat} {c : Channel} {target : Breach} (round : s.monitor.round = .converting k)
    (hk : k < 6) (timer : 1 ≤ s.monitor.roundTimer) (channel : s.monitor.channels[k]? = some c) (enabled : c.limits.enabled = true)
    (sees : c.sees code.toNat (some target)) (debounce : c.debounce = some target) :
    exec (.breachChange code) s = .next ((s.confirmed k c code.toNat target).announce s.interlocks) := by
  have due : s.monitor.conversionDue = some k := by
    unfold Monitor.conversionDue
    rw [round]
    exact if_pos timer
  have converted : s.monitor.convertChannel k code.toNat = (s.confirmed k c code.toNat target).monitor := by
    rw [Monitor.convertChannel, modify_convert channel (convert_confirmed enabled sees debounce)]
    rfl
  have changes : s.monitor.breachDue code.toNat = true := by
    unfold Monitor.breachDue
    rw [due]
    simp only [converted, breach_confirmed channel, if_true, breach_of_channel channel, hk, decide_true, Bool.true_and, bne_iff_ne]
    exact (target_ne_breach sees).symm
  have act : s.convert code.toNat = (s.confirmed k c code.toNat target).announce s.interlocks := by
    unfold State.convert
    rw [due]
    simp only [hk, if_true, State.convertChannel]
    refine congrArg (fun u : State => u.announce s.interlocks) ?_
    rw [State.modMonitor, converted]
    rfl
  show (if s.monitor.breachDue code.toNat then Host.Outcome.next (s.convert code.toNat) else .next s) = _
  rw [changes, if_pos rfl, act]

/-! ### The onset (R142, R148) -/

/-- The set behind the change of one channel's breach. -/
theorem interlocks_confirmed {s : State} {k code : Nat} {c : Channel} {target : Breach} (channel : s.monitor.channels[k]? = some c) :
    (s.confirmed k c code target).interlocks =
      { s.interlocks with
        gas := (if 0 = k then target else s.monitor.breach 0) != .inside
        pumpLow := (if 1 = k then target else s.monitor.breach 1) == .lo
        oilHot := (if 2 = k then target else s.monitor.breach 2) == .hi
        supportLost := (if 3 = k then target else s.monitor.breach 3) == .lo || !s.rowMap.supportSet
        dustLow := (if 4 = k then target else s.monitor.breach 4) == .lo
        supplyLow := (if 5 = k then target else s.monitor.breach 5) == .lo } := by
  simp only [State.interlocks, breach_confirmed channel]
  rfl

/-- Interlocks that a channel's change makes active. -/
def State.onsetAt (s : State) (k : Nat) (c : Channel) (code : Nat) (target : Breach) : Interlocks :=
  (s.confirmed k c code target).interlocks.minus s.interlocks

theorem not_supply_onset {s : State} {k code : Nat} {c : Channel} {target : Breach} (channel : s.monitor.channels[k]? = some c)
    (hk : k ≠ 5) : (s.onsetAt k c code target).supplyLow = false := by
  rw [State.onsetAt, interlocks_confirmed channel]
  simp [Interlocks.minus, State.interlocks, Ne.symm hk]

/-- The onset that suspends a drilling stage (R98). -/
theorem drill_onset {s : State} {k code : Nat} {c : Channel} {target : Breach} (channel : s.monitor.channels[k]? = some c)
    (ne : c.breach ≠ target) (h : (k = 0 ∧ c.breach = .inside) ∨ (k = 4 ∧ target = .lo)) {st : BoomState}
    (hst : st = .collaring ∨ st = .drilling) : (s.onsetAt k c code target).inter (suspenders st) ≠ Interlocks.empty := by
  have own := breach_of_channel channel
  rw [State.onsetAt, interlocks_confirmed channel]
  intro none'
  rcases h with ⟨rfl, inside⟩ | ⟨rfl, rfl⟩
  · have gas := congrArg Interlocks.gas none'
    rw [inside] at own ne
    rcases hst with rfl | rfl <;>
      simp [Interlocks.inter, Interlocks.minus, State.interlocks, own, suspenders, BoomState.cutsGround, Interlocks.union,
        Interlocks.drillSuspenders, Interlocks.allSuspenders, Interlocks.empty, ne.symm] at gas
  · have dust := congrArg Interlocks.dustLow none'
    rcases hst with rfl | rfl <;>
      simp [Interlocks.inter, Interlocks.minus, State.interlocks, own, suspenders, BoomState.cutsGround, Interlocks.union,
        Interlocks.drillSuspenders, Interlocks.allSuspenders, Interlocks.empty, ne] at dust

/-- The onset that suspends every stage (R98). -/
theorem support_onset {s : State} {code : Nat} {c : Channel} (channel : s.monitor.channels[3]? = some c) (ne : c.breach ≠ .lo)
    (set : s.rowMap.supportSet = true) {st : BoomState} (stage : st.isStage = true) :
    (s.onsetAt 3 c code .lo).inter (suspenders st) ≠ Interlocks.empty := by
  have own := breach_of_channel channel
  rw [State.onsetAt, interlocks_confirmed channel]
  intro none'
  have support := congrArg Interlocks.supportLost none'
  have suspends : (suspenders st).supportLost = true := by
    cases st <;> first | rfl | cases stage
  simp [Interlocks.inter, Interlocks.minus, State.interlocks, own, suspends, Interlocks.empty, ne, set] at support

/-- The supply lost, and nothing else. -/
theorem supply_onset {s : State} {code : Nat} {c : Channel} (channel : s.monitor.channels[5]? = some c) (ne : c.breach ≠ .lo) :
    s.onsetAt 5 c code .lo = { Interlocks.empty with supplyLow := true } ∧ s.interlocks ≠ (s.confirmed 5 c code .lo).interlocks := by
  have own := breach_of_channel channel
  have before : s.interlocks.supplyLow = false := by simp [State.interlocks, own, ne]
  have after : (s.confirmed 5 c code .lo).interlocks = { s.interlocks with supplyLow := true } := by
    rw [interlocks_confirmed channel]
    rfl
  refine ⟨?_, fun same => ?_⟩
  · rw [State.onsetAt, after]
    simp [Interlocks.minus, Interlocks.empty, before]
  · have := congrArg Interlocks.supplyLow (same.trans after)
    rw [before] at this
    cases this

/-! ### The obligation -/

theorem boom_confirmed (s : State) (k : Nat) (c : Channel) (code : Nat) (target : Breach) (b : Boom) :
    (s.confirmed k c code target).boom b = s.boom b := by simp [State.confirmed]

theorem suspends_confirmed {s : State} {k code : Nat} {c : Channel} {target : Breach} {b : Boom}
    (supply : (s.onsetAt k c code target).supplyLow = false)
    (onset : (s.onsetAt k c code target).inter (suspenders (s.boom b).ctl.state) ≠ Interlocks.empty) :
    s.suspends ((s.confirmed k c code target).announce s.interlocks) b := by
  obtain ⟨kinds, boom⟩ := suspends_announce (s.confirmed k c code target) b (old := s.interlocks) supply
    (by rw [boom_confirmed]; exact onset)
  rw [boom_confirmed] at boom
  refine ⟨kinds, ?_⟩
  rw [interlocks_announce]
  exact boom

theorem supplyEnds_confirmed {s : State} {code : Nat} {c : Channel} (channel : s.monitor.channels[5]? = some c) (ne : c.breach ≠ .lo) :
    s.supplyEnds ((s.confirmed 5 c code .lo).announce s.interlocks) := by
  obtain ⟨onset, changed⟩ := supply_onset (code := code) channel ne
  have ends := State.SuppliesEnd.supplyEnds (s := s.confirmed 5 c code .lo)
    ⟨rfl, rfl, rfl, s.interlocks, (s.confirmed 5 c code .lo).interlocks, rfl⟩
  rw [← announce_supply onset changed] at ends
  exact ends

/-- Settles O35: the conversion confirms the target, and the announcement of the set that follows from it does the rest, by the interlock
that it makes active. -/
theorem aConfirmedTargetChangesTheInterlockSetInOneAct : Obligations.AConfirmedTargetChangesTheInterlockSetInOneAct := by
  unfold Obligations.AConfirmedTargetChangesTheInterlockSetInOneAct
  intro s code k c target round hk timer channel enabled sees debounce
  have ne := target_ne_breach sees
  let u := s.confirmed k c code.toNat target
  have locks : (u.announce s.interlocks).interlocks = u.interlocks := interlocks_announce u _
  refine ⟨u.announce s.interlocks, s.monitor.channelFrom (k + 1), exec_breachChange round hk timer channel enabled sees debounce,
    nextFrom_channelFrom _ _, by simp [u, State.confirmed], by rw [monitor_announce]; rfl, fun same => ?_, fun changed => ?_,
    interlockFlags_announce (fun p => by simp [u, State.confirmed]) (by simp [u, State.confirmed]), fun other => ?_, fun onset b hst => ?_,
    fun support lo set b stage => ?_, fun supply lo => ?_⟩
  · rw [announce_same u (by rw [← locks]; exact same.symm)]
    rfl
  · rw [locks] at changed ⊢
    exact qAvail_announce changed.symm
  · obtain ⟨⟨stands, holes⟩, faults, row⟩ := holesStand_announce u (not_supply_onset (target := target) channel other)
    refine ⟨⟨fun b => ?_, holes.trans (by simp [u, State.confirmed])⟩, faults.trans (by simp [u, State.confirmed]),
      row.trans (by simp [u, State.confirmed])⟩
    rw [← boom_confirmed s k c code.toNat target b]
    exact stands b
  · refine suspends_confirmed (not_supply_onset channel ?_) (drill_onset channel ne onset hst)
    rcases onset with ⟨rfl, -⟩ | ⟨rfl, -⟩ <;> decide
  · subst support lo
    exact suspends_confirmed (not_supply_onset channel (by decide)) (support_onset channel ne set stage)
  · subst supply lo
    exact supplyEnds_confirmed channel ne

end Sys2Proof.Machine

/-! ## The timers that close a hole (O33) -/
namespace Sys2Proof.Machine

/-! ### When a timer is due -/

theorem reached_of_le {timer : Option Nat} {n limit : Nat} (h : timer = some n) (hn : limit ≤ n) : reached timer limit = true := by
  simp [h, reached, hn]

/-- A wait state with the between-stage timer is no stage, and cuts no ground. -/
theorem not_stage_of_waitsBetween {st : BoomState} (h : st.waitsBetween = true) : st.cutsGround = false ∧ st.isStage = false := by
  revert h
  cases st <;> decide

/-! ### The grades (R101) -/

/-- A hole finished without an achieved torque takes C. -/
theorem gradeOf_finished_unachieved {h : HoleRecord} (st : BoomState) (a : Option Anchorage) (ht : h.torque ≠ some .achieved) :
    gradeOf .finished st h a = .c := if_pos (.inr (.inr (.inr ht)))

/-- A hole given up where the between-stage timer runs takes X. -/
theorem gradeOf_givenUp_waits {st : BoomState} (hw : st.waitsBetween = true) (h : HoleRecord) (a : Option Anchorage) :
    gradeOf .givenUp st h a = .x := by
  have before : st.beforeInserting = true := by revert hw; cases st <;> decide
  exact if_pos before

/-! ### What closes a hole, with its flags -/

/-- A fault closes the hole (R96, R102): its record, STAGE_END exactly where it ends a stage, and FLOW for a changed grant. -/
structure State.TimedOut (s t : State) (b : Boom) (h : HoleRecord) (g : Grade) (f : FaultCode) (torque : Option TorqueResult) :
    Prop where
  apart : s.elsewhere t b
  closed : s.closedWith t b h g (some f) torque
  written : s.faultWritten t b f none
  flow : s.flowFlags t
  ended : (t.port b.port).causes.c3 = true ↔
    (s.port b.port).causes.c3 = true ∨ (s.enabled b = true ∧ (s.boom b).ctl.state.isStage = true)

theorem stageEndFlag_endStage (s : State) (b : Boom) {e : StageEnd} (he : e ≠ .resetAbort) (x : Option Nat)
    (st : BoomState × Option RunCondition) :
    ((s.endStage b e x st).port b.port).causes.c3 = ((s.port b.port).causes.c3 || s.enabled b) := by
  obtain ⟨on, owes, ready, turned, flags⟩ := flagged_endStage s b he x st
  have notMachine : decide (b.port = .machine) = false := by cases b <;> rfl
  rw [flags.causes b.port]
  simp [Causes.join, bothFlags, flowOn, State.slicesFlag, State.closeFlag, State.reportFlag, wearFlag_eq, boomFlag_eq, machineFlag_eq,
    Causes.put, Causes.clear, BoomCause.code, MachineCause.code, notMachine]

/-- A fault in a wait state raises what the close raises, and STAGE_FAULT. -/
theorem flagged_faultInWait (s : State) (b : Boom) (f : FaultCode) (how : CloseKind) :
    ∃ owes ready turned, s.flagged (s.faultInWait b f how)
      (bothFlags (s.closeFlag b owes ready turned) (s.boomFlag b .stageFault true)) := by
  have reported (u : State) (hp : ∀ p, u.port p = s.port p) (hs : u.straps = s.straps) :
      ∃ owes ready turned, s.flagged
        (((u.closeHole b how (s.stance b).1 (some f)).raise b .stageFault).logBoomFault b f none (s.stance b))
        (bothFlags (s.closeFlag b owes ready turned) (s.boomFlag b .stageFault true)) := by
    obtain ⟨owes, ready, turned, closed⟩ := flagged_closeHole u b how (s.stance b).1 (some f)
    have raised := flagged_raise (u.closeHole b how (s.stance b).1 (some f)) b .stageFault
    have straps : (u.closeHole b how (s.stance b).1 (some f)).straps = s.straps :=
      (straps_of_backdrop (backdrop_closeHole u b how _ _)).trans hs
    rw [boomFlag_congr straps] at raised
    have same : u.closeFlag b owes ready turned = s.closeFlag b owes ready turned := by simp only [State.closeFlag, wearFlag_congr hs]
    rw [same] at closed
    exact ⟨owes, ready, turned, (State.flagged.after hp (closed.trans raised)).before fun p => by cases p <;> rfl⟩
  unfold State.faultInWait
  simp only []
  split
  · exact reported _ (fun p => by simp [State.markFault]) (by simp [State.markFault])
  · exact reported _ (fun p => by simp [State.markFault]) (by simp [State.markFault])

theorem timedOut_endStage {s : State} {b : Boom} {h : HoleRecord} {f : FaultCode} {how : CloseKind} {g : Grade}
    {torque : Option TorqueResult} (hh : (s.boom b).ctl.hole = some h) (hst : (s.boom b).ctl.state.isStage = true)
    (hcut : (s.boom b).ctl.state.cutsGround = false)
    (lead : destination (s.boom b).ctl.state (s.boom b).tracker.contactSeen (.fault f) = .closes how)
    (ht : (StageEnd.fault f).torqueAfter (s.boom b).ctl.state h.torque = torque)
    (hg : gradeOf how (s.boom b).ctl.state { h with torque } (s.boom b).anchorage = g) :
    s.TimedOut (s.endStage b (.fault f) none (s.stance b)) b h g f torque where
  apart := elsewhere_endStage s b _ _ _
  closed := by
    subst ht hg
    exact closedWith_endStage s b hh hcut lead none _
  written := faultWritten_endStage s b f none
  flow := flowFlags_endStage s b (by simp) none _
  ended := by rw [stageEndFlag_endStage s b (by simp), hst]; simp

theorem timedOut_faultInWait {s : State} {b : Boom} {h : HoleRecord} {f : FaultCode} {how : CloseKind} {g : Grade}
    {torque : Option TorqueResult} (hh : (s.boom b).ctl.hole = some h) (hst : (s.boom b).ctl.state.isStage = false)
    (hcut : (s.boom b).ctl.state.cutsGround = false) (ht : (torqueResultOf (.fault f)).or h.torque = torque)
    (hg : gradeOf how (s.boom b).ctl.state { h with torque } (s.boom b).anchorage = g) :
    s.TimedOut (s.faultInWait b f how) b h g f torque := by
  obtain ⟨owes, ready, turned, flags⟩ := flagged_faultInWait s b f how
  have notMachine : decide (b.port = .machine) = false := by cases b <;> rfl
  refine ⟨elsewhere_faultInWait s b f how, ?_, faultLog_faultInWait s b f how, fun p => ?_, ?_⟩
  · subst ht hg
    exact closedWith_faultInWait s b hh hcut f how
  · rw [flags.causes p, arbiter_faultInWait]
    simp [Causes.join, bothFlags, State.closeFlag, wearFlag_eq, boomFlag_eq, machineFlag_eq, Causes.put, Causes.clear, BoomCause.code,
      MachineCause.code]
  · rw [flags.causes b.port, hst]
    simp [Causes.join, bothFlags, State.closeFlag, wearFlag_eq, boomFlag_eq, machineFlag_eq, Causes.put, Causes.clear, BoomCause.code,
      MachineCause.code, notMachine]

/-! ### The five timers -/

theorem timedOut_torqueTimeout {s : State} {b : Boom} {h : HoleRecord} (hh : (s.boom b).ctl.hole = some h)
    (hst : (s.boom b).ctl.state = .torquing) :
    s.TimedOut (s.endStage b (.fault .torqueTimeout) none (s.stance b)) b h .c .torqueTimeout (some .torqueTimeout) :=
  timedOut_endStage hh (by rw [hst]; rfl) (by rw [hst]; rfl) (by rw [hst]; rfl) (by rw [hst]; rfl)
    (gradeOf_finished_unachieved _ _ (by simp))

theorem timedOut_mixIncomplete {s : State} {b : Boom} {h : HoleRecord} (hh : (s.boom b).ctl.hole = some h)
    (hst : (s.boom b).ctl.state = .spinning) :
    s.TimedOut (s.endStage b (.fault .mixIncomplete) none (s.stance b)) b h .f .mixIncomplete h.torque :=
  timedOut_endStage hh (by rw [hst]; rfl) (by rw [hst]; rfl) (by rw [hst]; rfl) (by rw [hst]; rfl) rfl

theorem timedOut_spinLate {s : State} {b : Boom} {h : HoleRecord} (hh : (s.boom b).ctl.hole = some h)
    (hst : (s.boom b).ctl.state = .inserted ∨ (s.boom b).ctl.state = .spinning) :
    s.TimedOut (s.expire b .spinLate .failed) b h .f .spinLate h.torque := by
  unfold State.expire
  rcases hst with hst | hst
  · rw [if_neg (by rw [hst]; decide)]
    exact timedOut_faultInWait hh (by rw [hst]; rfl) (by rw [hst]; rfl) rfl rfl
  · rw [if_pos (by rw [hst]; rfl)]
    exact timedOut_endStage hh (by rw [hst]; rfl) (by rw [hst]; rfl) (by rw [hst]; rfl) (by rw [hst]; rfl) rfl

theorem timedOut_torqueMissed {s : State} {b : Boom} {h : HoleRecord} (hh : (s.boom b).ctl.hole = some h)
    (hst : (s.boom b).ctl.state = .set ∨ (s.boom b).ctl.state = .torquing) :
    s.TimedOut (s.expire b .torqueMissed .finished) b h .c .torqueMissed (some .torqueMissed) := by
  have grade := gradeOf_finished_unachieved (h := { h with torque := some .torqueMissed }) (s.boom b).ctl.state (s.boom b).anchorage
    (by simp)
  unfold State.expire
  rcases hst with hst | hst
  · rw [if_neg (by rw [hst]; decide)]
    exact timedOut_faultInWait hh (by rw [hst]; rfl) (by rw [hst]; rfl) rfl grade
  · rw [if_pos (by rw [hst]; rfl)]
    exact timedOut_endStage hh (by rw [hst]; rfl) (by rw [hst]; rfl) (by rw [hst]; rfl) (by rw [hst]; rfl) grade

theorem timedOut_waitTimeout {s : State} {b : Boom} {h : HoleRecord} (hh : (s.boom b).ctl.hole = some h)
    (hw : (s.boom b).ctl.state.waitsBetween = true) :
    s.TimedOut (s.faultInWait b .waitTimeout .givenUp) b h .x .waitTimeout h.torque :=
  timedOut_faultInWait hh (not_stage_of_waitsBetween hw).2 (not_stage_of_waitsBetween hw).1 rfl (gradeOf_givenUp_waits hw _ _)

/-- Settles O33: each timer that is due is the end of its stage, or a fault in its wait state, and both close the hole. -/
theorem theResinTorqueAndWaitTimersCloseTheHole : Obligations.TheResinTorqueAndWaitTimersCloseTheHole := by
  unfold Obligations.TheResinTorqueAndWaitTimersCloseTheHole
  intro b s n h hh
  have row {c : Instr} {t : State} {g : Grade} {f : FaultCode} {q : Option TorqueResult} (he : exec c s = .next t)
      (out : s.TimedOut t b h g f q) : ∃ t, exec c s = .next t ∧ s.elsewhere t b ∧ s.closedWith t b h g (some f) q ∧
        s.faultWritten t b f none ∧ s.flowFlags t ∧ ((t.port b.port).causes.c3 = true ↔
          (s.port b.port).causes.c3 = true ∨ (s.enabled b = true ∧ (s.boom b).ctl.state.isStage = true)) :=
    ⟨t, he, out.apart, out.closed, out.written, out.flow, out.ended⟩
  refine ⟨fun hst ht hn => row (if_pos ?_) (timedOut_torqueTimeout hh hst),
    fun hst ht hn => row (if_pos ?_) (timedOut_mixIncomplete hh hst),
    fun hst ht hn => row (if_pos ?_) (timedOut_spinLate hh hst),
    fun hst ht hn => row (if_pos ?_) (timedOut_torqueMissed hh hst),
    fun limit hw hl ht hn => row (if_pos ?_) (timedOut_waitTimeout hh hw)⟩
  · simp [State.torqueTimeoutDue, hst, reached_of_le ht hn]
  · simp [State.mixIncompleteDue, hst, reached_of_le ht hn]
  · simp [State.spinLateDue, hst, reached_of_le ht hn]
  · simp [State.torqueMissedDue, hst, reached_of_le ht hn]
  · simp [State.waitTimeoutDue, hw, hl, reached_of_le ht hn]

end Sys2Proof.Machine

/-! ## The hardness of a measured slice (O56) -/
namespace Sys2Proof.Machine

theorem last_classify (k : ClassifierConsts) (cal : Calib) (w : Nat) (cl : Classifier) (c : ClosedSlice) :
    (classify k cal w cl c).classifier.last = some
      { top := c.top, bottom := c.bottom, n := c.n, nSpan := c.nSpan, isPartial := c.isPartial, saturated := c.saturated
        measure := sliceMeasure k cal cl.cr w c, given := sliceClass k (sliceMeasure k cal cl.cr w c) cl.layers
        placement :=
          (placeSlice k.lMin cl.layers
            (sliceLayer c (sliceClass k (sliceMeasure k cal cl.cr w c) cl.layers) (sliceMeasure k cal cl.cr w c))).how } := rfl

theorem sliceMeasure_of_samples {c : ClosedSlice} (hn : c.n ≠ 0) (k : ClassifierConsts) (cal : Calib) (cr w : Nat) :
    sliceMeasure k cal cr w c = some (measureSlice k cal cr w c) := if_neg hn

/-- W is at least 256, so the correction never raises the energy (R44). -/
theorem correctedEnergy_le {w : Nat} (hw : 256 ≤ w) (se10 : Nat) : correctedEnergy se10 w ≤ se10 := by
  unfold correctedEnergy
  calc se10 * 256 / w ≤ se10 * 256 / 256 := Nat.div_le_div_left hw (by decide)
    _ = se10 := Nat.mul_div_cancel _ (by decide)

theorem correctedEnergy_unworn (se10 : Nat) : correctedEnergy se10 256 = se10 := Nat.mul_div_cancel _ (by decide)

/-- Without feed and rotation work there is no specific energy (R40 to R42). -/
theorem se10_idle {c : ClosedSlice} (hf : c.sf = 0) (hr : c.sr = 0) (k : ClassifierConsts) (cal : Calib) (cr w : Nat) :
    (measureSlice k cal cr w c).se10 = 0 := by
  simp [measureSlice, feedEnergy, rotationEnergy, specificEnergy, hf, hr]

/-- H stands at its maximum from SE_full on (R45). -/
theorem hardness_full {seFull sec : Nat} (hs : 1 ≤ seFull) (h : seFull ≤ sec) : hardness seFull sec = 255 := by
  have : 255 ≤ sec * 255 / seFull := (Nat.le_div_iff_mul_le hs).2 (by rw [Nat.mul_comm]; exact Nat.mul_le_mul_right 255 h)
  exact min_eq_left this

/-- H at half of SE_full (R45). -/
theorem hardness_half {seFull sec : Nat} (hs : 1 ≤ seFull) (h : sec * 2 = seFull) : hardness seFull sec = 127 := by
  have half : sec * 255 / seFull = 127 := by
    rw [← h, Nat.mul_div_mul_left _ _ (by omega)]
  rw [hardness, half]
  rfl

/-- The raw class by the three thresholds (R46). -/
theorem rawClass_cases (k : ClassifierConsts) (h : Nat) :
    (h < k.tVoid → rawClass k h = .void) ∧ (k.tVoid ≤ h → h < k.tSoft → rawClass k h = .soft) ∧
      (k.tVoid ≤ h → k.tSoft ≤ h → h < k.tHard → rawClass k h = .firm) ∧
      (k.tVoid ≤ h → k.tSoft ≤ h → k.tHard ≤ h → rawClass k h = .hard) := by
  unfold rawClass
  refine ⟨fun v => if_pos v, fun v s => ?_, fun v s f => ?_, fun v s f => ?_⟩
  · rw [if_neg (by omega), if_pos s]
  · rw [if_neg (by omega), if_neg (by omega), if_pos f]
  · rw [if_neg (by omega), if_neg (by omega), if_neg (by omega)]

/-- Settles O56: the last slice result holds the measure, whose parts are the formulas of R40 to R46. -/
theorem theHardnessAndRawClassOfAMeasuredSlice : Obligations.TheHardnessAndRawClassOfAMeasuredSlice := by
  unfold Obligations.TheHardnessAndRawClassOfAMeasuredSlice
  intro k cal w cl c hn hw hs
  have le := correctedEnergy_le hw (measureSlice k cal cl.cr w c).se10
  have le_word : (measureSlice k cal cl.cr w c).se10 ≤ 65535 := min_le_left _ _
  refine ⟨_, measureSlice k cal cl.cr w c, last_classify k cal w cl c, sliceMeasure_of_samples hn k cal cl.cr w, rfl, rfl, rfl, rfl,
    le_word, fun hf hr => se10_idle hf hr k cal cl.cr w, rfl, le, le.trans le_word, ?_, rfl, min_le_left _ _, hardness_full hs,
    hardness_half hs, rawClass_cases k _⟩
  rintro rfl
  exact correctedEnergy_unworn _

end Sys2Proof.Machine

/-! ## The class that a slice is given, and its place with room (O57) -/
namespace Sys2Proof.Machine

/-! ### The class (R47, R48) -/

/-- H lies in a class's range widened by h on both sides (R47, test 3). -/
def ClassifierConsts.insideOf (k : ClassifierConsts) (h : Nat) (g : Ground) : Prop :=
  (g = .void ∧ h < k.tVoid + k.hyst) ∨
    (g = .soft ∧ (k.tVoid : Int) - k.hyst ≤ h ∧ h < k.tSoft + k.hyst) ∨
    (g = .firm ∧ (k.tSoft : Int) - k.hyst ≤ h ∧ h < k.tHard + k.hyst) ∨ (g = .hard ∧ (k.tHard : Int) - k.hyst ≤ h)

/-- The lower ends stop at 0, where the widened range does not begin below it. -/
theorem inWidened_iff (k : ClassifierConsts) (h : Nat) (g : Ground) : inWidened k h g = true ↔ k.insideOf h g := by
  cases g <;> simp [inWidened, ClassifierConsts.insideOf] <;> omega

theorem insideOf_unmeasured (k : ClassifierConsts) (h : Nat) : ¬ k.insideOf h .unmeasured := by simp [ClassifierConsts.insideOf]

theorem givenClass_void {k : ClassifierConsts} {h : Nat} (hv : h < k.tVoid) (ground : Option Ground) : givenClass k h ground = .void :=
  if_pos hv

theorem givenClass_first {k : ClassifierConsts} {h : Nat} (hv : k.tVoid ≤ h) : givenClass k h none = rawClass k h :=
  if_neg (by omega)

/-- Against an open layer: its class inside that class's widened range, the raw class otherwise. -/
theorem givenClass_open {k : ClassifierConsts} {h : Nat} (hv : k.tVoid ≤ h) (g : Ground) :
    (k.insideOf h g → givenClass k h (some g) = g) ∧ (¬ k.insideOf h g → givenClass k h (some g) = rawClass k h) := by
  unfold givenClass
  rw [if_neg (by omega)]
  cases g
  case unmeasured => exact ⟨fun h' => absurd h' (insideOf_unmeasured k h), fun _ => rfl⟩
  all_goals exact ⟨fun h' => if_pos ((inWidened_iff k h _).2 h'), fun h' => if_neg (mt (inWidened_iff k h _).1 h')⟩

/-! ### The place of a slice in a list with room (R50 to R52) -/

theorem eligible_iff (l : Layer) : eligible l = true ↔ l.mayMerge := by simp [eligible, Layer.mayMerge]

/-- A thin open layer lies between the slice and a layer of its class (R51). -/
def absorbable (lMin : Nat) (sl : Layer) (ls : List Layer) : Prop :=
  ∃ pre e o, ls = pre ++ [e, o] ∧ o.slices < lMin ∧ o.mayMerge ∧ sl.ground = e.ground

/-- A list with a slice put into it: opened as the first layer, extending the open layer, absorbing it, or opened behind it. -/
def placedAs (lMin : Nat) (sl : Layer) (ls new : List Layer) (how : Placement) : Prop :=
  (ls = [] ∧ new = [sl] ∧ how = .opened) ∨
    (∃ pre o, ls = pre ++ [o] ∧ sl.ground = o.ground ∧ new = pre ++ [o.joined sl o.ground] ∧ how = .extended) ∨
    (∃ pre e o, ls = pre ++ [e, o] ∧ sl.ground ≠ o.ground ∧ o.slices < lMin ∧ o.mayMerge ∧ sl.ground = e.ground ∧
      new = pre ++ [(e.joined o e.ground).joined sl e.ground] ∧ how = .absorbed) ∨
    (∃ pre o, ls = pre ++ [o] ∧ sl.ground ≠ o.ground ∧ ¬ absorbable lMin sl ls ∧ new = ls ++ [sl] ∧ how = .opened)

theorem extendOpen_concat (pre : List Layer) (o sl : Layer) : extendOpen (pre ++ [o]) sl = pre ++ [o.joined sl o.ground] := by
  simp [extendOpen, joinLayers, Layer.joined]

theorem absorb_concat (lMin : Nat) (pre : List Layer) (e o sl : Layer) :
    absorb lMin (pre ++ [e, o]) sl =
      if o.slices < lMin ∧ eligible o = true ∧ sl.ground = e.ground then
        some (pre ++ [(e.joined o e.ground).joined sl e.ground])
      else none := by
  have split : pre ++ [e, o] = (pre ++ [e]) ++ [o] := by simp
  rw [split, absorb]
  simp only [List.getLast?_concat, List.dropLast_concat]
  rfl

/-- Spike absorption applies exactly where the open layer may dissolve, and then to the list of R51. -/
theorem absorb_eq_some_iff {lMin : Nat} {ls new : List Layer} {sl : Layer} :
    absorb lMin ls sl = some new ↔ ∃ pre e o, ls = pre ++ [e, o] ∧ (o.slices < lMin ∧ o.mayMerge ∧ sl.ground = e.ground) ∧
      new = pre ++ [(e.joined o e.ground).joined sl e.ground] := by
  constructor
  · intro h
    rcases ls.eq_nil_or_concat' with rfl | ⟨rest, o, rfl⟩
    · cases h
    rcases rest.eq_nil_or_concat' with rfl | ⟨pre, e, rfl⟩
    · cases h
    have split : (pre ++ [e]) ++ [o] = pre ++ [e, o] := by simp
    rw [split, absorb_concat] at h
    split at h
    · rename_i thin
      rw [eligible_iff] at thin
      exact ⟨pre, e, o, split, thin, (Option.some.inj h).symm⟩
    · cases h
  · rintro ⟨pre, e, o, rfl, thin, rfl⟩
    rw [absorb_concat, if_pos (by rw [eligible_iff]; exact thin)]

theorem absorb_eq_none_iff {lMin : Nat} {ls : List Layer} {sl : Layer} : absorb lMin ls sl = none ↔ ¬ absorbable lMin sl ls := by
  rw [← not_iff_not, not_not, ← ne_eq, Option.ne_none_iff_exists']
  simp only [absorb_eq_some_iff]
  exact ⟨fun ⟨_, pre, e, o, h, thin, _⟩ => ⟨pre, e, o, h, thin⟩, fun ⟨pre, e, o, h, thin⟩ => ⟨_, pre, e, o, h, thin, rfl⟩⟩

theorem placeWithRoom_extends {ls : List Layer} {o sl : Layer} (ho : ls.getLast? = some o) (hg : sl.ground = o.ground) (lMin : Nat) :
    placeWithRoom lMin ls sl = { layers := extendOpen ls sl, how := .extended, raiseLayer := false, overflow := false } := by
  rw [placeWithRoom, ho]
  exact if_pos hg

theorem placeWithRoom_absorbs {ls new : List Layer} {o sl : Layer} {lMin : Nat} (ho : ls.getLast? = some o)
    (hg : sl.ground ≠ o.ground) (ha : absorb lMin ls sl = some new) :
    placeWithRoom lMin ls sl = { layers := new, how := .absorbed, raiseLayer := false, overflow := false } := by
  rw [placeWithRoom, ho]
  simp only [if_neg hg, ha]

theorem placeWithRoom_opens {ls : List Layer} {o sl : Layer} {lMin : Nat} (ho : ls.getLast? = some o) (hg : sl.ground ≠ o.ground)
    (ha : absorb lMin ls sl = none) :
    placeWithRoom lMin ls sl = { layers := ls ++ [sl], how := .opened, raiseLayer := true, overflow := false } := by
  rw [placeWithRoom, ho]
  simp only [if_neg hg, ha]

/-- A slice with room for a layer takes its place, and LAYER is raised for a new layer but the first (R52). -/
theorem placedAs_placeWithRoom (lMin : Nat) (ls : List Layer) (sl : Layer) :
    placedAs lMin sl ls (placeWithRoom lMin ls sl).layers (placeWithRoom lMin ls sl).how ∧
      (placeWithRoom lMin ls sl).overflow = false ∧
      ((placeWithRoom lMin ls sl).raiseLayer = true ↔ (placeWithRoom lMin ls sl).how = .opened ∧ ls ≠ []) := by
  rcases ls.eq_nil_or_concat' with rfl | ⟨pre, o, rfl⟩
  · exact ⟨.inl ⟨rfl, rfl, rfl⟩, rfl, by simp [placeWithRoom]⟩
  have last : (pre ++ [o]).getLast? = some o := by simp
  by_cases hg : sl.ground = o.ground
  · rw [placeWithRoom_extends last hg]
    exact ⟨.inr (.inl ⟨pre, o, rfl, hg, extendOpen_concat pre o sl, rfl⟩), rfl, by simp⟩
  cases ha : absorb lMin (pre ++ [o]) sl with
  | some new =>
    rw [placeWithRoom_absorbs last hg ha]
    obtain ⟨front, e, o', list, ⟨thin, merge, same⟩, rfl⟩ := absorb_eq_some_iff.1 ha
    have own : o' = o := by
      have := congrArg List.getLast? list
      simpa using this.symm
    exact ⟨.inr (.inr (.inl ⟨front, e, o', list, own ▸ hg, thin, merge, same, rfl, rfl⟩)), rfl, by simp⟩
  | none =>
    rw [placeWithRoom_opens last hg ha]
    exact ⟨.inr (.inr (.inr ⟨pre, o, rfl, hg, absorb_eq_none_iff.1 ha, rfl, rfl⟩)), rfl, by simp⟩

/-- With room a slice opens a layer exactly where it neither extends the open one nor absorbs it. -/
theorem how_placeWithRoom_opened {ls : List Layer} (hne : ls ≠ []) (lMin : Nat) (sl : Layer) :
    (placeWithRoom lMin ls sl).how = .opened ↔
      ¬ absorbable lMin sl ls ∧ ∀ o, ls.getLast? = some o → sl.ground ≠ o.ground := by
  obtain ⟨pre, o, rfl⟩ := ls.eq_nil_or_concat'.resolve_left hne
  have last : (pre ++ [o]).getLast? = some o := by simp
  by_cases hg : sl.ground = o.ground
  · rw [placeWithRoom_extends last hg]
    exact ⟨(fun h => nomatch h), fun ⟨_, h⟩ => absurd hg (h o last)⟩
  cases ha : absorb lMin (pre ++ [o]) sl with
  | some new =>
    rw [placeWithRoom_absorbs last hg ha]
    exact ⟨(fun h => nomatch h), fun ⟨h, _⟩ => by rw [← absorb_eq_none_iff, ha] at h; cases h⟩
  | none =>
    rw [placeWithRoom_opens last hg ha]
    refine ⟨fun _ => ⟨absorb_eq_none_iff.1 ha, fun o' ho' => ?_⟩, fun _ => rfl⟩
    rw [last] at ho'
    exact Option.some.inj ho' ▸ hg

end Sys2Proof.Machine

/-! ## The merge of a full list (O57) -/
namespace Sys2Proof.Machine

/-! ### The candidate and its partner (R53) -/

theorem eligibleAt_iff (ls : List Layer) (i : Nat) : eligibleAt ls i = true ↔ ∃ l, ls[i]? = some l ∧ l.mayMerge := by
  unfold eligibleAt
  cases ls[i]? with
  | none => simp
  | some l => simp [eligible_iff]

theorem eligibleBefore_iff (ls : List Layer) (i : Nat) : eligibleBefore ls i = true ↔ ∃ j, j + 1 = i ∧ eligibleAt ls j = true := by
  cases i with
  | zero => simp [eligibleBefore]
  | succ i => simp [eligibleBefore]

/-- A closed layer may merge with a neighbour where both are eligible. -/
theorem mayPair_iff (ls : List Layer) (i j : Nat) :
    mayPair ls i j ↔ i + 1 < ls.length ∧ (j + 1 = i ∨ j = i + 1) ∧ eligibleAt ls i = true ∧ eligibleAt ls j = true := by
  unfold mayPair
  simp only [eligibleAt_iff]
  refine and_congr_right fun hi => and_congr_right fun hj => ?_
  have hli := List.getElem?_eq_getElem (l := ls) (i := i) (by omega)
  have hlj := List.getElem?_eq_getElem (l := ls) (i := j) (by omega)
  constructor
  · exact fun h => ⟨⟨_, hli, h _ (.inl hli)⟩, ⟨_, hlj, h _ (.inr hlj)⟩⟩
  · rintro ⟨⟨a, ha, ea⟩, ⟨b, hb, eb⟩⟩ l (hl | hl)
    · rw [ha] at hl; exact Option.some.inj hl ▸ ea
    · rw [hb] at hl; exact Option.some.inj hl ▸ eb

/-- The candidates are the closed layers that may merge. -/
theorem mem_mergeCandidates_iff (ls : List Layer) (i : Nat) : i ∈ mergeCandidates ls ↔ ∃ j, mayPair ls i j := by
  simp only [mergeCandidates, List.mem_filter, List.mem_range, Bool.and_eq_true, Bool.or_eq_true, eligibleBefore_iff, mayPair_iff]
  constructor
  · rintro ⟨hi, own, ⟨j, hj, before⟩ | after⟩
    · exact ⟨j, by omega, .inl hj, own, before⟩
    · exact ⟨i + 1, by omega, .inr rfl, own, after⟩
  · rintro ⟨j, hi, rfl | rfl, own, other⟩
    · exact ⟨by omega, own, .inl ⟨j, rfl, other⟩⟩
    · exact ⟨by omega, own, .inr other⟩

theorem sorted_mergeCandidates (ls : List Layer) : (mergeCandidates ls).Pairwise (· < ·) :=
  List.Pairwise.filter _ List.pairwise_lt_range

theorem fewestSlices_eq_none_iff (ls : List Layer) (is : List Nat) : fewestSlices ls is = none ↔ is = [] := by
  cases is with
  | nil => simp [fewestSlices]
  | cons i is =>
    simp only [fewestSlices, reduceCtorEq, iff_false]
    split
    · simp
    · split <;> simp

/-- The chosen index has the fewest slices, and is the first that has (R53, steps 2 and 3). -/
theorem fewestSlices_least {ls : List Layer} : ∀ {is : List Nat} {i : Nat}, is.Pairwise (· < ·) → fewestSlices ls is = some i →
    ∀ k ∈ is, slicesAt ls i ≤ slicesAt ls k ∧ (slicesAt ls k = slicesAt ls i → i ≤ k)
  | j :: is, i, sorted, h, k, hk => by
    obtain ⟨first, sorted⟩ := List.pairwise_cons.1 sorted
    unfold fewestSlices at h
    cases e : fewestSlices ls is with
    | none =>
      rw [e] at h
      obtain rfl := (fewestSlices_eq_none_iff ls is).1 e
      obtain rfl := Option.some.inj h
      obtain rfl : k = j := by simpa using hk
      exact ⟨le_refl _, fun _ => le_refl _⟩
    | some m =>
      rw [e] at h
      have least := fewestSlices_least sorted e
      have later := first m (fewestSlices_mem e)
      simp only at h
      split at h <;> obtain rfl := Option.some.inj h
      · rcases List.mem_cons.1 hk with rfl | hk
        · exact ⟨by omega, by omega⟩
        · exact least k hk
      · rcases List.mem_cons.1 hk with rfl | hk
        · exact ⟨le_refl _, fun _ => le_refl _⟩
        · have := least k hk
          have := first k hk
          exact ⟨by omega, by omega⟩

/-- The neighbour that the candidate merges with (R53). -/
def partnerOf (ls : List Layer) (i : Nat) : Nat := if partnerBefore ls i then i - 1 else i + 1

theorem partnerBefore_iff (ls : List Layer) (i : Nat) : partnerBefore ls i = true ↔
    ∃ j, j + 1 = i ∧ eligibleAt ls j = true ∧ (eligibleAt ls (i + 1) = true → slicesAt ls j ≤ slicesAt ls (i + 1)) := by
  unfold partnerBefore
  cases i with
  | zero => simp [eligibleBefore]
  | succ i => cases eligibleAt ls (i + 1 + 1) <;> simp [eligibleBefore]

/-- The partner is an eligible neighbour with the fewer slices, the one before on a tie. -/
theorem partnerOf_spec {ls : List Layer} {i : Nat} (h : ∃ j, mayPair ls i j) :
    mayPair ls i (partnerOf ls i) ∧
      ∀ m, mayPair ls i m → slicesAt ls (partnerOf ls i) ≤ slicesAt ls m ∧
        (slicesAt ls m = slicesAt ls (partnerOf ls i) → partnerOf ls i ≤ m) := by
  simp only [mayPair_iff] at h ⊢
  obtain ⟨j, hi, hj, own, other⟩ := h
  unfold partnerOf
  by_cases before : partnerBefore ls i = true
  · rw [if_pos before]
    obtain ⟨j', rfl, el, fewer⟩ := (partnerBefore_iff ls i).1 before
    refine ⟨⟨hi, .inl rfl, own, el⟩, fun m ⟨_, hm, _, elm⟩ => ?_⟩
    rcases hm with hm | rfl
    · obtain rfl : m = j' := by omega
      exact ⟨le_refl _, fun _ => le_refl _⟩
    · exact ⟨fewer elm, fun _ => by omega⟩
  · rw [if_neg before]
    rw [partnerBefore_iff] at before
    have least (m : Nat) (hm : m + 1 = i) (elm : eligibleAt ls m = true) :
        eligibleAt ls (i + 1) = true ∧ slicesAt ls (i + 1) < slicesAt ls m := by
      by_contra no
      exact before ⟨m, hm, elm, fun after => not_lt.1 fun lt => no ⟨after, lt⟩⟩
    refine ⟨⟨hi, .inr rfl, own, ?_⟩, fun m ⟨_, hm, _, elm⟩ => ?_⟩
    · rcases hj with hj | rfl
      · exact (least j hj other).1
      · exact other
    · rcases hm with hm | rfl
      · have := (least m hm elm).2
        exact ⟨by omega, by omega⟩
      · exact ⟨le_refl _, fun _ => le_refl _⟩

/-- The candidate and its partner are the pair that R53 chooses. -/
theorem chosenPair_mergeCandidate {ls : List Layer} {i : Nat} (h : mergeCandidate ls = some i) :
    chosenPair ls i (partnerOf ls i) := by
  have pairs := (mem_mergeCandidates_iff ls i).1 (fewestSlices_mem h)
  obtain ⟨may, best⟩ := partnerOf_spec pairs
  exact ⟨may, fun k m hkm => fewestSlices_least (sorted_mergeCandidates ls) h k ((mem_mergeCandidates_iff ls k).2 ⟨m, hkm⟩), best⟩

theorem mergeCandidate_eq_none_iff (ls : List Layer) : mergeCandidate ls = none ↔ ∀ i j, ¬ mayPair ls i j := by
  unfold mergeCandidate
  rw [fewestSlices_eq_none_iff, List.eq_nil_iff_forall_not_mem]
  simp only [mem_mergeCandidates_iff, not_exists]

/-! ### The merged layer in its place (R54) -/

theorem placeMerged_joinsBefore {l one : Layer} (h : l.ground = one.ground) (before post : List Layer) :
    placeMerged (before ++ [l]) one post = before ++ l.joined one one.ground :: post := by
  simp only [placeMerged, List.getLast?_concat, if_pos h, List.dropLast_concat]
  rfl

theorem placeMerged_apart {pre : List Layer} {one : Layer} (h : ∀ k, pre.getLast? = some k → k.ground ≠ one.ground)
    (post : List Layer) : placeMerged pre one post = pre ++ joinFront (one :: post) := by
  unfold placeMerged
  cases e : pre.getLast? with
  | none => rw [List.getLast?_eq_none_iff.1 e]; rfl
  | some p => exact if_neg (h p e)

theorem joinFront_joins {one l : Layer} (h : l.ground = one.ground) (after : List Layer) :
    joinFront (one :: l :: after) = one.joined l one.ground :: after := if_pos h.symm

theorem joinFront_apart {one : Layer} {post : List Layer} (h : ∀ k, post.head? = some k → k.ground ≠ one.ground) :
    joinFront (one :: post) = one :: post := by
  cases post with
  | nil => rfl
  | cons l after => exact if_neg (h l rfl).symm

/-- The pair, shallower first, becomes one layer of the class of the one with more slices (R54). -/
theorem mergeAt_eq {ls : List Layer} {i : Nat} {a b c p : Layer} (hc : ls[i]? = some c) (hp : ls[partnerOf ls i]? = some p)
    (ha : ls[min i (partnerOf ls i)]? = some a) (hb : ls[min i (partnerOf ls i) + 1]? = some b) :
    mergeAt ls i = placeMerged (ls.take (min i (partnerOf ls i))) (a.joined b (mergedClass c p))
      (ls.drop (min i (partnerOf ls i) + 2)) := by
  unfold mergeAt
  unfold partnerOf at hp ha hb ⊢
  by_cases before : partnerBefore ls i = true
  · obtain ⟨j, rfl, -, -⟩ := (partnerBefore_iff ls i).1 before
    simp only [before, if_true, Nat.add_sub_cancel, show min (j + 1) j = j by omega] at hp ha hb ⊢
    rw [ha] at hp
    rw [hb] at hc
    obtain rfl := Option.some.inj hp
    obtain rfl := Option.some.inj hc
    simp only [ha, hb]
    rfl
  · simp only [before, Bool.false_eq_true, if_false, show min i (i + 1) = i by omega] at hp ha hb ⊢
    rw [hc] at ha
    rw [hp] at hb
    obtain rfl := Option.some.inj ha
    obtain rfl := Option.some.inj hb
    simp only [hc, hp]
    rfl

/-- The merge of the candidate is the merge of R54. -/
theorem mergedTo_mergeAt {ls : List Layer} {i : Nat} (h : mergeCandidate ls = some i) : mergedTo ls (mergeAt ls i) := by
  have chosen := chosenPair_mergeCandidate h
  obtain ⟨hi, hj, -⟩ := chosen.1
  have at' (n : Nat) (hn : n < ls.length) : ls[n]? = some ls[n] := List.getElem?_eq_getElem hn
  have hc := at' i (by omega)
  have hp := at' (partnerOf ls i) (by omega)
  have ha := at' (min i (partnerOf ls i)) (by omega)
  have hb := at' (min i (partnerOf ls i) + 1) (by omega)
  rw [mergeAt_eq hc hp ha hb, mergedClass]
  refine ⟨i, partnerOf ls i, chosen, _, _, _, _, _, _, eq_take_drop ha hb, by rw [List.length_take]; omega, hc, hp, ?_, ?_, ?_⟩
  · intro l before hpre same
    rw [hpre]
    exact placeMerged_joinsBefore same before _
  · intro l after hpost same apart
    rw [placeMerged_apart apart, hpost]
    exact congrArg _ (joinFront_joins same after)
  · intro apart front
    rw [placeMerged_apart apart]
    exact congrArg _ (joinFront_apart front)

/-! ### The place of a slice in any list (R50 to R55) -/

theorem placeSlice_room {lMin : Nat} {ls : List Layer} {sl : Layer} (h : ls.length < 16 ∨ (placeWithRoom lMin ls sl).how ≠ .opened) :
    placeSlice lMin ls sl = placeWithRoom lMin ls sl := if_pos h

theorem placeSlice_full {lMin : Nat} {ls : List Layer} {sl : Layer} (hl : 16 ≤ ls.length)
    (ho : (placeWithRoom lMin ls sl).how = .opened) :
    (mergeCandidate ls = none →
        placeSlice lMin ls sl = { layers := extendOpen ls sl, how := .forced, raiseLayer := false, overflow := true }) ∧
      ∀ i, mergeCandidate ls = some i →
        placeSlice lMin ls sl =
          { layers := (placeWithRoom lMin (mergeAt ls i) sl).layers, how := .merged, raiseLayer := true, overflow := false } := by
  have full : ¬ (ls.length < maxLayers ∨ (placeWithRoom lMin ls sl).how ≠ .opened) := by
    rintro (h | h)
    · exact absurd hl (not_le.2 h)
    · exact h ho
  unfold placeSlice
  refine ⟨fun h => ?_, fun i h => ?_⟩
  · rw [if_neg full, h]
  · rw [if_neg full, h]

/-- The layer of a slice, by whether it has samples. -/
theorem sliceLayer_eq (k : ClassifierConsts) (cal : Calib) (cr w : Nat) (c : ClosedSlice) (g : Ground) :
    sliceLayer c g (sliceMeasure k cal cr w c) =
      { top := c.top, bottom := c.bottom, ground := g, slices := 1, measured := if c.n = 0 then 0 else 1
        sumH := ((sliceMeasure k cal cr w c).map Measure.h).getD 0, isPartial := decide (c.n < c.nSpan), saturated := c.saturated } := by
  unfold sliceLayer sliceMeasure
  split <;> rfl

/-- The class by the measure and the open layer (R47, R48). -/
theorem sliceClass_measured (k : ClassifierConsts) (m : Measure) (hraw : m.raw = rawClass k m.h) (ls : List Layer) :
    (m.h < k.tVoid → sliceClass k (some m) ls = .void) ∧
      (k.tVoid ≤ m.h → (ls = [] → sliceClass k (some m) ls = m.raw) ∧
        ∀ o, ls.getLast? = some o → (k.insideOf m.h o.ground → sliceClass k (some m) ls = o.ground) ∧
          (¬ k.insideOf m.h o.ground → sliceClass k (some m) ls = m.raw)) := by
  rw [hraw]
  refine ⟨fun hv => givenClass_void hv _, fun hv => ⟨?_, fun o ho => ?_⟩⟩
  · rintro rfl
    exact givenClass_first hv
  · unfold sliceClass
    rw [ho]
    exact givenClass_open hv o.ground

/-- A slice placed in any list (R50 to R55): as with room where the list has room or the slice needs none; else behind the merge of a
pair, or forced into the open layer where no pair may merge. -/
theorem placeSlice_cases (lMin : Nat) (ls : List Layer) (sl : Layer) :
    let p := placeSlice lMin ls sl
    (ls.length < 16 ∨ absorbable lMin sl ls ∨ (∃ o, ls.getLast? = some o ∧ sl.ground = o.ground) →
      placedAs lMin sl ls p.layers p.how ∧ p.overflow = false ∧ (p.raiseLayer = true ↔ p.how = .opened ∧ ls ≠ [])) ∧
    (16 ≤ ls.length → ¬ absorbable lMin sl ls → (∀ o, ls.getLast? = some o → sl.ground ≠ o.ground) →
      ((∀ i j, ¬ mayPair ls i j) → p.how = .forced ∧ p.overflow = true ∧ p.raiseLayer = false ∧
        ∃ pre o, ls = pre ++ [o] ∧ p.layers = pre ++ [o.joined sl o.ground]) ∧
      ∀ i j, mayPair ls i j → p.how = .merged ∧ p.overflow = false ∧ p.raiseLayer = true ∧
        ∃ mid how, mergedTo ls mid ∧ placedAs lMin sl mid p.layers how) := by
  intro p
  refine ⟨fun room => ?_, fun full thick apart => ?_⟩
  · have plain : p = placeWithRoom lMin ls sl := by
      refine placeSlice_room ?_
      by_cases short : ls.length < 16
      · exact .inl short
      have hne : ls ≠ [] := by rintro rfl; simp at short
      refine .inr fun opened => ?_
      obtain ⟨thick, apart⟩ := (how_placeWithRoom_opened hne lMin sl).1 opened
      rcases room with h | h | ⟨o, ho, same⟩
      · exact short h
      · exact thick h
      · exact apart o ho same
    rw [plain]
    exact placedAs_placeWithRoom lMin ls sl
  · have hne : ls ≠ [] := by rintro rfl; simp at full
    obtain ⟨forced, merged⟩ := placeSlice_full full ((how_placeWithRoom_opened hne lMin sl).2 ⟨thick, apart⟩)
    refine ⟨fun none' => ?_, fun i j hij => ?_⟩
    · rw [show p = _ from forced ((mergeCandidate_eq_none_iff ls).2 none')]
      obtain ⟨pre, o, rfl⟩ := ls.eq_nil_or_concat'.resolve_left hne
      exact ⟨rfl, rfl, rfl, pre, o, rfl, extendOpen_concat pre o sl⟩
    · obtain ⟨i', hi'⟩ := Option.ne_none_iff_exists'.1 fun e => (mergeCandidate_eq_none_iff ls).1 e i j hij
      rw [show p = _ from merged i' hi']
      exact ⟨rfl, rfl, rfl, _, _, mergedTo_mergeAt hi', (placedAs_placeWithRoom lMin _ sl).1⟩

/-- Settles O57: the class follows the measure and the open layer, and the slice takes its place with room or behind a merge. -/
theorem theClassASliceIsGivenFollowsTheOpenLayer : Obligations.TheClassASliceIsGivenFollowsTheOpenLayer := by
  unfold Obligations.TheClassASliceIsGivenFollowsTheOpenLayer
  intro k cal w cl c
  refine ⟨_, last_classify k cal w cl c, fun hn => ?_, fun m hm => ?_⟩
  · simp [sliceMeasure, hn, sliceClass]
  · have measured : sliceMeasure k cal cl.cr w c = some m := hm
    have hraw : m.raw = rawClass k m.h := by
      simp only [sliceMeasure, Option.ite_none_left_eq_some, Option.some.injEq] at measured
      rw [← measured.2]
      rfl
    obtain ⟨void, classes⟩ := sliceClass_measured k m hraw cl.layers
    rw [← measured] at void classes
    refine ⟨void, classes, ?_, rfl⟩
    intro out sl absorbs places
    have own : sl = sliceLayer c (sliceClass k (sliceMeasure k cal cl.cr w c) cl.layers) (sliceMeasure k cal cl.cr w c) :=
      (sliceLayer_eq k cal cl.cr w c _).symm
    clear_value sl
    subst own
    exact placeSlice_cases k.lMin cl.layers _

end Sys2Proof.Machine

/-! ## The zone pass of the start-up sequence (O15) -/
namespace Sys2Proof.Machine

/-! ### One zone after the other -/

/-- The state of a zone behind the pass of power-on and RESET_N, which opens row 0 too (R120, R184). -/
def startJudged (img : List Host.Cell) (z : Nat) : ZoneState :=
  if zoneSumOk img z then judgedState (passClamped img z true) else .defaulted

/-- One zone of the pass after power-on and RESET_N: every bad one is defaulted and gets a record. -/
theorem passZone_start_eq (s : State) (z : Nat) : s.passZone false z =
    let u : State := (s.takePassed s.mem.image z).markZone z (startJudged s.mem.image z)
    if zoneSumOk s.mem.image z then u else u.logPartFault .device .configZoneBad (some z) := by
  unfold State.passZone startJudged
  cases h : zoneSumOk s.mem.image z with
  | true => simp [takePassed_good h]
  | false => simp [takePassed_bad h]

/-- What zones passed after power-on and RESET_N have moved. -/
structure State.StartPassed (s t : State) (zs : List Nat) : Prop where
  back : t.backdrop = { s.backdrop with
    params := zs.foldl (paramsPassed s.mem.image) s.params
    mem := { s.mem with zones := zs.foldl (fun zones z => zones.set z (startJudged s.mem.image z)) s.mem.zones } }
  boom : ∀ b, t.boom b = zs.foldl (boomPassed s.mem.image b) (s.boom b)
  monitor : t.monitor = zs.foldl (monitorPassed s.mem.image) s.monitor
  arbiter : t.arbiter = s.arbiter
  holes : t.holeLog = s.holeLog
  faults : s.zonesLogged t (zs.filter fun z => !zoneSumOk s.mem.image z)

theorem startPassed_passZone (s : State) (z : Nat) : s.StartPassed (s.passZone false z) [z] := by
  obtain ⟨back, boom, monitor, -, arbiter, -, holes, faults⟩ := takePassed_moves s s.mem.image z
  rw [passZone_start_eq]
  generalize s.takePassed s.mem.image z = t at *
  have mem : t.mem = s.mem := congrArg Backdrop.mem back
  have millis : t.millis = s.millis := congrArg Backdrop.millis back
  have marked : (t.markZone z (startJudged s.mem.image z)).backdrop = { s.backdrop with
      params := paramsPassed s.mem.image s.params z
      mem := { s.mem with zones := s.mem.zones.set z (startJudged s.mem.image z) } } :=
    calc _ = { t.backdrop with mem := { t.mem with zones := t.mem.zones.set z (startJudged s.mem.image z) } } := rfl
      _ = _ := by rw [back, mem]
  cases ok : zoneSumOk s.mem.image z with
  | true => exact ⟨marked, boom, monitor, arbiter, holes, [], faults, by simp [ok], by simp⟩
  | false =>
    exact ⟨marked, boom, monitor, arbiter, holes, [_], congrArg (FaultLog.record · _) faults, by simp [ok]; rfl,
      by simp; exact ⟨rfl, rfl, millis⟩⟩

theorem State.StartPassed.trans {s t u : State} {xs ys : List Nat} (h : s.StartPassed t xs) (k : t.StartPassed u ys) :
    s.StartPassed u (xs ++ ys) := by
  have mem : t.mem = { s.mem with zones := xs.foldl (fun zones z => zones.set z (startJudged s.mem.image z)) s.mem.zones } :=
    congrArg Backdrop.mem h.back
  have params : t.params = xs.foldl (paramsPassed s.mem.image) s.params := congrArg Backdrop.params h.back
  have image : t.mem.image = s.mem.image := by rw [mem]
  obtain ⟨back, boom, monitor, arbiter, holes, faults⟩ := k
  rw [image] at back boom monitor faults
  refine ⟨?_, fun b => ?_, ?_, arbiter.trans h.arbiter, holes.trans h.holes, ?_⟩
  · rw [back, h.back, mem, params, List.foldl_append, List.foldl_append]
  · rw [boom, h.boom, List.foldl_append]
  · rw [monitor, h.monitor, List.foldl_append]
  · rw [List.filter_append]
    exact h.faults.trans faults (congrArg Backdrop.millis h.back)

theorem startPassed_passZones (zs : List Nat) : ∀ s : State, s.StartPassed (zs.foldl (State.passZone false) s) zs := by
  induction zs with
  | nil => exact fun s => ⟨rfl, fun _ => rfl, rfl, rfl, rfl, [], rfl, rfl, by simp⟩
  | cons z zs ih => exact fun s => (startPassed_passZone s z).trans (ih _)

/-! ### The seven zones together -/

theorem startZones_range {img : List Host.Cell} {zones : List ZoneState} (h : zones.length = 7) {z : Nat} (hz : z < 7) :
    ((List.range 7).foldl (fun zs z => zs.set z (startJudged img z)) zones)[z]? = some (startJudged img z) := by
  match zones, h with
  | [_, _, _, _, _, _, _], _ => interval_cases z <;> rfl

theorem count_records (rs : List FaultRecord) : ∀ l : FaultLog, l.count ≤ 65535 →
    (rs.foldl FaultLog.record l).count = min 65535 (l.count + rs.length) := by
  induction rs with
  | nil => intro l h; simp [h]
  | cons r rs ih =>
    intro l h
    have count : (l.record r).count = min 65535 (l.count + 1) := rfl
    rw [List.foldl_cons, ih _ (by omega), count, List.length_cons]
    omega

/-- Each of the zones logged makes one record, up to the most that the count shows (R166). -/
theorem State.zonesLogged.count {s t : State} {zs : List Nat} (h : s.zonesLogged t zs) (hc : s.faultLog.count ≤ 65535) :
    t.faultLog.count = min 65535 (s.faultLog.count + zs.length) := by
  obtain ⟨rs, log, details, -⟩ := h
  have length : rs.length = zs.length := by simpa using congrArg List.length details
  rw [log, count_records rs _ hc, length]

theorem limits_take (c : Channel) (l : ChannelLimits) : (c.take l).limits = l := by
  unfold Channel.take
  split <;> rfl

/-- Channels that take new limits hold them. -/
theorem limits_takes : ∀ (cs : List Channel) (ls : List ChannelLimits), cs.length = ls.length →
    (cs.zipWith Channel.take ls).map Channel.limits = ls
  | [], [], _ => rfl
  | c :: cs, l :: ls, h => by
    rw [List.zipWith_cons_cons, List.map_cons, limits_take, limits_takes cs ls (by simpa using h)]

/-! ### Around the pass -/

/-- The state as the zone pass finds it: the result recorded, the pins read and the image to be judged (R182, R183). -/
def State.pinned (s : State) (memoryPass logicPass : Bool) (pins : Straps) : State :=
  State.modMem { s.recordPost memoryPass logicPass with straps := pins } fun m => { m with image := m.memory }

/-- What follows the zones: row 0, and the wear tables (R120, R163). -/
def State.openedRow (s : State) : State :=
  { (({ s with rowMap := RowMap.rowZero (rowZeroPlan s.mem.image) } : State).restoreWear .left).restoreWear .right with
    phase := .zonesRead false }

theorem exec_startUp {s : State} (hp : s.phase = .selfTest) (memoryPass logicPass : Bool) (pins : Straps) :
    exec (.startUpSelfTestComplete memoryPass logicPass pins) s =
      .next ((List.range 7).foldl (State.passZone false) (s.pinned memoryPass logicPass pins)).openedRow := by
  show execStartUpSelfTestComplete memoryPass logicPass pins s = _
  rw [execStartUpSelfTestComplete, if_pos hp]
  unfold State.zonePass State.openedRow State.pinned
  rfl

theorem openedRow_keeps (s : State) : s.openedRow.mem = s.mem ∧ s.openedRow.params = s.params ∧ s.openedRow.monitor = s.monitor ∧
    s.openedRow.straps = s.straps ∧ s.openedRow.postFail = s.postFail ∧ s.openedRow.faultLog = s.faultLog ∧
    s.openedRow.holeLog = s.holeLog ∧ s.openedRow.millis = s.millis ∧ s.openedRow.arbiter = s.arbiter ∧ s.openedRow.check = s.check :=
  ⟨rfl, rfl, rfl, rfl, rfl, rfl, rfl, rfl, rfl, rfl⟩

theorem boom_openedRow (s : State) (b : Boom) : s.openedRow.boom b =
    { s.boom b with wear := (s.boom b).wear.restore (startDrilled s.mem.image b) s.params.classifier.wearRate } := by
  cases b <;> rfl

/-- The result of the self-test moves nothing but itself and, where it is a failure, the fault log (R182). -/
theorem recordPost_moves (s : State) (memoryPass logicPass : Bool) :
    let t := s.recordPost memoryPass logicPass
    t = { s with postFail := !(memoryPass && logicPass), faultLog := t.faultLog } ∧
      (s.faultLog.count ≤ 65535 → t.faultLog.count = min 65535 (s.faultLog.count + if memoryPass && logicPass then 0 else 1)) := by
  unfold State.recordPost
  cases memoryPass && logicPass with
  | true => exact ⟨rfl, fun h => (min_eq_right h).symm⟩
  | false => exact ⟨rfl, fun _ => rfl⟩

/-- What the part holds behind the seven zones, before row 0 is opened. -/
structure State.Started (s : State) (memoryPass logicPass : Bool) (pins : Straps) (t : State) : Prop where
  straps : t.straps = pins
  postFail : t.postFail = !(memoryPass && logicPass)
  mem : t.mem = { s.mem with
    image := s.mem.memory
    zones := (List.range 7).foldl (fun zones z => zones.set z (startJudged s.mem.memory z)) s.mem.zones }
  params : t.params = (List.range 7).foldl (paramsPassed s.mem.memory) s.params
  booms : ∀ b, t.boom b = (List.range 7).foldl (boomPassed s.mem.memory b) (s.boom b)
  monitor : t.monitor = s.monitor.takeZone4 (passedZone4 s.mem.memory)
  count : s.faultLog.count ≤ 65535 → t.faultLog.count = min 65535 (s.faultLog.count + (if memoryPass && logicPass then 0 else 1) +
    (List.range 7).countP fun z => !zoneSumOk s.mem.memory z)
  holes : t.holeLog = s.holeLog
  millis : t.millis = s.millis
  arbiter : t.arbiter = s.arbiter
  check : t.check = s.check

theorem pinned_eq (s : State) (memoryPass logicPass : Bool) (pins : Straps) :
    s.pinned memoryPass logicPass pins = { s with
      postFail := !(memoryPass && logicPass), straps := pins, faultLog := (s.recordPost memoryPass logicPass).faultLog
      mem := { s.mem with image := s.mem.memory } } := by
  rw [State.pinned, (recordPost_moves s memoryPass logicPass).1]
  rfl

theorem started_passZones (s : State) (memoryPass logicPass : Bool) (pins : Straps) :
    s.Started memoryPass logicPass pins ((List.range 7).foldl (State.passZone false) (s.pinned memoryPass logicPass pins)) := by
  have count := (recordPost_moves s memoryPass logicPass).2
  have passed := startPassed_passZones (List.range 7) (s.pinned memoryPass logicPass pins)
  rw [pinned_eq] at passed ⊢
  generalize List.foldl (State.passZone false) _ (List.range 7) = t at *
  obtain ⟨back, boom, monitor, arbiter, holes, faults⟩ := passed
  refine ⟨congrArg Backdrop.straps back, congrArg Backdrop.postFail back, congrArg Backdrop.mem back, congrArg Backdrop.params back,
    fun b => (boom b).trans (by cases b <;> rfl), monitor.trans (monitor_range _ _), fun hc => ?_, holes, congrArg Backdrop.millis back,
    arbiter, congrArg Backdrop.check back⟩
  have posted := count hc
  rw [faults.count (by rw [posted]; exact min_le_left _ _), List.countP_eq_length_filter]
  simp only [posted]
  omega

/-- Settles O15 from what the part holds behind the seven zones (`started_passZones`), with row 0 and the wear tables behind them. -/
theorem theStartUpPassesReadThePinsAndJudgeEveryZone : Obligations.TheStartUpPassesReadThePinsAndJudgeEveryZone := by
  unfold Obligations.TheStartUpPassesReadThePinsAndJudgeEveryZone
  intro s memoryPass logicPass pins hp hz hc
  refine ⟨_, exec_startUp hp memoryPass logicPass pins, ?_⟩
  have r := started_passZones s memoryPass logicPass pins
  generalize (List.range 7).foldl (State.passZone false) (s.pinned memoryPass logicPass pins) = t at *
  obtain ⟨kmem, kparams, kmonitor, kstraps, kpost, kfaults, kholes, kmillis, karbiter, kcheck⟩ := openedRow_keeps t
  have params := r.params
  rw [params_range] at params
  have image : t.mem.image = s.mem.memory := by rw [r.mem]
  have units (b : Boom) : t.openedRow.boom b = _ := boom_openedRow t b
  simp only [r.booms, boom_range, image] at units
  have channels := limits_takes s.monitor.channels (passedZone4 s.mem.memory).channels (hc.trans (length_passedZone4 _).symm)
  refine ⟨rfl, kstraps.trans r.straps, kpost.trans r.postFail, by rw [kmem, r.mem], by rw [kmem, image], fun z hz' => ?_, ?_, ?_, ?_,
    fun b => ?_, ⟨?_, fun b => ?_, ?_, ?_, ?_, ?_, ?_⟩, fun hl => by rw [kfaults]; exact r.count hl, kholes.trans r.holes,
    kmillis.trans r.millis, karbiter.trans r.arbiter, kcheck.trans r.check, fun b => ?_⟩
  · rw [kmem, r.mem]; exact startZones_range hz hz'
  · show RowMap.rowZero (rowZeroPlan t.mem.image) = _
    rw [image]
  · rw [kparams, params]
  · rw [kparams, params]; rfl
  · cases b <;> simp only [State.calib, kparams, params] <;> rfl
  · rw [kparams, params]; rfl
  · rw [units, params]; rfl
  · rw [kmonitor, r.monitor]; exact channels
  · rw [kmonitor, r.monitor]; rfl
  · rw [kmonitor, r.monitor]; rfl
  · rw [kmonitor, r.monitor]; rfl
  · rw [kmonitor, r.monitor]; rfl
  · rw [units]; exact ⟨rfl, rfl, rfl⟩

end Sys2Proof.Machine

/-! ## Live values lie in their ranges (O52) -/
namespace Sys2Proof.Machine

/-! ### A clamp -/

theorem le_clamp (lo hi x : Nat) : lo ≤ clamp lo hi x := le_max_left _ _

theorem clamp_le {lo hi : Nat} (h : lo ≤ hi) (x : Nat) : clamp lo hi x ≤ hi := max_le h (min_le_left _ _)

theorem clamp_zero (hi x : Nat) : clamp 0 hi x = min hi x := Nat.zero_max _

/-- A clamp changes only what lies outside its range. -/
theorem clamp_eq_self_iff {lo hi : Nat} (h : lo ≤ hi) (x : Nat) : clamp lo hi x = x ↔ lo ≤ x ∧ x ≤ hi := by
  unfold clamp
  omega

/-! ### Zone 1 -/

theorem ordered_spec {c : ClassifierConsts} (hs : 2 ≤ c.tSoft ∧ c.tSoft ≤ 254) (hv : c.tVoid ≤ 253) (hh : 3 ≤ c.tHard ∧ c.tHard ≤ 255) :
    c.ordered.tVoid < c.ordered.tSoft ∧ c.ordered.tSoft ≤ 254 ∧ c.ordered.tSoft < c.ordered.tHard ∧ c.ordered.tHard ≤ 255 := by
  unfold ClassifierConsts.ordered
  simp only []
  split <;> split <;> omega

/-- Thresholds that rise stand as they are. -/
theorem ordered_eq_self {c : ClassifierConsts} (hs : c.tVoid < c.tSoft) (hh : c.tSoft < c.tHard) : c.ordered = c := by
  unfold ClassifierConsts.ordered
  simp only [if_neg (show ¬ c.tSoft ≤ c.tVoid by omega), if_neg (show ¬ c.tHard ≤ c.tSoft by omega)]

theorem inRange_settledZone1 (z : Zone1) : z.settled.inRange := by
  obtain ⟨void, soft, hard, top⟩ := ordered_spec (c := z.clamped.consts) ⟨le_clamp _ _ _, clamp_le (by decide) _⟩ (clamp_le (by decide) _)
    ⟨le_clamp _ _ _, clamp_le (by decide) _⟩
  refine ⟨le_clamp _ _ _, clamp_le (by decide) _, le_clamp _ _ _, clamp_le (by decide) _, void, soft, hard, top,
    clamp_le (by decide) _, le_clamp _ _ _, ?_⟩
  exact ⟨clamp_le (by decide) _, clamp_le (by decide) _, clamp_le (by decide) _, clamp_le (by decide) _, clamp_le (by decide) _,
    clamp_le (by decide) _, clamp_le (by decide) _⟩

theorem clamped_of_inRange {z : Zone1} (h : z.inRange) : z.clamped = z := by
  obtain ⟨⟨seFull, tVoid, tSoft, tHard, hyst, lMin, wearRate⟩, bitWear, feedZero, linkQuality, torqueSlip, mixShort⟩ := z
  simp only [Zone1.inRange] at h
  simp only [Zone1.clamped, Zone1.mk.injEq, ClassifierConsts.mk.injEq, Thresholds.mk.injEq,
    clamp_eq_self_iff (show 100 ≤ 65535 by decide), clamp_eq_self_iff (show 1 ≤ 253 by decide), clamp_eq_self_iff (show 2 ≤ 254 by decide),
    clamp_eq_self_iff (show 3 ≤ 255 by decide), clamp_eq_self_iff (show 1 ≤ 8 by decide), clamp_eq_self_iff (Nat.zero_le _)]
  omega

theorem settled_of_inRange {z : Zone1} (h : z.inRange) : z.settled = z := by
  have rising : z.consts.tVoid < z.consts.tSoft ∧ z.consts.tSoft < z.consts.tHard := by
    unfold Zone1.inRange at h
    omega
  rw [Zone1.settled, clamped_of_inRange h, ordered_eq_self rising.1 rising.2]

/-! ### Zones 2 and 3 -/

theorem inRange_settledCalib (c : Calib) : c.settled.inRange :=
  ⟨le_clamp _ _ _, clamp_le (by decide) _, clamp_le (by decide) _, le_clamp _ _ _, clamp_le (by decide) _, le_clamp _ _ _,
    clamp_le (by decide) _, le_clamp _ _ _, clamp_le (by decide) _, le_clamp _ _ _, clamp_le (by decide) _⟩

theorem settledCalib_of_inRange {c : Calib} (h : c.inRange) : c.settled = c := by
  obtain ⟨m, n, kf, kt, aHole, headAddress⟩ := c
  simp only [Calib.inRange] at h
  simp only [Calib.settled, Calib.mk.injEq, clamp_eq_self_iff (show 1 ≤ 31 by decide), clamp_eq_self_iff (Nat.zero_le _),
    clamp_eq_self_iff (show 1 ≤ 5000 by decide), clamp_eq_self_iff (show 1 ≤ 255 by decide),
    clamp_eq_self_iff (show 200 ≤ 2000 by decide), clamp_eq_self_iff (show 0x01 ≤ 0xFE by decide)]
  omega

/-! ### Zone 4 -/

theorem inRange_settledLimits (c : ChannelLimits) :
    1 ≤ c.settled.hi ∧ c.settled.hi ≤ 1023 ∧ c.settled.lo < c.settled.hi ∧ c.settled.hyst ≤ 255 ∧
      c.settled.hyst ≤ (c.settled.hi - c.settled.lo) / 2 := by
  have hi := le_clamp 1 1023 c.hi
  refine ⟨hi, clamp_le (by decide) _, ?_, min_le_of_left_le (clamp_le (by decide) _), min_le_right _ _⟩
  unfold ChannelLimits.settled
  simp only []
  split <;> omega

theorem settledLimits_of_inRange {c : ChannelLimits}
    (h : 1 ≤ c.hi ∧ c.hi ≤ 1023 ∧ c.lo < c.hi ∧ c.hyst ≤ 255 ∧ c.hyst ≤ (c.hi - c.lo) / 2) : c.settled = c := by
  have hi : clamp 1 1023 c.hi = c.hi := (clamp_eq_self_iff (by decide) _).2 (by omega)
  have lo : clamp 0 1023 c.lo = c.lo := (clamp_eq_self_iff (by decide) _).2 (by omega)
  have hyst : clamp 0 255 c.hyst = c.hyst := (clamp_eq_self_iff (by decide) _).2 (by omega)
  unfold ChannelLimits.settled
  simp only [hi, lo, hyst, if_neg (show ¬ c.hi ≤ c.lo by omega), min_eq_left h.2.2.2.2]

theorem inRange_settledZone4 (z : Zone4) : z.settled.inRange := by
  refine ⟨fun c hc => ?_, le_clamp _ _ _, clamp_le (by decide) _, le_clamp _ _ _, clamp_le (by decide) _, le_clamp _ _ _,
    clamp_le (by decide) _⟩
  obtain ⟨c, -, rfl⟩ := List.mem_map.1 hc
  exact inRange_settledLimits c

theorem settledZone4_of_inRange {z : Zone4} (h : z.inRange) : z.settled = z := by
  obtain ⟨channels, refExp, refTol, sleep⟩ := z
  obtain ⟨limits, rest⟩ := h
  have same : channels.map ChannelLimits.settled = channels :=
    (List.map_congr_left fun c hc => settledLimits_of_inRange (limits c hc)).trans (List.map_id _)
  simp only [Zone4.settled, Zone4.mk.injEq, same, true_and, clamp_eq_self_iff (show 400 ≤ 900 by decide),
    clamp_eq_self_iff (show 1 ≤ 100 by decide), clamp_eq_self_iff (show 1 ≤ 1000 by decide)]
  simp only [] at rest
  omega

/-! ### Zone 5 -/

theorem inRange_settledFlow (f : Flow) : f.settled.inRange :=
  ⟨le_clamp _ _ _, clamp_le (le_clamp _ _ _) _, clamp_le (by decide) _⟩

theorem settledFlow_of_inRange {f : Flow} (h : f.inRange) : f.settled = f := by
  obtain ⟨demand, floor⟩ := f
  obtain ⟨low, own, high⟩ := h
  simp only [] at low own high
  have demands : clamp 10 4000 demand = demand := (clamp_eq_self_iff (by decide) _).2 (by omega)
  simp only [Flow.settled, demands, (clamp_eq_self_iff (show 10 ≤ demand by omega) floor).2 ⟨low, own⟩]

theorem inRange_settledZone5 (z : Zone5) : z.settled.inRange := by
  have flow (q : Nat) : 10 ≤ clamp 10 4000 q ∧ clamp 10 4000 q ≤ 4000 := ⟨le_clamp _ _ _, clamp_le (by decide) _⟩
  refine ⟨le_clamp _ _ _, clamp_le (by decide) _, inRange_settledFlow _, inRange_settledFlow _, inRange_settledFlow _,
    inRange_settledFlow _, inRange_settledFlow _, ?_, ?_⟩
  · rintro q (rfl | rfl | rfl | rfl) <;> exact flow _
  · simp [Zone5.settled, le_clamp, clamp_le]

theorem settledZone5_of_inRange {z : Zone5} (h : z.inRange) : z.settled = z := by
  unfold Zone5.inRange at h
  obtain ⟨pumpLow, pumpHigh, collar, drill, retract, insert, tram, flows, rest⟩ := h
  have flow (q : Nat) (hq : q = z.spin ∨ q = z.hold ∨ q = z.torque ∨ q = z.support) : clamp 10 4000 q = q :=
    (clamp_eq_self_iff (by decide) _).2 (flows q hq)
  have inside (lo hi x : Nat) (h : lo ≤ x ∧ x ≤ hi) : clamp lo hi x = x := (clamp_eq_self_iff (h.1.trans h.2) x).2 h
  unfold Zone5.settled
  rw [settledFlow_of_inRange collar, settledFlow_of_inRange drill, settledFlow_of_inRange retract, settledFlow_of_inRange insert,
    settledFlow_of_inRange tram, flow _ (.inl rfl), flow _ (.inr (.inl rfl)), flow _ (.inr (.inr (.inl rfl))),
    flow _ (.inr (.inr (.inr rfl)))]
  congr 1 <;> exact inside _ _ _ (by omega)

/-! ### The row plan -/

/-- The plan that row 0 opens with has 1 to 8 slots at positions of their own, each within the depths of a hole (R120, R121). -/
theorem rowPlanSettled_usable (img : List Host.Cell) :
    1 ≤ (rowPlanSettled img).1.length ∧ (rowPlanSettled img).1.length ≤ 8 ∧ ((rowPlanSettled img).1.map PlanSlot.position).Nodup ∧
      ∀ p ∈ (rowPlanSettled img).1, p.position ≤ 7 ∧ 900 ≤ p.depth ∧ p.depth ≤ 2500 := by
  unfold rowPlanSettled
  simp only []
  split
  · rename_i usable
    simp only [planUsable, Bool.and_eq_true, decide_eq_true_eq, List.all_eq_true] at usable
    obtain ⟨⟨⟨low, high⟩, positions⟩, apart⟩ := usable
    have length : (clampPlan (rowPlanStored img).2).length = (rowPlanStored img).1 := by
      simp only [clampPlan, List.length_map, rowPlanStored, List.length_range] at high ⊢
      exact min_eq_left high
    refine ⟨by rw [length]; exact low, by rw [length]; exact high, ?_, fun p hp => ?_⟩
    · rw [clampPlan, List.map_map]
      exact apart
    · obtain ⟨q, hq, rfl⟩ := List.mem_map.1 hp
      exact ⟨positions q hq, le_clamp _ _ _, clamp_le (by decide) _⟩
  · decide

end Sys2Proof.Machine

/-! ## LOAD_ZONE (O52) -/
namespace Sys2Proof.Machine

theorem bothIdle_iff (s : State) : s.bothIdle = true ↔ ∀ b, (s.boom b).ctl.state = .idle := by
  simp only [State.bothIdle, Bool.and_eq_true, beq_iff_eq]
  exact ⟨fun ⟨l, r⟩ b => by cases b <;> assumption, fun h => ⟨h .left, h .right⟩⟩

theorem exec_loadZone {s : State} {q : Request} (h : s.taken .machine .loadZone q) {a : Answer}
    (ha : s.loadZone (operand q.operands 0) = a) : exec .loadZone s = .next (a.state.finish .machine q .loadZone a.code a.payload) := by
  subst ha
  exact congrArg Host.Outcome.next (serve_taken h _)

theorem loadZone_range {s : State} {z : Nat} (h : 6 < z) : s.loadZone z = answer s .range := if_pos h

/-- A load that its zone and the booms' states admit is tested for an operation in flight, and then for the zone's sum (R188). -/
theorem loadZone_admitted {s : State} {z : Nat} (hz : z ≤ 6) (ok : z = 0 ∨ z = 6 ∨ ∀ b, (s.boom b).ctl.state = .idle) :
    s.loadZone z =
      if s.mem.op ≠ .none then answer s .busy
      else if !zoneSumOk s.mem.image z then answer (s.logPartFault .device .configZoneBad (some z)) .checksumBad
      else answer (s.modMem fun m => { m with op := .load z, opTimer := 0 })
        (if zoneNeedsClamp s.mem.image z then .acceptedClamped else .accepted) := by
  rw [State.loadZone, if_neg (by omega), if_neg]
  rintro ⟨low, high, busy⟩
  rcases ok with rfl | rfl | idle
  · omega
  · omega
  · rw [(bothIdle_iff s).2 idle] at busy
    cases busy

theorem loadZone_wrongState {s : State} {z : Nat} (h : 1 ≤ z ∧ z ≤ 5 ∧ ¬ ∀ b, (s.boom b).ctl.state = .idle) :
    s.loadZone z = answer s .wrongState := by
  obtain ⟨low, high, active⟩ := h
  rw [State.loadZone, if_neg (by omega), if_pos]
  rw [← bothIdle_iff, Bool.not_eq_true] at active
  exact ⟨low, high, active⟩

end Sys2Proof.Machine

/-! ## The values of a zone taken (O52) -/
namespace Sys2Proof.Machine

/-- An attribute of the boom crosses or recovers from one state to the other (R154). -/
def State.wearTurned (s u : State) (b : Boom) : Bool := (s.boom b).wear.statesDiffer (u.boom b).wear

theorem statesDiffer_iff (t u : WearTable) : t.statesDiffer u = true ↔
    u.bitWear.crossed ≠ t.bitWear.crossed ∨ u.feedZero.crossed ≠ t.feedZero.crossed ∨ u.linkQuality.crossed ≠ t.linkQuality.crossed ∨
      u.torqueSlip.crossed ≠ t.torqueSlip.crossed ∨ u.mixShort.crossed ≠ t.mixShort.crossed := by
  simp only [WearTable.statesDiffer, Bool.or_eq_true, bne_iff_ne, or_assoc, ne_comm]

theorem wearTurned_same {s u : State} {b : Boom} (h : (u.boom b).wear = (s.boom b).wear) : s.wearTurned u b = false := by
  rw [State.wearTurned, h, Bool.eq_false_iff, ne_eq, statesDiffer_iff]
  simp

/-- WEAR of both booms. -/
def State.bothWorn (s u : State) : Port → Causes :=
  bothFlags (s.wearFlag .left (s.wearTurned u .left)) (s.wearFlag .right (s.wearTurned u .right))

/-- What a zone's values move, whichever zone: parameters, limits of the monitor, classifiers and wear tables, with WEAR for a turn. No
interlock becomes active by them. -/
structure State.ZoneTaken (s u : State) : Prop where
  back : u.backdrop = { s.backdrop with params := u.params }
  boom : ∀ b, u.boom b = { s.boom b with classifier := (u.boom b).classifier, wear := (u.boom b).wear }
  arbiter : u.arbiter = s.arbiter
  row : u.rowMap = s.rowMap
  logs : s.logsKept u
  flags : s.flagged u (s.bothWorn u)
  eased : u.interlocks.minus s.interlocks = Interlocks.empty

theorem Interlocks.minus_self (i : Interlocks) : i.minus i = Interlocks.empty := by simp [Interlocks.minus, Interlocks.empty]

/-- Values that touch neither the ports, nor a wear table, nor the monitor. -/
theorem State.ZoneTaken.quiet {s u : State} (back : u.backdrop = { s.backdrop with params := u.params })
    (boom : ∀ b, u.boom b = { s.boom b with classifier := (u.boom b).classifier }) (arbiter : u.arbiter = s.arbiter)
    (row : u.rowMap = s.rowMap) (logs : s.logsKept u) (ports : ∀ p, u.port p = s.port p)
    (eased : u.interlocks.minus s.interlocks = Interlocks.empty) : s.ZoneTaken u where
  back := back
  boom b := by rw [boom b]
  arbiter := arbiter
  row := row
  logs := logs
  flags := by
    have worn (b : Boom) : s.wearTurned u b = false := wearTurned_same (by rw [boom b])
    rw [State.bothWorn, worn, worn, wearFlag_false, wearFlag_false]
    exact (State.flagged.of_ports ports).trans (.refl u)
  eased := eased

/-! ### Zone 1 -/

theorem boom_takeZone1 (s : State) (z : Zone1) (b : Boom) : (s.takeZone1 z).boom b =
    { s.boom b with wear := (s.boom b).wear.retune z.thresholds z.consts.wearRate } := by
  unfold State.takeZone1
  cases b
  · rw [boom_modWear_other _ (show Boom.left ≠ .right by decide), boom_modWear_same]; rfl
  · rw [boom_modWear_same, boom_modWear_other _ (show Boom.right ≠ .left by decide)]; rfl

theorem zoneTaken_takeZone1 (s : State) (z : Zone1) :
    s.ZoneTaken (s.takeZone1 z) ∧ (s.takeZone1 z).params = { s.params with classifier := z.consts } ∧
      (s.takeZone1 z).monitor = s.monitor := by
  have params : (s.takeZone1 z).params = { s.params with classifier := z.consts } := by
    rw [State.takeZone1, params_modWear, params_modWear]
  have monitor : (s.takeZone1 z).monitor = s.monitor := by simp [State.takeZone1]
  have row : (s.takeZone1 z).rowMap = s.rowMap := by simp [State.takeZone1]
  refine ⟨⟨?_, fun b => by rw [boom_takeZone1], by simp [State.takeZone1], row,
    ⟨by simp [State.takeZone1], by simp [State.takeZone1]⟩, ?_, ?_⟩, params, monitor⟩
  · rw [params, State.takeZone1, backdrop_modWear, backdrop_modWear]; rfl
  · let v : State := { s with params := { s.params with classifier := z.consts } }
    let retuned (t : WearTable) : WearTable := t.retune z.thresholds z.consts.wearRate
    have left := flagged_modWear v .left retuned
    have right := flagged_modWear (v.modWear .left retuned) .right retuned
    have straps : (v.modWear .left retuned).straps = s.straps := (straps_of_backdrop (backdrop_modWear v .left retuned)).trans rfl
    rw [boom_modWear_other _ (show Boom.right ≠ .left by decide), wearFlag_congr straps] at right
    rw [State.bothWorn, State.wearTurned, State.wearTurned, boom_takeZone1, boom_takeZone1]
    exact .after (fun p => by cases p <;> rfl) (left.trans right)
  · rw [interlocks_of monitor row, Interlocks.minus_self]

/-! ### Zone 4 -/

/-- A channel that takes new limits is in breach only where it was. -/
theorem breach_take (c : Channel) (l : ChannelLimits) : (c.take l).breach = if l.enabled then c.breach else .inside := by
  unfold Channel.take
  split <;> rfl

theorem breach_takeZone4 (m : Monitor) (z : Zone4) (k : Nat) :
    (m.takeZone4 z).breach k = m.breach k ∨ (m.takeZone4 z).breach k = .inside := by
  unfold Monitor.breach Monitor.takeZone4
  simp only [List.getElem?_zipWith]
  cases m.channels[k]? with
  | none => exact .inl rfl
  | some c =>
    cases z.channels[k]? with
    | none => exact .inr rfl
    | some l =>
      simp only [Option.map_some, Option.getD_some, breach_take]
      split
      · exact .inl rfl
      · exact .inr rfl

/-- New limits clear interlocks and make none active (R139, R145). -/
theorem eased_takeZone4 (s : State) (z : Zone4) :
    (s.modMonitor fun m => m.takeZone4 z).interlocks.minus s.interlocks = Interlocks.empty := by
  have was {p : Breach → Bool} (off : p .inside = false) (k : Nat) :
      (p ((s.monitor.takeZone4 z).breach k) && !p (s.monitor.breach k)) = false := by
    rcases breach_takeZone4 s.monitor z k with h | h
    · rw [h, Bool.and_not_self]
    · rw [h, off, Bool.false_and]
  have support : ((((s.monitor.takeZone4 z).breach 3 == .lo) || !s.rowMap.supportSet) &&
      !((s.monitor.breach 3 == .lo) || !s.rowMap.supportSet)) = false := by
    rcases breach_takeZone4 s.monitor z 3 with h | h
    · rw [h, Bool.and_not_self]
    · rw [h, show (Breach.inside == Breach.lo) = false from rfl]
      cases s.rowMap.supportSet <;> simp
  simp only [Interlocks.minus, Interlocks.empty, Interlocks.mk.injEq]
  exact ⟨was (p := (· != .inside)) rfl 0, was (p := (· == .lo)) rfl 1, was (p := (· == .hi)) rfl 2, support,
    was (p := (· == .lo)) rfl 4, was (p := (· == .lo)) rfl 5, Bool.and_not_self _, Bool.and_not_self _, Bool.and_not_self _⟩

/-- The channels that take new limits, each on its own (R138, R145). -/
theorem channels_takeZone4 (m : Monitor) (z : Zone4) {k : Nat} {c : Channel} {l : ChannelLimits} (hc : m.channels[k]? = some c)
    (hl : z.channels[k]? = some l) :
    (m.takeZone4 z).channels[k]? = some
      { limits := l, last := c.last, breach := if l.enabled then c.breach else .inside
        debounce := if l.enabled then c.debounce else none } := by
  unfold Monitor.takeZone4
  simp only [List.getElem?_zipWith, hc, hl, Option.some.injEq, Channel.take]
  split <;> rfl

/-- The limits of a channel as the load brings them to life (R138). -/
theorem limits_settled (img : List Host.Cell) {k : Nat} (hk : k < 6) :
    let hi := max 1 (min 1023 (field img 4 (1 + 5 * k) 2))
    let low := min 1023 (field img 4 (3 + 5 * k) 2)
    let lo := if hi ≤ low then 0 else low
    (Zone4.stored img).settled.channels[k]? = some
      { enabled := (Memory.read img 0x40).getLsbD k, hi, lo, hyst := min (min 255 (field img 4 (5 + 5 * k) 1)) ((hi - lo) / 2) } := by
  simp only [Zone4.settled, Zone4.stored, List.map_map, List.getElem?_map, List.getElem?_range hk, Option.map_some,
    Function.comp_apply, ChannelLimits.settled, clamp_zero]
  rfl

/-! ### Any zone -/

theorem zoneTaken_takeZone (s : State) (z : Nat) : s.ZoneTaken (s.takeZone z) := by
  have same {u : State} (m : u.monitor = s.monitor) (r : u.rowMap = s.rowMap) : u.interlocks.minus s.interlocks = Interlocks.empty := by
    rw [interlocks_of m r, Interlocks.minus_self]
  rcases z with _ | _ | _ | _ | _ | _ | z
  case succ.zero => exact (zoneTaken_takeZone1 s _).1
  case succ.succ.succ.succ.zero =>
    exact .quiet rfl (fun b => by cases b <;> rfl) rfl rfl ⟨rfl, rfl⟩ (fun p => by cases p <;> rfl) (eased_takeZone4 s _)
  all_goals exact .quiet rfl (fun b => by cases b <;> rfl) rfl rfl ⟨rfl, rfl⟩ (fun p => by cases p <;> rfl) (same rfl rfl)

/-- No zone but zone 4 moves the monitor, and none but zone 5 the pump and flow table. -/
theorem takeZone_others (s : State) (z : Nat) :
    (z ≠ 4 → (s.takeZone z).monitor = s.monitor) ∧ (z ≠ 5 → (s.takeZone z).params.plan = s.params.plan) ∧
      (z ≠ 1 → ∀ b, ((s.takeZone z).boom b).wear = (s.boom b).wear) ∧
      (z ≠ 2 → (s.takeZone z).left.classifier = s.left.classifier) ∧ (z ≠ 3 → (s.takeZone z).right.classifier = s.right.classifier) := by
  have zone1 := zoneTaken_takeZone1 s (Zone1.stored s.mem.image).settled
  have boom (b : Boom) := boom_takeZone1 s (Zone1.stored s.mem.image).settled b
  have wear {u : State} (l : u.left.wear = s.left.wear) (r : u.right.wear = s.right.wear) (b : Boom) :
      (u.boom b).wear = (s.boom b).wear := by cases b <;> assumption
  rcases z with _ | _ | _ | _ | _ | _ | z
  case succ.zero =>
    exact ⟨fun _ => zone1.2.2, fun _ => (congrArg Params.plan zone1.2.1 :), fun h => absurd rfl h,
      fun _ => (congrArg BoomUnit.classifier (boom .left) :), fun _ => (congrArg BoomUnit.classifier (boom .right) :)⟩
  case succ.succ.zero => exact ⟨fun _ => rfl, fun _ => rfl, fun _ => wear rfl rfl, fun h => absurd rfl h, fun _ => rfl⟩
  case succ.succ.succ.zero => exact ⟨fun _ => rfl, fun _ => rfl, fun _ => wear rfl rfl, fun _ => rfl, fun h => absurd rfl h⟩
  case succ.succ.succ.succ.zero => exact ⟨fun h => absurd rfl h, fun _ => rfl, fun _ => wear rfl rfl, fun _ => rfl, fun _ => rfl⟩
  case succ.succ.succ.succ.succ.zero => exact ⟨fun _ => rfl, fun h => absurd rfl h, fun _ => wear rfl rfl, fun _ => rfl, fun _ => rfl⟩
  all_goals exact ⟨fun _ => rfl, fun _ => rfl, fun _ => wear rfl rfl, fun _ => rfl, fun _ => rfl⟩

end Sys2Proof.Machine

/-! ## A load handed on (O52) -/
namespace Sys2Proof.Machine

/-! ### The arbiter's part and the announcement -/

/-- The arbiter's part leaves the FLOW flags as the changed grants ask (R115). -/
theorem flowFlags_refreshFlow (s : State) : s.flowFlags s.refreshFlow := fun p => by
  unfold State.refreshFlow
  simp only []
  split
  · simp
  · have h := flow_reallocate
      { s with arbiter :=
        { qAvail := availableFlow s.params.plan.qPump s.interlocks, demands := s.arbiter.demands.filter fun d => !s.suspendedOwner d } }
      s.arbiter.demands p
    cases p <;> exact h

theorem flowCurrent_congr {s t : State} (arbiter : t.arbiter = s.arbiter) (plan : t.params.plan = s.params.plan)
    (locks : t.interlocks = s.interlocks) (run : ∀ b, (t.boom b).ctl.run = (s.boom b).ctl.run) (h : s.flowCurrent) : t.flowCurrent := by
  rw [flowCurrent_iff] at h ⊢
  rw [arbiter, plan, locks]
  exact ⟨h.1, fun b hr => h.2 b ((run b).symm.trans hr)⟩

/-- Interlocks that only clear suspend no stage: the arbiter works Q_avail out afresh, and INTERLOCK is raised (R100, R105, R150). -/
theorem announce_eased {u : State} {old : Interlocks} (h : u.interlocks.minus old = Interlocks.empty) :
    u.announce old = if old = u.interlocks then u else u.refreshFlow.raiseInterlock old u.interlocks := by
  have idle (t : State) (b : Boom) : t.suspendStage b Interlocks.empty = t := by
    unfold State.suspendStage
    simp [Interlocks.inter, Interlocks.empty]
  have off : Interlocks.empty.supplyLow = false := rfl
  unfold State.announce
  simp only [h, idle, off, Bool.false_eq_true, if_false]

/-- INTERLOCK on the ports for a set that may have changed (R150). -/
def State.interlockFlag (s : State) (old new : Interlocks) : Port → Causes :=
  bothFlags (machineFlag .interlock (decide (new ≠ old)))
    (bothFlags (s.boomFlag .left .interlock (decide (new.refusing ≠ old.refusing)))
      (s.boomFlag .right .interlock (decide (new.refusing ≠ old.refusing))))

theorem interlockFlag_same (s : State) (i : Interlocks) : s.interlockFlag i i = noFlag := by
  funext p
  simp [State.interlockFlag, bothFlags, machineFlag_false, boomFlag_false, noFlag]

/-- Behind the values of a zone stand the arbiter's part and INTERLOCK for a changed set. -/
structure State.LoadApplied (s v w : State) : Prop where
  back : w.backdrop = v.backdrop
  boom : ∀ b, w.boom b = v.boom b
  arbiter : w.arbiter = v.arbiter
  monitor : w.monitor = v.monitor
  row : w.rowMap = v.rowMap
  logs : v.logsKept w
  flags : v.flagged w (v.interlockFlag s.interlocks v.interlocks)

theorem loadApplied_applyLoad (s : State) (z : Nat) : s.LoadApplied (s.takeZone z).refreshFlow (s.applyLoad z) := by
  have eased := (zoneTaken_takeZone s z).eased
  unfold State.applyLoad
  generalize s.takeZone z = u at *
  have locks := interlocks_refreshFlow u
  simp only [announce_eased eased]
  by_cases same : s.interlocks = u.interlocks
  · rw [if_pos same]
    refine ⟨rfl, fun _ => rfl, rfl, rfl, rfl, ⟨rfl, rfl⟩, ?_⟩
    rw [locks, same, interlockFlag_same]
    exact .refl _
  · have current : (u.refreshFlow.raiseInterlock s.interlocks u.interlocks).flowCurrent := by
      refine flowCurrent_congr (by simp) ?_ (interlocks_of (by simp) (by simp)) (fun b => by simp) (flowCurrent_refreshFlow u)
      exact congrArg (fun k : Backdrop => k.params.plan) (backdrop_raiseInterlock u.refreshFlow s.interlocks u.interlocks)
    rw [if_neg same, refreshFlow_current _ current]
    refine ⟨by simp, fun b => by simp, by simp, by simp, by simp, ⟨by simp, by simp⟩, ?_⟩
    have raised := flagged_raiseInterlock u.refreshFlow s.interlocks u.interlocks
    rw [← show decide (u.interlocks ≠ s.interlocks) = true from decide_eq_true (Ne.symm same)] at raised
    rw [locks]
    exact raised

/-! ### The end of the operation -/

/-- The end of an operation raises CONFIG_DONE, and a waiting save begins (R187 to R189). -/
theorem finishOperation_moves (w : State) :
    let t := w.finishOperation
    t.backdrop = { w.backdrop with mem := t.mem } ∧ (∀ b, t.boom b = w.boom b) ∧ t.arbiter = w.arbiter ∧ t.monitor = w.monitor ∧
      t.rowMap = w.rowMap ∧ w.logsKept t ∧ w.flagged t (machineFlag .configDone true) ∧
      (t.mem.memory = w.mem.memory ∧ t.mem.image = w.mem.image ∧ t.mem.zones = w.mem.zones) ∧
      (w.mem.pendingSave = false → t.mem.op = .none) ∧
      (w.mem.pendingSave = true → t.mem.pendingSave = false ∧ ∃ p, t.mem.op = .save p) := by
  intro t
  have flags := State.flagged.after (s := w) (fun p => by simp)
    (flagged_raiseMachine (w.modMem fun m => { m with op := .none, opTimer := 0 }) .configDone)
  cases h : w.mem.pendingSave with
  | true =>
    have eq : t = _ := if_pos h
    rw [eq]
    exact ⟨rfl, fun b => by cases b <;> rfl, rfl, rfl, rfl, ⟨rfl, rfl⟩, flags.before fun p => by simp [State.beginSave],
      ⟨rfl, rfl, rfl⟩, (fun k => nomatch k), fun _ => ⟨rfl, _, rfl⟩⟩
  | false =>
    have eq : t = _ := if_neg (by rw [h]; decide)
    rw [eq]
    exact ⟨rfl, fun b => by cases b <;> rfl, rfl, rfl, rfl, ⟨rfl, rfl⟩, flags, ⟨rfl, rfl, rfl⟩, fun _ => rfl, (fun k => nomatch k)⟩

/-! ### A load done -/

/-- What a load that has run its 2 ms leaves, from the state with the zone's values taken. -/
structure State.LoadDone (s u t : State) (z : Nat) (st : ZoneState) : Prop where
  back : t.backdrop = { s.backdrop with params := u.params, mem := t.mem }
  boom : ∀ b, t.boom b = u.refreshFlow.boom b
  arbiter : t.arbiter = u.refreshFlow.arbiter
  monitor : t.monitor = u.monitor
  row : t.rowMap = s.rowMap
  logs : s.logsKept t
  memory : t.mem.memory = s.mem.memory ∧ t.mem.image = s.mem.image ∧ t.mem.zones = s.mem.zones.set z st
  idle : s.mem.pendingSave = false → t.mem.op = .none
  saves : s.mem.pendingSave = true → t.mem.pendingSave = false ∧ ∃ p, t.mem.op = .save p
  flow : s.flowFlags t
  flags : ∃ on, s.flagged t (bothFlags (bothFlags (s.bothWorn u) (flowOn on))
    (bothFlags (s.interlockFlag s.interlocks u.interlocks) (machineFlag .configDone true)))

/-- Neither INTERLOCK nor CONFIG_DONE is FLOW. -/
theorem flow_behindLoad (s : State) (old new : Interlocks) (p : Port) :
    (bothFlags (s.interlockFlag old new) (machineFlag .configDone true) p).c4 = false := by
  simp [bothFlags, Causes.join, State.interlockFlag, boomFlag_eq, machineFlag_eq, Causes.put, Causes.clear, BoomCause.code,
    MachineCause.code]

theorem flow_bothWorn (s u : State) (p : Port) : (s.bothWorn u p).c4 = false := by
  simp [State.bothWorn, bothFlags, Causes.join, wearFlag_eq, Causes.clear]

theorem loadDone_loadComplete (s : State) (z : Nat) (st : ZoneState) :
    s.LoadDone (s.takeZone z) ((s.applyLoad z).markZone z st).finishOperation z st := by
  have taken := zoneTaken_takeZone s z
  have applied := loadApplied_applyLoad s z
  generalize s.takeZone z = u at *
  generalize s.applyLoad z = w at *
  obtain ⟨back, boom, arbiter, monitor, row, logs, done, kept, idle, saves⟩ := finishOperation_moves (w.markZone z st)
  generalize (w.markZone z st).finishOperation = t at *
  have wback : w.backdrop = { s.backdrop with params := u.params } := applied.back.trans ((backdrop_refreshFlow u).trans taken.back)
  have wmem : w.mem = s.mem := congrArg Backdrop.mem wback
  have straps : u.refreshFlow.straps = s.straps :=
    (straps_of_backdrop (backdrop_refreshFlow u)).trans (congrArg Backdrop.straps taken.back)
  obtain ⟨on, flowed⟩ := flagged_refreshFlow u
  have behind := applied.flags.trans (.after (fun p => (port_modMem w p _ : (w.markZone z st).port p = _)) done)
  have locked : State.interlockFlag u.refreshFlow s.interlocks u.refreshFlow.interlocks = s.interlockFlag s.interlocks u.interlocks := by
    rw [interlocks_refreshFlow]
    simp only [State.interlockFlag, boomFlag_congr straps]
  rw [locked] at behind
  have marked : (w.markZone z st).backdrop = { w.backdrop with mem := (w.markZone z st).mem } := rfl
  refine ⟨?_, fun b => ?_, arbiter.trans applied.arbiter, ?_, ?_, ?_, ?_, by rwa [← wmem], by rwa [← wmem], fun p => ?_,
    on, (taken.flags.trans flowed).trans behind⟩
  · rw [back, marked, wback]
  · rw [boom, State.markZone, boom_modMem, applied.boom]
  · exact monitor.trans (applied.monitor.trans (monitor_refreshFlow u))
  · exact row.trans (applied.row.trans ((rowMap_refreshFlow u).trans taken.row))
  · exact ⟨logs.1.trans (applied.logs.1.trans ((holeLog_refreshFlow u).trans taken.logs.1)),
      logs.2.trans (applied.logs.2.trans ((faultLog_refreshFlow u).trans taken.logs.2))⟩
  · rw [← wmem]; exact kept
  · have raised := flowFlags_refreshFlow u p
    have before : (u.port p).causes.c4 = (s.port p).causes.c4 := by
      rw [taken.flags.causes p, Causes.join, flow_bothWorn, Bool.or_false]
    have after : (t.port p).causes.c4 = (u.refreshFlow.port p).causes.c4 := by
      rw [behind.causes p, Causes.join, flow_behindLoad, Bool.or_false]
    rw [before, taken.arbiter, absentPort_congr (congrArg Backdrop.straps taken.back :)] at raised
    rw [after, arbiter.trans applied.arbiter]
    exact raised

/-! ### The flags of a load -/

/-- On a boom's port: INTERLOCK, FLOW and WEAR. -/
theorem loadFlags_boom (s u : State) (on : Port → Bool) (b : Boom) :
    bothFlags (bothFlags (s.bothWorn u) (flowOn on))
        (bothFlags (s.interlockFlag s.interlocks u.interlocks) (machineFlag .configDone true)) b.port =
      { Causes.clear with
        c1 := s.enabled b && decide (u.interlocks.refusing ≠ s.interlocks.refusing), c4 := on b.port
        c6 := s.enabled b && s.wearTurned u b } := by
  cases b <;> simp [bothFlags, Causes.join, State.bothWorn, State.interlockFlag, flowOn, wearFlag_eq, boomFlag_eq, machineFlag_eq,
    Causes.put, Causes.clear, BoomCause.code, MachineCause.code, Boom.port]

/-- On the machine port: the same of both booms, and CONFIG_DONE. -/
theorem loadFlags_machine (s u : State) (on : Port → Bool) :
    bothFlags (bothFlags (s.bothWorn u) (flowOn on))
        (bothFlags (s.interlockFlag s.interlocks u.interlocks) (machineFlag .configDone true)) .machine =
      { Causes.clear with
        c1 := decide (u.interlocks ≠ s.interlocks), c4 := on .machine, c6 := true
        c7 := s.wearTurned u .left || s.wearTurned u .right } := by
  simp [bothFlags, Causes.join, State.bothWorn, State.interlockFlag, flowOn, wearFlag_eq, boomFlag_eq, machineFlag_eq, Causes.put,
    Causes.clear, BoomCause.code, MachineCause.code, Boom.port]

end Sys2Proof.Machine

/-! ## What a load leaves, as the statement says it (O52) -/
namespace Sys2Proof.Machine

section
variable {s u t : State} {z : Nat} {st : ZoneState}

theorem State.LoadDone.params (h : s.LoadDone u t z st) : t.params = u.params := congrArg Backdrop.params h.back

theorem State.LoadDone.ungranted (h : s.LoadDone u t z st) (b : Boom) : (t.boom b).ungranted = (u.boom b).ungranted := by
  rw [h.boom, ungranted_refreshFlow]

theorem State.LoadDone.wear (h : s.LoadDone u t z st) (b : Boom) : (t.boom b).wear = (u.boom b).wear :=
  (congrArg BoomUnit.wear (h.ungranted b) :)

theorem State.LoadDone.classifier (h : s.LoadDone u t z st) (b : Boom) : (t.boom b).classifier = (u.boom b).classifier :=
  (congrArg BoomUnit.classifier (h.ungranted b) :)

theorem State.LoadDone.locks (h : s.LoadDone u t z st) (taken : s.ZoneTaken u) : t.interlocks = u.interlocks :=
  interlocks_of h.monitor (h.row.trans taken.row.symm)

/-- Of a boom a zone moves its classifier and its wear table alone. -/
theorem State.LoadDone.rest (h : s.LoadDone u t z st) (taken : s.ZoneTaken u) (b : Boom) :
    { s.boom b with classifier := (t.boom b).classifier, wear := (t.boom b).wear } = u.boom b := by
  rw [h.classifier, h.wear]
  exact (taken.boom b).symm

/-- Q_avail follows the live plan and the set (R104, R105). -/
theorem State.LoadDone.qAvail (h : s.LoadDone u t z st) (taken : s.ZoneTaken u) :
    t.arbiter.qAvail = availableFlow t.params.plan.qPump t.interlocks := by
  rw [h.arbiter, h.params, h.locks taken, qAvail_refreshFlow]

/-- An arbiter that is current stays so where neither its plan nor the set moves. -/
theorem State.LoadDone.still (h : s.LoadDone u t z st) (taken : s.ZoneTaken u) (current : s.flowCurrent)
    (plan : u.params.plan = s.params.plan) (monitor : u.monitor = s.monitor) :
    t.arbiter = s.arbiter ∧ ∀ b, t.boom b = { s.boom b with classifier := (t.boom b).classifier, wear := (t.boom b).wear } := by
  have same : u.refreshFlow = u := by
    refine refreshFlow_current u (flowCurrent_congr taken.arbiter plan (interlocks_of monitor taken.row) (fun b => ?_) current)
    rw [taken.boom b]
  refine ⟨?_, fun b => ?_⟩
  · rw [h.arbiter, same, taken.arbiter]
  · rw [h.rest taken b, h.boom, same]

theorem State.LoadDone.interlockFlags (h : s.LoadDone u t z st) (taken : s.ZoneTaken u) : s.interlockFlags t := by
  obtain ⟨on, flags⟩ := h.flags
  unfold State.interlockFlags
  rw [h.locks taken]
  refine ⟨?_, fun b => ?_⟩
  · rw [show t.portMachine.causes = _ from flags.causes .machine, loadFlags_machine]
    simp [Causes.join, State.port]
  · rw [flags.causes b.port, loadFlags_boom, Causes.join, Bool.or_eq_true, Bool.and_eq_true, decide_eq_true_eq]
    rfl

theorem State.LoadDone.boomCauses (h : s.LoadDone u t z st) (b : Boom) :
    ((t.port b.port).causes.c6 = true ↔ (s.port b.port).causes.c6 = true ∨ (s.enabled b = true ∧ s.wearTurned t b = true)) ∧
      (t.port b.port).causes =
        { (s.port b.port).causes with
          c1 := (t.port b.port).causes.c1, c4 := (t.port b.port).causes.c4, c6 := (t.port b.port).causes.c6 } := by
  obtain ⟨on, flags⟩ := h.flags
  rw [State.wearTurned, h.wear, ← State.wearTurned, flags.causes b.port, loadFlags_boom]
  simp [Causes.join, Causes.clear]

theorem State.LoadDone.machineCauses (h : s.LoadDone u t z st) :
    (t.portMachine.causes.c7 = true ↔ s.portMachine.causes.c7 = true ∨ ∃ b, s.wearTurned t b = true) ∧
      t.portMachine.causes =
        { s.portMachine.causes with
          c1 := t.portMachine.causes.c1, c4 := t.portMachine.causes.c4, c6 := true, c7 := t.portMachine.causes.c7 } := by
  obtain ⟨on, flags⟩ := h.flags
  have both : (∃ b, s.wearTurned t b = true) ↔ s.wearTurned u .left = true ∨ s.wearTurned u .right = true := by
    simp only [State.wearTurned, h.wear]
    exact ⟨fun ⟨b, hb⟩ => by cases b <;> simp [hb], fun hb => hb.elim (⟨_, ·⟩) (⟨_, ·⟩)⟩
  rw [both, show t.portMachine.causes = _ from flags.causes .machine, loadFlags_machine]
  simp [Causes.join, Causes.clear, State.port]

end

/-- A wear table on the thresholds and the wear_rate that a load of zone 1 brings to life (R154 to R156). -/
theorem retune_stored (t : WearTable) (img : List Host.Cell) (rate : Nat) :
    let stored (k : Nat) : Nat := min 252 (field img 1 (8 + k) 1)
    let tuned (a : Attr) (k : Nat) : Attr :=
      { a with threshold := stored k, worst := min a.worst a.norm, crossed := decide (a.norm ≤ stored k) }
    let w := min 511 (256 + t.cmDrilled * rate / 10000)
    let norm := 253 - (w - 256) * 252 / 255
    t.retune (Zone1.stored img).settled.thresholds rate =
      { t with
        w
        bitWear := { raw := w, norm, worst := min (min t.bitWear.worst t.bitWear.norm) norm, threshold := stored 0
                     crossed := decide (norm ≤ stored 0) }
        feedZero := tuned t.feedZero 1, linkQuality := tuned t.linkQuality 2, torqueSlip := tuned t.torqueSlip 3
        mixShort := tuned t.mixShort 4 } := by
  simp only [WearTable.retune, WearTable.takeW, Attr.evaluate, Attr.retune, wearFactor, normBitWear, Zone1.settled, Zone1.clamped,
    Zone1.stored, clamp_zero]

theorem exec_loadComplete {s : State} {z : Nat} (hop : s.mem.op = .load z) (ht : 2 ≤ s.mem.opTimer) :
    exec .loadComplete s =
      .next ((s.applyLoad z).markZone z (if zoneNeedsClamp s.mem.image z then .clamped else .good)).finishOperation := by
  show execLoadComplete s = _
  simp only [execLoadComplete, MemoryController.loadDue, hop, ht, decide_true, if_true]
  rfl

/-- The values that zones 0, 1 and 4 bring to life (R155, R188). -/
theorem live_takeZone (s : State) :
    (s.takeZone 0).params = { s.params with machineNumber := field s.mem.image 0 0 2 } ∧
      (s.takeZone 1).params = { s.params with classifier := (Zone1.stored s.mem.image).settled.consts } ∧
      (∀ b, ((s.takeZone 1).boom b).wear = (s.boom b).wear.retune (Zone1.stored s.mem.image).settled.thresholds
        (Zone1.stored s.mem.image).settled.consts.wearRate) ∧
      (s.takeZone 4).monitor = s.monitor.takeZone4 (Zone4.stored s.mem.image).settled :=
  ⟨rfl, (zoneTaken_takeZone1 s _).2.1, fun b => congrArg BoomUnit.wear (boom_takeZone1 s _ b), rfl⟩

/-- Settles O52: the request by its tests (`loadZone_admitted`), the end of the load by what the zone's values move
(`zoneTaken_takeZone`) and what stands behind them (`loadDone_loadComplete`), and the clamps by their ranges. -/
theorem aLoadMakesAZoneLive : Obligations.ALoadMakesAZoneLive := by
  unfold Obligations.ALoadMakesAZoneLive
  refine ⟨fun s => ⟨fun q taken => ?_, fun z hop htime _ _ => ?_⟩,
    fun z => ⟨inRange_settledZone1 z, settled_of_inRange⟩, fun c => ⟨inRange_settledCalib c, settledCalib_of_inRange⟩,
    fun z => ⟨inRange_settledZone4 z, settledZone4_of_inRange⟩, fun z => ⟨inRange_settledZone5 z, settledZone5_of_inRange⟩,
    rowPlanSettled_usable⟩
  · intro z idle refused
    refine ⟨fun high => exec_loadZone taken (loadZone_range high), fun hz => ⟨fun active => exec_loadZone taken (loadZone_wrongState active),
      fun ok => ?_⟩⟩
    have admitted := exec_loadZone taken (loadZone_admitted hz ok)
    refine ⟨fun busy => ?_, fun free bad => ?_, fun free good => ?_⟩
    · rw [if_pos busy] at admitted
      exact admitted
    · rw [if_neg (not_not.2 free), if_pos (by rw [bad]; rfl)] at admitted
      exact ⟨_, admitted, rfl, rfl, rfl, rfl⟩
    · rw [if_neg (not_not.2 free), if_neg (by rw [good]; decide)] at admitted
      exact admitted
  · intro turns rest
    refine ⟨_, exec_loadComplete hop htime, ?_⟩
    have taken := zoneTaken_takeZone s z
    have done := loadDone_loadComplete s z (if zoneNeedsClamp s.mem.image z then .clamped else .good)
    obtain ⟨monitor, plan, wear, left, right⟩ := takeZone_others s z
    obtain ⟨live0, live1, tables, live4⟩ := live_takeZone s
    generalize ((s.applyLoad z).markZone z _).finishOperation = t at *
    have turned (b : Boom) : turns t b ↔ s.wearTurned t b = true := (statesDiffer_iff _ _).symm
    have back := done.back
    rw [← done.params] at back
    refine ⟨done.memory.1, done.memory.2.1, done.memory.2.2, by rw [done.machineCauses.2], done.idle, done.qAvail taken, ?_, ?_, ?_, ?_, ?_,
      ?_, ?_, fun h => done.monitor.trans (monitor h), back, done.row, done.logs, done.saves, fun h b => (done.wear b).trans (wear h b),
      fun h => (done.classifier .left).trans (left h), fun h => (done.classifier .right).trans (right h), fun b => ?_, fun h4 h5 current => ?_,
      done.interlockFlags taken, done.flow, fun b => ?_, ?_, fun b => (done.boomCauses b).2, done.machineCauses.2⟩
    · rintro rfl
      exact done.params.trans live0
    · rintro rfl
      refine ⟨done.params.trans live1, fun b => ?_⟩
      intro old new stored tuned w norm
      exact (done.wear b).trans ((tables b).trans (retune_stored _ _ _))
    · rintro rfl
      exact ⟨done.params, done.classifier .left⟩
    · rintro rfl
      exact ⟨done.params, done.classifier .right⟩
    · rintro rfl
      rw [done.monitor, live4]
      refine ⟨done.params, rfl, rfl, rfl, rfl, ?_, fun k c hk hc => ?_⟩
      · simp [Monitor.takeZone4, Zone4.settled, Zone4.stored]
      · exact channels_takeZone4 _ _ hc (limits_settled s.mem.image hk)
    · rintro rfl
      exact done.params
    · rintro rfl
      exact done.params
    · exact (done.ungranted b).trans (congrArg BoomUnit.ungranted (done.rest taken b).symm)
    · exact done.still taken current (plan h5) (monitor h4)
    · rw [turned]
      exact (done.boomCauses b).1
    · simp only [turned]
      exact done.machineCauses.1

end Sys2Proof.Machine

/-! ## The anchorage planner (O58, O59) -/
namespace Sys2Proof.Machine

/-! ### The lengths of the bond zone (R61, R62) -/

/-- A length of the bond zone is the sum of the overlaps of its classes. -/
theorem bondLength_eq_sum (bondTop d : Nat) (sel : Ground → Bool) (ls : List Layer) :
    bondLength bondTop d sel ls = ((ls.filter fun l => sel l.ground).map (overlap bondTop d)).sum := by
  induction ls with
  | nil => rfl
  | cons l ls ih =>
    rw [bondLength, ih, List.filter_cons]
    cases sel l.ground <;> simp

/-- Every layer is of one of the five classes. -/
theorem bondLength_classes (bondTop d : Nat) (ls : List Layer) :
    bondLength bondTop d (fun g => g == .firm || g == .hard) ls + bondLength bondTop d (fun g => g == .void) ls +
        bondLength bondTop d (fun g => g == .soft) ls + bondLength bondTop d (fun g => g == .unmeasured) ls =
      bondLength bondTop d (fun _ => true) ls := by
  induction ls with
  | nil => rfl
  | cons l ls ih =>
    simp only [bondLength]
    cases l.ground <;> simp <;> omega

/-- Layers that follow one another without a gap, in millimetres. -/
def followOn (ls : List Layer) : Prop := ∀ i a b, ls[i]? = some a → ls[i + 1]? = some b → a.bottom / 800 = b.top / 800

theorem followOn_cons {l : Layer} {ls : List Layer} (h : followOn (l :: ls)) :
    followOn ls ∧ ∀ m ∈ ls.head?, l.bottom / 800 = m.top / 800 :=
  ⟨fun i => h (i + 1), fun m hm => h 0 l m rfl (by rwa [Option.mem_def, List.head?_eq_getElem?] at hm)⟩

/-- Layers without a gap cover no more of the bond zone than lies below the top of the first. -/
theorem bondLength_le (bondTop d : Nat) {ls : List Layer} (follow : followOn ls) (extents : ∀ l ∈ ls, l.top ≤ l.bottom) :
    ∀ l ∈ ls.head?, bondLength bondTop d (fun _ => true) ls ≤ d - max (l.top / 800) bondTop := by
  induction ls with
  | nil => simp
  | cons l ls ih =>
    obtain ⟨rest, next⟩ := followOn_cons follow
    have below := ih rest fun k hk => extents k (List.mem_cons_of_mem _ hk)
    have extent : l.top / 800 ≤ l.bottom / 800 := Nat.div_le_div_right (extents l (List.mem_cons_self ..))
    simp only [List.head?_cons, Option.mem_def, Option.some.injEq, forall_eq', bondLength, if_true, overlap]
    cases ls with
    | nil => simp only [bondLength]; omega
    | cons m ls =>
      have meets := next m rfl
      have under := below m rfl
      omega

/-- Such layers cover no more than the bond zone. -/
theorem bondLength_le_zone (bondTop d : Nat) {ls : List Layer} (follow : followOn ls) (extents : ∀ l ∈ ls, l.top ≤ l.bottom) :
    bondLength bondTop d (fun _ => true) ls ≤ d - bondTop := by
  cases ls with
  | nil => simp [bondLength]
  | cons l ls =>
    have under := bondLength_le bondTop d follow extents l rfl
    omega

/-- Settles O58: each length is a sum of overlaps, the five classes cover the layers, and these cover no more than the zone. -/
theorem theFourLengthsAddUpToTheBondZone : Obligations.TheFourLengthsAddUpToTheBondZone := by
  unfold Obligations.TheFourLengthsAddUpToTheBondZone
  intro z kt maxDepth before reason layers follow extents a inZone len
  have same {sel : Ground → Bool} (gs : List Ground) (h : ∀ g, sel g = gs.contains g) :
      bondLength a.bondTop a.d sel layers = len gs := by rw [funext h]; exact bondLength_eq_sum _ _ _ _
  have competent : a.competent = len [.firm, .hard] := same _ fun g => by cases g <;> rfl
  have voidLen : a.voidLen = len [.void] := same _ fun g => by cases g <;> rfl
  have softLen : a.softLen = len [.soft] := same _ fun g => by cases g <;> rfl
  have unmeasured := same (sel := (· == .unmeasured)) [.unmeasured] fun g => by cases g <;> rfl
  have all := same (sel := fun _ => true) [.firm, .hard, .void, .soft, .unmeasured] fun g => by cases g <;> rfl
  have classes : a.competent + a.voidLen + a.softLen + bondLength a.bondTop a.d (· == .unmeasured) layers =
      bondLength a.bondTop a.d (fun _ => true) layers := bondLength_classes _ _ _
  have zone : bondLength a.bondTop a.d (fun _ => true) layers ≤ a.lb := bondLength_le_zone _ _ follow extents
  have rest : a.unmeasuredLen = a.lb - (a.competent + a.voidLen + a.softLen) := rfl
  have top : a.bondTop = a.d - z.bReq := rfl
  have length : a.lb = a.d - a.bondTop := rfl
  exact ⟨competent, voidLen, softLen, by omega, by omega, by omega, by omega⟩

/-! ### The verdict, the resin and the torque target (R63 to R67) -/

/-- ceil(a / b) is the least count of b that holds a. -/
theorem ceilDiv_le_iff {b : Nat} (hb : 1 ≤ b) (a n : Nat) : ceilDiv a b ≤ n ↔ a ≤ n * b := by
  rw [ceilDiv, ← Nat.ceilDiv_eq_add_pred_div, ceilDiv_le_iff_le_mul hb, Nat.mul_comm]

/-- An empty bond zone has no length of any class. -/
theorem bondLength_empty {bondTop d : Nat} (h : d ≤ bondTop) (sel : Ground → Bool) (ls : List Layer) :
    bondLength bondTop d sel ls = 0 := by
  induction ls with
  | nil => rfl
  | cons l ls ih =>
    have nothing : overlap bondTop d l = 0 := by unfold overlap; omega
    rw [bondLength, ih, nothing, ite_self]

/-- The tests of R63, in their order. -/
theorem verdictOf_tests (pMin lb competent voidLen : Nat) :
    (competent * 100 < lb * pMin → verdictOf pMin lb competent voidLen = .poor) ∧
      (lb * pMin ≤ competent * 100 → 0 < voidLen → verdictOf pMin lb competent voidLen = .extraResin) ∧
      (lb * pMin ≤ competent * 100 → voidLen = 0 → verdictOf pMin lb competent voidLen = .good) := by
  unfold verdictOf
  refine ⟨fun poor => if_pos poor, fun enough void => ?_, fun enough nothing => ?_⟩
  · rw [if_neg (not_lt.2 enough), if_pos void]
  · rw [if_neg (not_lt.2 enough), if_neg (by omega)]

/-- The torque target is the least pressure that reaches T_target, kept within 25,000 kPa (R67). -/
theorem pTq_least {t kt : Nat} (hk : 1 ≤ kt) :
    let p := min 25000 (ceilDiv t kt)
    p ≤ 25000 ∧ (p < 25000 → ∀ n, p ≤ n ↔ t ≤ n * kt) ∧ (p = 25000 → 24999 * kt < t) := by
  intro p
  refine ⟨Nat.min_le_left _ _, fun below n => ?_, fun held => ?_⟩
  · rw [← ceilDiv_le_iff hk, show p = ceilDiv t kt by omega]
  · have short : ¬ ceilDiv t kt ≤ 24999 := by omega
    rwa [ceilDiv_le_iff hk, not_le] at short

/-- Settles O59: the cartridges by the least count that holds V_need, the verdict by its tests, the pressure by its own least value. -/
theorem theEvaluationGivesVerdictResinMixAndTorque : Obligations.TheEvaluationGivesVerdictResinMixAndTorque := by
  unfold Obligations.TheEvaluationGivesVerdictResinMixAndTorque
  intro z kt maxDepth before reason layers hmax hvc hkt a
  have holds (n : Nat) : a.unclamped ≤ n ↔ a.vNeed ≤ n * z.vC := ceilDiv_le_iff hvc _ n
  have cartridges : a.cartridges = max 1 (min z.cMax a.unclamped) := rfl
  have capped : a.resinCapped = true ↔ z.cMax < a.unclamped := decide_eq_true_iff
  have verdict : a.verdict = if a.resinCapped = true then .poor else verdictOf z.pMin a.lb a.competent a.voidLen := rfl
  obtain ⟨pressure, reaches, limited⟩ := pTq_least (t := z.tTarget * 1000) hkt
  refine ⟨rfl, rfl, rfl, rfl, holds, by omega, by omega, by omega, capped, fun short => ⟨?_, ?_⟩, fun fits => ?_, fun empty => ?_, ?_,
    rfl, pressure, reaches, limited⟩
  · have above := capped.1 short
    omega
  · rw [verdict, if_pos short]
  · rw [verdict, if_neg (by simp [fits])]
    exact verdictOf_tests _ _ _ _
  · have voidLen : a.voidLen = 0 := bondLength_empty (Nat.sub_eq_zero_iff_le.1 empty) _ _
    have need : a.vNeed = z.aAnn * a.lb + a.voidLen * z.aVoid := rfl
    rw [empty, voidLen] at need
    have fits : a.unclamped ≤ z.cMax := (holds _).2 (by omega)
    rw [verdict, if_neg (by rw [capped]; omega), empty, voidLen]
    exact (verdictOf_tests _ _ _ _).2.2 (by omega) rfl
  · have mix : a.rMix = z.rBase + z.rStep * (a.cartridges - 1) := rfl
    obtain ⟨n, hn⟩ : ∃ n, a.cartridges = n + 1 := ⟨a.cartridges - 1, by omega⟩
    rw [mix, hn, Nat.add_sub_cancel, Nat.mul_succ, Nat.add_assoc]

end Sys2Proof.Machine

/-! ## The mix target and the torque tests (O30, O31) -/
namespace Sys2Proof.Machine

/-! ### A sample that moves counts of the controller -/

/-- In SPINNING and TORQUING the tracker moves no run. -/
theorem tracked_counting {s : State} {b : Boom} (hst : (s.boom b).ctl.state = .spinning ∨ (s.boom b).ctl.state = .torquing) (x : Sample) :
    s.sampleTracked b x = idleTracked (s.sampled b x) (s.sampleRaises b x) := by
  unfold State.sampleTracked
  rw [workedOn_untested (untested_of_uncut (by rcases hst with h | h <;> rw [h] <;> rfl) x),
    trackRuns_idle (.inr (by rw [ctl_sampled]; rcases hst with h | h <;> rw [h] <;> simp)), idleTracked]

/-- MIX_TARGET_REACHED, where it comes about in the take, is the take (log 3). -/
theorem exec_mixTargetReached {s : State} {b : Boom} (h : (s.take b).ended = some .mixed) :
    exec (.mixTargetReached b) s = .next (s.take b).state := congrArg Host.Outcome.next (if_pos (by rw [h]; rfl))

/-- So is TORQUE_ACHIEVED. -/
theorem exec_torqueAchieved {s : State} {b : Boom} (h : (s.take b).ended = some .achieved) :
    exec (.torqueAchieved b) s = .next (s.take b).state := congrArg Host.Outcome.next (if_pos (by rw [h]; rfl))

/-- So is SLIPPED, by either test. -/
theorem exec_slipped {s : State} {b : Boom} (h : (s.take b).ended = some .slippedByPressure ∨ (s.take b).ended = some .slippedByTurns) :
    exec (.slipped b) s = .next (s.take b).state := congrArg Host.Outcome.next (if_pos (by rcases h with h | h <;> rw [h] <;> rfl))

/-- What a sample leaves beside its own boom, with the counts of its controller as given. -/
theorem elsewhere_counted (s : State) (b : Boom) (x : Sample) (f : Controller → Controller) :
    s.elsewhere ((s.sampled b x).modCtl b f) b :=
  elsewhere_trans (worked_sampled s b x).apart (elsewhere_modBoom _ b _)

/-- FLOW behind an act that moves neither ports nor demands. -/
theorem flowFlags_behind {s u t : State} (hp : ∀ p, u.port p = s.port p) (ha : u.arbiter = s.arbiter) (hb : u.backdrop = s.backdrop)
    (h : u.flowFlags t) : s.flowFlags t := fun p => by
  rw [← hp, ← ha, ← absentPort_congr (straps_of_backdrop hb)]
  exact h p

/-- FLOW behind a sample that moves counts of the controller. -/
theorem flowFlags_counted {s t : State} {b : Boom} {x : Sample} {f : Controller → Controller}
    (h : ((s.sampled b x).modCtl b f).flowFlags t) : s.flowFlags t :=
  flowFlags_behind (fun p => by simp [State.sampled]) (by simp [State.sampled]) (elsewhere_counted s b x f).1 h

/-! ### SPINNING (R66, R87) -/

/-- The state behind a sample in SPINNING. -/
def State.mixedOn (s : State) (b : Boom) (x : Sample) : State :=
  (s.sampled b x).modCtl b fun c => { c with mix := min 4294967295 (c.mix + x.speed) }

theorem boom_mixedOn (s : State) (b : Boom) (x : Sample) :
    ((s.mixedOn b x).boom b).ctl.mix = min 4294967295 ((s.boom b).ctl.mix + x.speed) ∧
      ((s.mixedOn b x).boom b).ctl.hole = (s.boom b).ctl.hole ∧ ((s.mixedOn b x).boom b).anchorage = (s.boom b).anchorage := by
  simp [State.mixedOn, State.sampled]

theorem counted_spinning {s : State} {b : Boom} (hr : (s.boom b).ctl.run = some .running) (hst : (s.boom b).ctl.state = .spinning)
    (x : Sample) : s.sampleCounted b x = s.mixedOn b x := by
  rw [State.sampleCounted, tracked_counting (.inl hst)]
  simp only [State.countSample, idleTracked, ctl_sampled, hr, hst]
  rfl

/-- The mix target ends SPINNING (R87). -/
theorem take_of_mixed {s : State} {b : Boom} {x : Sample} {a : Anchorage} (hn : s.nextSample b x) (ha : (s.boom b).tracker.accepts x)
    (hst : (s.boom b).ctl.state = .spinning) (hr : (s.boom b).ctl.run = some .running) (hanch : (s.boom b).anchorage = some a)
    (target : a.mixTarget ≤ min 4294967295 ((s.boom b).ctl.mix + x.speed)) :
    (s.take b).state = (s.mixedOn b x).spinToHold b ∧ (s.take b).ended = some .mixed := by
  have counted := counted_spinning hr hst x
  have ended : sampleEnd (s.sampleCounted b x) b (s.sampleTracked b x) = some .mixed := by
    rw [counted]
    unfold sampleEnd State.mixedOn
    simp only [boom_modCtl_same, ctl_sampled, hst, anchorage_sampled, hanch]
    exact if_pos ⟨hr, target⟩
  rw [← counted]
  exact take_of_end hn ha ended

/-- HOLDING begun (R87). -/
def Controller.startHold (c : Controller) : Controller := { c.enterStage .holding with holdTimer := some 0, gelDeadline := none }

/-- The HOLD demand in the SPIN demand's place, before the allocation (R87, R107). -/
def State.holdAsked (s : State) (b : Boom) : State :=
  let u := s.modCtl b Controller.startHold
  { u with
    arbiter :=
      { u.arbiter with
        demands := (u.arbiter.demands.filter fun d => !(d.owner == b.port)) ++ [newDemand u.params.plan b.port .hold] } }

theorem spinToHold_eq (s : State) (b : Boom) :
    s.spinToHold b = ((s.holdAsked b).reallocate (s.modCtl b Controller.startHold).arbiter.demands).raise b .stageEnd := rfl

theorem ctl_holdAsked (s : State) (b : Boom) : ((s.holdAsked b).boom b).ctl = (s.boom b).ctl.startHold := by
  rw [State.holdAsked, boom_arbiter, boom_modCtl_same]

/-- HOLDING has no gel deadline, whatever the allocation makes of the new demand (R87, R92). -/
theorem gelDeadline_spinToHold (s : State) (b : Boom) : ((s.spinToHold b).boom b).ctl.gelDeadline = none := by
  have off {v : BoomView} (hv : v.state = .holding) (hg : v.gelDeadline = none) (old new : List Demand) :
      (v.handed old new b).gelDeadline = none := by
    unfold BoomView.handed
    split
    · cases boomDemand new b with
      | none => exact hg
      | some d =>
        show (v.applied d).gelDeadline = none
        have entered : v.entered.gelDeadline = none := (if_neg (by simp [hv])).trans hg
        unfold BoomView.applied
        (repeat' split) <;> assumption
    · exact hg
  show ((s.spinToHold b).boom b).view.gelDeadline = none
  rw [spinToHold_eq, boom_raise, view_reallocate]
  exact off (congrArg Controller.state (ctl_holdAsked s b) :) (congrArg Controller.gelDeadline (ctl_holdAsked s b) :) _ _

/-- What HOLDING starts with, and what it takes over (R87). -/
theorem boom_spinToHold (s : State) (b : Boom) :
    let u := (s.spinToHold b).boom b
    u.ctl.state = .holding ∧ u.ctl.holdTimer = some 0 ∧ u.ctl.gelDeadline = none ∧ u.ctl.mix = (s.boom b).ctl.mix ∧
      u.ctl.hole = (s.boom b).ctl.hole ∧ u.anchorage = (s.boom b).anchorage := by
  intro u
  have boom := ungranted_spinToHold_same s b
  exact ⟨(congrArg (fun u : BoomUnit => u.ctl.state) boom :), (congrArg (fun u : BoomUnit => u.ctl.holdTimer) boom :),
    gelDeadline_spinToHold s b, (congrArg (fun u : BoomUnit => u.ctl.mix) boom :), (congrArg (fun u : BoomUnit => u.ctl.hole) boom :),
    (congrArg BoomUnit.anchorage boom :)⟩

/-- The HOLD demand is its boom's only one. -/
theorem kinds_spinToHold (s : State) (b : Boom) : kindsOf (s.spinToHold b).arbiter.demands b = [.hold] := by
  rw [spinToHold_eq, arbiter_raise, arbiter_reallocate, kindsOf_allocate, State.holdAsked, kindsOf_append, kindsOf_newDemand,
    kindsOf_without, if_pos rfl, if_pos rfl, List.nil_append]

/-- STAGE_END raised behind an allocation. -/
theorem stageEnd_raised {s u : State} (b : Boom) (hb : u.backdrop = s.backdrop) (flow : s.flowFlags u) :
    s.flowFlags (u.raise b .stageEnd) ∧ (s.enabled b = true → ((u.raise b .stageEnd).port b.port).causes.c3 = true) := by
  have flags := flagged_raise u b .stageEnd
  rw [boomFlag_congr (straps_of_backdrop hb)] at flags
  refine ⟨fun p => ?_, fun hen => ?_⟩
  · rw [flags.causes p, arbiter_raise, ← flow p]
    simp [Causes.join, boomFlag_eq, Causes.put, Causes.clear, BoomCause.code]
  · rw [flags.causes b.port]
    simp [Causes.join, boomFlag_eq, hen, Causes.put, BoomCause.code]

/-- SPINNING's success raises FLOW for its one allocation, and STAGE_END. -/
theorem flags_spinToHold (s : State) (b : Boom) :
    s.flowFlags (s.spinToHold b) ∧ (s.enabled b = true → ((s.spinToHold b).port b.port).causes.c3 = true) := by
  have allocated : (s.modCtl b Controller.startHold).flowFlags
      ((s.holdAsked b).reallocate (s.modCtl b Controller.startHold).arbiter.demands) := fun p => by
    have flow := flow_reallocate (s.holdAsked b) (s.modCtl b Controller.startHold).arbiter.demands p
    cases p <;> exact flow
  have back : (s.holdAsked b).backdrop = s.backdrop := backdrop_modCtl s b Controller.startHold
  rw [spinToHold_eq]
  exact stageEnd_raised b (by rw [backdrop_reallocate, back])
    (flowFlags_behind (fun p => by simp) (by simp) (by simp) allocated)

/-- Settles O30: the take is the step from SPINNING to HOLDING behind the mix count. -/
theorem theMixTargetTakesSpinningToHolding : Obligations.TheMixTargetTakesSpinningToHolding := by
  unfold Obligations.TheMixTargetTakesSpinningToHolding
  intro b s x a hn ha hst hr hanch target
  obtain ⟨state, comesAbout⟩ := take_of_mixed hn ha hst hr hanch target
  have apart : s.elsewhere (s.mixedOn b x) b := elsewhere_counted s b x _
  obtain ⟨mixBefore, holeBefore, anchorageBefore⟩ := boom_mixedOn s b x
  obtain ⟨flow, stageEnd⟩ := flags_spinToHold (s.mixedOn b x) b
  obtain ⟨holding, timer, gel, mix, hole, anchorage⟩ := boom_spinToHold (s.mixedOn b x) b
  refine ⟨_, (exec_mixTargetReached comesAbout).trans (congrArg _ state), elsewhere_trans apart (elsewhere_spinToHold _ b), holding,
    timer, gel, mix.trans mixBefore, kinds_spinToHold _ b, flowFlags_counted flow, fun hen => stageEnd ?_, hole.trans holeBefore,
    anchorage.trans anchorageBefore, ?_, ?_, ?_⟩
  · rw [enabled_congr (straps_of_backdrop apart.1)]; exact hen
  all_goals simp [State.mixedOn, State.sampled]

/-! ### TORQUING (R71, R88, R89) -/

/-- The state behind a sample in TORQUING. -/
def State.torquedOn (s : State) (b : Boom) (x : Sample) (a : Anchorage) : State :=
  (s.sampled b x).modCtl b fun c => c.torqued a x

theorem counted_torquing {s : State} {b : Boom} {a : Anchorage} (hr : (s.boom b).ctl.run = some .running)
    (hst : (s.boom b).ctl.state = .torquing) (hanch : (s.boom b).anchorage = some a) (x : Sample) :
    s.sampleCounted b x = s.torquedOn b x a := by
  rw [State.sampleCounted, tracked_counting (.inr hst)]
  simp only [State.countSample, idleTracked, ctl_sampled, hr, hst, anchorage_sampled, hanch]
  simp [torqueSample_eq, State.torquedOn]

theorem boom_torquedOn (s : State) (b : Boom) (x : Sample) (a : Anchorage) :
    (s.torquedOn b x a).boom b = { (s.sampled b x).boom b with ctl := (s.boom b).ctl.torqued a x } := by
  simp [State.torquedOn, ctl_sampled]

theorem shared_torquedOn (s : State) (b : Boom) (x : Sample) (a : Anchorage) :
    (s.torquedOn b x a).rowMap = s.rowMap ∧ (s.torquedOn b x a).holeLog = s.holeLog ∧ (s.torquedOn b x a).faultLog = s.faultLog := by
  simp [State.torquedOn, State.sampled]

/-- The first torque test that applies ends TORQUING (R89). -/
theorem take_of_torqueEnd {s : State} {b : Boom} {x : Sample} {a : Anchorage} (hn : s.nextSample b x) (ha : (s.boom b).tracker.accepts x)
    (hst : (s.boom b).ctl.state = .torquing) (hr : (s.boom b).ctl.run = some .running) (hanch : (s.boom b).anchorage = some a)
    {e : SampleEnd} (test : torqueEnd ((s.boom b).ctl.torqued a x) s.params.plan.rTq = some e) :
    (s.take b).state = (s.torquedOn b x a).endOnSample b e ∧ (s.take b).ended = some e := by
  have counted := counted_torquing hr hst hanch x
  have plan : (s.torquedOn b x a).params = s.params := congrArg Backdrop.params (elsewhere_counted s b x _).1
  have state : ((s.boom b).ctl.torqued a x).state = .torquing := hst
  have ended : sampleEnd (s.sampleCounted b x) b (s.sampleTracked b x) = some e := by
    rw [counted]
    unfold sampleEnd
    simp only [boom_torquedOn, state, plan, test]
    exact if_pos hr
  rw [← counted]
  exact take_of_end hn ha ended

/-- The controller's peak outlives the end of a stage (R76). -/
theorem peak_endStage (s : State) (b : Boom) (e : StageEnd) (x : Option Nat) (st : BoomState × Option RunCondition) :
    ((s.endStage b e x st).boom b).ctl.peak = (s.boom b).ctl.peak := by
  have after (t : State) (st : BoomState) : ((t.afterStage b st e).boom b).ctl.peak = (t.boom b).ctl.peak := by
    unfold State.afterStage
    (repeat' split) <;> simp [(boom_closeHole_same _ b _ _ _).1, Controller.toIdle, Controller.enterWait]
  rw [endStage_eq, boom_stageReported, after, (congrArg Controller.peak (settleStage_same _ b _ e).2 :), boom_stageCut]

/-- A close behind the torque counts is a close of the hole as the sample found it: the record's peak has followed the counts. -/
theorem closedWith_torqued {s t : State} {b : Boom} {x : Sample} {a : Anchorage} {h : HoleRecord} {g : Grade} {f : Option FaultCode}
    {q : Option TorqueResult} (hst : (s.boom b).ctl.state = .torquing)
    (closed : (s.torquedOn b x a).closedWith t b { h with peak := some (max (s.boom b).ctl.peak x.rotation) } g f q) :
    s.closedWith t b h g f q := by
  have back : (s.torquedOn b x a).backdrop = s.backdrop := (elsewhere_counted s b x _).1
  obtain ⟨rows, holes, -⟩ := shared_torquedOn s b x a
  have ctl : ((s.torquedOn b x a).boom b).ctl = (s.boom b).ctl.torqued a x := by rw [boom_torquedOn]
  have strata : ((s.torquedOn b x a).boom b).strata = (s.boom b).strata := by simp [boom_torquedOn, BoomUnit.strata, State.sampled]
  have drilledDepth : ((s.torquedOn b x a).boom b).tracker.maxDepth = (s.boom b).tracker.maxDepth := by
    simp [boom_torquedOn, State.sampled]
  have plan : ((s.torquedOn b x a).boom b).anchorage = (s.boom b).anchorage := by simp [boom_torquedOn, State.sampled]
  have state : ((s.boom b).ctl.torqued a x).state = .torquing := hst
  have wear : ((s.torquedOn b x a).boom b).wear = (s.boom b).wear := congrArg Prod.snd strata
  have settled : (s.torquedOn b x a).settledNow b = s.settledNow b :=
    (settledNow_uncut (by rw [ctl, state]; rfl)).trans (settledNow_uncut (by rw [hst]; rfl)).symm
  obtain ⟨idle, run, hole, ⟨r, archived, grade, fault, torque, record⟩, readable, outcome, row, others⟩ := closed
  obtain ⟨layers, depth, mix, anchorage⟩ := readable
  obtain ⟨alike, time, verdict, planned, rMix, capped, views, drilled, turns, overflow, peak, -⟩ := record
  rw [holes] at archived
  rw [show (s.torquedOn b x a).millis = s.millis from congrArg Backdrop.millis back] at time
  rw [settled, handed_congr back strata] at layers
  rw [ctl, state, if_neg (by simp), plan] at anchorage
  rw [ctl] at overflow peak mix
  rw [wear] at outcome
  refine ⟨idle, run, hole, ⟨r, archived, grade, fault, torque, alike, time, verdict, planned, rMix, capped, views, drilled, turns,
    fun _ => overflow (by rw [state]; rfl), fun _ => peak rfl, fun _ h => absurd hst h⟩,
    ⟨layers, depth.trans drilledDepth, mix, anchorage.trans (if_neg (by rw [hst]; simp)).symm⟩, outcome, fun sl hsl => ?_,
    fun sl hsl => others sl (by rw [rows]; exact hsl)⟩
  have closes := row sl (by rw [rows]; exact hsl)
  unfold State.rowClosed at closes ⊢
  rw [rows, show (s.torquedOn b x a).params = s.params from congrArg Backdrop.params back] at closes
  exact closes

/-- A torque test that applies closes the hole (R83, R89, R102). -/
theorem closes_torquedOn {s : State} {b : Boom} {a : Anchorage} {h : HoleRecord} (hst : (s.boom b).ctl.state = .torquing)
    (hanch : (s.boom b).anchorage = some a) (hh : (s.boom b).ctl.hole = some h) (x : Sample) {e : StageEnd} {how : CloseKind}
    {q : TorqueResult} (he : e ≠ .resetAbort) (lead : torqueDestination e = .closes how) (hq : torqueResultOf e = some q)
    (st : BoomState × Option RunCondition) :
    let t := (s.torquedOn b x a).endStage b e none st
    s.elsewhere t b ∧ s.closedWith t b h (gradeOf how .torquing { h with torque := some q } (some a)) e.code (some q) ∧
      (s.enabled b = true → (t.port b.port).causes.c3 = true) ∧ s.flowFlags t ∧ (t.boom b).tracker.depth = s.depthAfter b x ∧
      (t.boom b).ctl.peak = max (s.boom b).ctl.peak x.rotation := by
  intro t
  have apart : s.elsewhere (s.torquedOn b x a) b := elsewhere_counted s b x _
  have ctl : ((s.torquedOn b x a).boom b).ctl = (s.boom b).ctl.torqued a x := by rw [boom_torquedOn]
  have state : ((s.torquedOn b x a).boom b).ctl.state = .torquing := by rw [ctl]; exact hst
  have hole : ((s.torquedOn b x a).boom b).ctl.hole = some { h with peak := some (max (s.boom b).ctl.peak x.rotation) } := by
    rw [ctl, Controller.torqued, hh]; rfl
  have anchorage : ((s.torquedOn b x a).boom b).anchorage = some a := by rw [boom_torquedOn, ← hanch, ← anchorage_sampled s b x]
  have closed := closedWith_endStage (s.torquedOn b x a) b hole (e := e) (how := how) (by rw [state]; rfl) (by rw [state]; exact lead)
    none st
  have torque : e.torqueAfter .torquing h.torque = some q := by rw [StageEnd.torqueAfter, if_pos rfl, hq]; rfl
  simp only [state, torque, anchorage] at closed
  rw [gradeOf_congr how .torquing (h := { h with peak := some (max (s.boom b).ctl.peak x.rotation), torque := some q })
    (k := { h with torque := some q }) rfl rfl] at closed
  refine ⟨elsewhere_trans apart (elsewhere_endStage _ b e none st), closedWith_torqued hst closed, fun hen => ?_,
    flowFlags_counted (flowFlags_endStage _ b he none st), (depth_of_core (core_endStage _ b e none st)).trans ?_,
    (peak_endStage _ b e none st).trans (by rw [ctl]; rfl)⟩
  · exact stageEnd_endStage _ b he none st (by rw [enabled_congr (straps_of_backdrop apart.1)]; exact hen)
  · rw [boom_torquedOn]
    exact (depth_sampled s b x).1

/-- The grade of a hole whose torque was achieved (R101). -/
theorem gradeOf_achieved (h : HoleRecord) (a : Anchorage) :
    gradeOf .finished .torquing { h with torque := some .achieved } (some a) =
      if a.verdict = .poor ∨ h.resinShort = true ∨ a.resinCapped = true then .c
      else if a.verdict = .extraResin then .b else .a := by
  unfold gradeOf finishedGrade
  cases hv : a.verdict <;> simp [hv]

/-- The slip run or the revolutions end TORQUING as SLIPPED where the hold run does not end it as ACHIEVED (R89). -/
theorem torqueEnd_slipped {c : Controller} {rTq : Nat} (hold : c.holdRun < 250) (slip : 100 ≤ c.slipRun ∨ rTq * 30000 < c.torqueAcc) :
    torqueEnd c rTq = some .slippedByPressure ∨ torqueEnd c rTq = some .slippedByTurns := by
  unfold torqueEnd
  rw [if_neg (by omega)]
  split
  · exact .inl rfl
  · exact .inr (if_pos (by omega))

/-- The record of a fault that ends TORQUING shows the boom as the sample found it (R96). -/
theorem faultWritten_torquedOn (s : State) (b : Boom) (x : Sample) (a : Anchorage) (f : FaultCode) :
    s.faultWritten ((s.torquedOn b x a).endStage b (.fault f) none ((s.torquedOn b x a).stance b)) b f none := by
  obtain ⟨-, -, faults⟩ := shared_torquedOn s b x a
  refine faultWritten_between (faultWritten_endStage _ b f none) (elsewhere_counted s b x _).1 ?_ ?_
  · unfold State.stance
    rw [boom_torquedOn]
    rfl
  · exact faults

/-- ACHIEVED closes the hole without a fault (R89, R101). -/
theorem achieved_closes {s : State} {b : Boom} {x : Sample} {a : Anchorage} {h : HoleRecord} (hn : s.nextSample b x)
    (ha : (s.boom b).tracker.accepts x) (hst : (s.boom b).ctl.state = .torquing) (hr : (s.boom b).ctl.run = some .running)
    (hanch : (s.boom b).anchorage = some a) (hh : (s.boom b).ctl.hole = some h)
    (achieved : 250 ≤ ((s.boom b).ctl.torqued a x).holdRun) :
    ∃ t, exec (.torqueAchieved b) s = .next t ∧ exec (.fifoTake b) s = .next t ∧ s.elsewhere t b ∧
      s.closedWith t b h
        (if a.verdict = .poor ∨ h.resinShort = true ∨ a.resinCapped = true then .c
        else if a.verdict = .extraResin then .b else .a) none (some .achieved) ∧
      (s.enabled b = true → (t.port b.port).causes.c3 = true) ∧ s.flowFlags t ∧
      t.faultLog = s.faultLog ∧ (t.boom b).link = ((s.sampled b x).boom b).link ∧
      (t.boom b).tracker.depth = s.depthAfter b x ∧ (t.boom b).ctl.peak = max (s.boom b).ctl.peak x.rotation := by
  obtain ⟨state, comesAbout⟩ := take_of_torqueEnd hn ha hst hr hanch (if_pos achieved)
  have closes := closes_torquedOn hst hanch hh x (e := .success) (how := .finished) (by simp) rfl rfl ((s.torquedOn b x a).stance b)
  rw [gradeOf_achieved] at closes
  obtain ⟨apart, closed, stageEnd, flow, depth, peak⟩ := closes
  have unlogged := (faultLog_endStage (s.torquedOn b x a) b .success none ((s.torquedOn b x a).stance b)).2 (by simp)
  have link := link_endStage (s.torquedOn b x a) b .success none ((s.torquedOn b x a).stance b)
  rw [if_pos rfl, boom_torquedOn] at link
  obtain ⟨-, -, faults⟩ := shared_torquedOn s b x a
  exact ⟨_, (exec_torqueAchieved comesAbout).trans (congrArg _ state), congrArg Host.Outcome.next state, apart, closed, stageEnd, flow,
    unlogged.trans faults, link, depth, peak⟩

/-- SLIPPED closes the hole with its fault, whichever test finds it (R89, R96, R101). -/
theorem slipped_closes {s : State} {b : Boom} {x : Sample} {a : Anchorage} {h : HoleRecord} (hn : s.nextSample b x)
    (ha : (s.boom b).tracker.accepts x) (hst : (s.boom b).ctl.state = .torquing) (hr : (s.boom b).ctl.run = some .running)
    (hanch : (s.boom b).anchorage = some a) (hh : (s.boom b).ctl.hole = some h) (hold : ((s.boom b).ctl.torqued a x).holdRun < 250)
    (slip : 100 ≤ ((s.boom b).ctl.torqued a x).slipRun ∨ s.params.plan.rTq * 30000 < ((s.boom b).ctl.torqued a x).torqueAcc) :
    ∃ t, exec (.slipped b) s = .next t ∧ exec (.fifoTake b) s = .next t ∧ s.elsewhere t b ∧
      s.closedWith t b h .f (some .slipped) (some .slipped) ∧
      s.faultWritten t b .slipped none ∧ (s.enabled b = true → (t.port b.port).causes.c3 = true) ∧ s.flowFlags t ∧
      (t.boom b).link = { ((s.sampled b x).boom b).link with stopLatch := true } ∧
      (t.boom b).tracker.depth = s.depthAfter b x ∧ (t.boom b).ctl.peak = max (s.boom b).ctl.peak x.rotation := by
  obtain ⟨state, comesAbout⟩ : (s.take b).state =
        (s.torquedOn b x a).endStage b (.fault .slipped) none ((s.torquedOn b x a).stance b) ∧
      ((s.take b).ended = some .slippedByPressure ∨ (s.take b).ended = some .slippedByTurns) := by
    rcases torqueEnd_slipped hold slip with test | test
    · exact (take_of_torqueEnd hn ha hst hr hanch test).imp_right .inl
    · exact (take_of_torqueEnd hn ha hst hr hanch test).imp_right .inr
  obtain ⟨apart, closed, stageEnd, flow, depth, peak⟩ := closes_torquedOn hst hanch hh x (e := .fault .slipped) (how := .failed)
    (by simp) rfl rfl ((s.torquedOn b x a).stance b)
  have link := link_endStage (s.torquedOn b x a) b (.fault .slipped) none ((s.torquedOn b x a).stance b)
  rw [if_neg (by simp), boom_torquedOn] at link
  exact ⟨_, (exec_slipped comesAbout).trans (congrArg _ state), congrArg Host.Outcome.next state, apart, closed,
    faultWritten_torquedOn s b x a .slipped, stageEnd, flow, link, depth, peak⟩

/-- Settles O31: the counts with the sample in them are tested, and the first test that applies closes the hole. -/
theorem theTorqueTestsCloseTheHole : Obligations.TheTorqueTestsCloseTheHole := by
  unfold Obligations.TheTorqueTestsCloseTheHole
  intro b s x a h hn ha hst hr hanch hh c
  exact ⟨achieved_closes hn ha hst hr hanch hh, slipped_closes hn ha hst hr hanch hh⟩

end Sys2Proof.Machine
